-- ==== Sys2Proof/Word.lean ====
section
/-! DEFINITION. The words of the device and the finite tables that the state is made of.

Widths are those of spec/00_scope.md (R1) and spec/06_number_formats.md (R130). A table holds plain data:
a list of (key, value) pairs with strictly rising keys. -/

namespace Sys2Proof

/-- One byte of memory (R1). -/
abbrev Byte := BitVec 8

/-- The contents of one 32-bit register, or of one lane of a vector register (R130). -/
abbrev Word := BitVec 32

/-- A 64-bit address, clause header, instruction word or register pair (R78, R223, R231). -/
abbrev Dword := BitVec 64

/-- One bit for each of the 32 lanes of a wave, bit n for lane n. -/
abbrev LaneMask := BitVec 32

/-- A finite map from numbers, as a list with strictly rising keys. -/
abbrev Tbl (α : Type) := List (Nat × α)

/-- The value at key `k`, if the table lists one. -/
def Tbl.find {α : Type} : Tbl α → Nat → Option α
  | [], _ => none
  | (j, a) :: t, k => if j = k then some a else Tbl.find t k

/-- The value at key `k`, or `d` where the table lists none. -/
def Tbl.get {α : Type} (d : α) (t : Tbl α) (k : Nat) : α := (Tbl.find t k).getD d

/-- The table with the value at `k` replaced or inserted in order. -/
def Tbl.set {α : Type} : Tbl α → Nat → α → Tbl α
  | [], k, a => [(k, a)]
  | (j, b) :: t, k, a =>
    if j = k then (k, a) :: t
    else if k < j then (k, a) :: (j, b) :: t
    else (j, b) :: Tbl.set t k a

/-- The table without key `k`. -/
def Tbl.del {α : Type} (t : Tbl α) (k : Nat) : Tbl α := t.filter (fun e => e.1 != k)

/-- The keys listed. -/
def Tbl.keys {α : Type} (t : Tbl α) : List Nat := t.map Prod.fst

/-- The values listed. -/
def Tbl.vals {α : Type} (t : Tbl α) : List α := t.map Prod.snd

/-- The 32 lane values of one vector register; a lane beyond the list reads zero. -/
abbrev Lanes := List Word

/-- The value of lane `l`. -/
def Lanes.at (v : Lanes) (l : Nat) : Word := v.getD l 0#32

/-- The register whose lane `l` holds `f l`. -/
def Lanes.of (f : Nat → Word) : Lanes := (List.range 32).map f

end Sys2Proof
end

