-- ==== Sys2Proof/Syntax.lean ====
section
/-! DEFINITION. The abstract syntax: one constructor of `Instr` for each row of spec/opcode_table.json.

The 164 opcodes of Table 11.8 carry the fields of their word's format (Table 11.4). The eight forms of CWR that
have a row of their own carry those of format B. The other rows are steps of the device outside an instruction
word; their arguments name the part of the device that acts and what reaches it from outside. -/

namespace Sys2Proof

/-- An operand code of 10 bits (R236, Table 11.7). -/
inductive Operand where
  /-- v0 to v255 -/
  | vec (n : BitVec 8)
  /-- s0 to s383 -/
  | sca (n : Nat)
  /-- an inline constant: the code less 0x280, so 0 to 0x5F are integers and 0x60 to 0x6F are f32 constants -/
  | con (c : Nat)
  /-- a reserved code 0x2F0 to 0x3FE -/
  | resv (code : Nat)
  /-- 0x3FF: zero, or a discarded destination -/
  | zero
  deriving DecidableEq, Repr

/-- Format A (Table 11.4). -/
structure FmtA where
  guard : BitVec 3
  neg : Bool
  dst : Operand
  srcA : Operand
  tA : Bool
  srcB : Operand
  tB : Bool
  srcC : Operand
  tC : Bool
  mod7 : BitVec 7
  deriving DecidableEq, Repr

/-- Format B (Table 11.4). -/
structure FmtB where
  guard : BitVec 3
  neg : Bool
  dst : Operand
  srcA : Operand
  tA : Bool
  imm24 : BitVec 24
  mod5 : BitVec 5
  deriving DecidableEq, Repr

/-- Format C (Table 11.4). -/
structure FmtC where
  guard : BitVec 3
  neg : Bool
  dst : Operand
  imm32 : BitVec 32
  mod8 : BitVec 8
  deriving DecidableEq, Repr

/-- Format P (Table 11.4); `mbz` is the field [23:22], which must be zero. -/
structure FmtP where
  guard : BitVec 3
  neg : Bool
  pT : BitVec 3
  pF : BitVec 3
  combine : BitVec 2
  mbz : BitVec 2
  srcA : Operand
  tA : Bool
  srcB : Operand
  tB : Bool
  srcC : Operand
  tC : Bool
  cond : BitVec 4
  ty : BitVec 3
  deriving DecidableEq, Repr

/-- Format M (Table 11.4); group 5 divides `off9` into the atomic operation [3:0], the scope [6:4] and a field
[8:7] that must be zero. -/
structure FmtM where
  guard : BitVec 3
  neg : Bool
  data : Operand
  addr : Operand
  tAddr : Bool
  data2 : Operand
  tD : Bool
  off9 : BitVec 9
  ctr : BitVec 3
  size : BitVec 3
  cpol : BitVec 2
  mbz : Bool
  deriving DecidableEq, Repr

/-- A flit that a link port receives (R208): its 256 bytes, and whether it carries a release frame, for which the spec names no
place among them (notes/assumptions/45.md). -/
structure LinkFlit where
  frame : Bool
  bytes : List Byte
  deriving DecidableEq, Repr

/-- Format X (Table 11.4). -/
structure FmtX where
  guard : BitVec 3
  neg : Bool
  link : Operand
  off32 : BitVec 32
  mod8 : BitVec 8
  deriving DecidableEq, Repr

/-- The TYPE field of the default mod7 layout (R234, Table 11.5). -/
def FmtA.type (f : FmtA) : Nat := f.mod7.toNat % 8
/-- The ROUND field of the default mod7 layout. -/
def FmtA.round (f : FmtA) : Nat := f.mod7.toNat / 8 % 4
/-- The SAT bit of the default mod7 layout. -/
def FmtA.sat (f : FmtA) : Bool := f.mod7.getLsbD 5
/-- The atomic operation of group 5, word bits [49:46]. -/
def FmtM.atomOp (f : FmtM) : Nat := f.off9.toNat % 16
/-- The scope of group 5, word bits [52:50]. -/
def FmtM.scope (f : FmtM) : Nat := f.off9.toNat / 16 % 8
/-- The field of group 5 that must be zero, word bits [54:53]. -/
def FmtM.zero5 (f : FmtM) : Nat := f.off9.toNat / 128

/-- The steps of the device: spec/opcode_table.json, in the order of its opcodes and then of its device steps. -/
inductive Instr where
  /-- NOP (R248): No operation; its operand fields are ignored and it waits for no register. -/
  | nop (f : FmtA)
  /-- SMOV (R254): Copies a scalar register or register pair to the destination. -/
  | smov (f : FmtA)
  /-- SMOVI (R254): Writes imm32 to a scalar or pair in one of four forms: b32, sign-extended, zero-extended or hi. -/
  | smovi (f : FmtC)
  /-- SADD (R249): Scalar integer addition, wrapping or saturating. -/
  | sadd (f : FmtA)
  /-- SSUB (R249): Scalar integer subtraction, wrapping or saturating. -/
  | ssub (f : FmtA)
  /-- SMUL (R249): Scalar integer multiplication. -/
  | smul (f : FmtA)
  /-- SMULH (R249): Gives the high 32 bits of a scalar product, signed or unsigned. -/
  | smulh (f : FmtA)
  /-- SMAD (R249): Scalar multiply-add a × b + c. -/
  | smad (f : FmtA)
  /-- SDIV (R250): Scalar integer quotient, with defined results for division by zero and overflow. -/
  | sdiv (f : FmtA)
  /-- SREM (R250): Scalar integer remainder, which takes the sign of the dividend. -/
  | srem (f : FmtA)
  /-- SMIN (R249): Scalar minimum by value. -/
  | smin (f : FmtA)
  /-- SMAX (R249): Scalar maximum by value. -/
  | smax (f : FmtA)
  /-- SAND (R249): Scalar bitwise AND. -/
  | sand (f : FmtA)
  /-- SOR (R249): Scalar bitwise OR. -/
  | sor (f : FmtA)
  /-- SXOR (R249): Scalar bitwise XOR. -/
  | sxor (f : FmtA)
  /-- SANDN (R249): Scalar a AND NOT b. -/
  | sandn (f : FmtA)
  /-- SSHL (R251): Scalar shift left by a register amount. -/
  | sshl (f : FmtA)
  /-- SSHR (R251): Scalar logical shift right. -/
  | sshr (f : FmtA)
  /-- SSRA (R251): Scalar arithmetic shift right. -/
  | ssra (f : FmtA)
  /-- SBFE (R252): Extracts a scalar bit field, with offset and width clamped. -/
  | sbfe (f : FmtA)
  /-- SBFI (R252): Inserts a scalar bit field. -/
  | sbfi (f : FmtA)
  /-- SPOPC (R253): Counts the one bits of a scalar. -/
  | spopc (f : FmtA)
  /-- SCLZ (R253): Counts the leading zero bits of a scalar. -/
  | sclz (f : FmtA)
  /-- SSEL (R254): Selects srcA or srcB by a q predicate. -/
  | ssel (f : FmtA)
  /-- SCMP (R258): Compares scalar integers into q predicates. -/
  | scmp (f : FmtP)
  /-- SADDI (R255): Scalar addition of a sign-extended immediate. -/
  | saddi (f : FmtB)
  /-- SMULI (R255): Scalar multiplication by an immediate. -/
  | smuli (f : FmtB)
  /-- SANDI (R255): Scalar AND with an immediate. -/
  | sandi (f : FmtB)
  /-- SORI (R255): Scalar OR with an immediate. -/
  | sori (f : FmtB)
  /-- SXORI (R255): Scalar XOR with an immediate. -/
  | sxori (f : FmtB)
  /-- SSHLI (R255): Scalar shift left by an immediate. -/
  | sshli (f : FmtB)
  /-- SSHRI (R255): Scalar shift right by an immediate, logical or arithmetic. -/
  | sshri (f : FmtB)
  /-- SFADD (R256): Scalar f32 addition. -/
  | sfadd (f : FmtA)
  /-- SFMUL (R256): Scalar f32 multiplication. -/
  | sfmul (f : FmtA)
  /-- SFFMA (R256): Scalar f32 fused multiply-add, rounded once. -/
  | sffma (f : FmtA)
  /-- SFCMP (R258): Compares scalar f32 values into q predicates. -/
  | sfcmp (f : FmtP)
  /-- SFCVT (R257): Performs a scalar conversion selected by mod7. -/
  | sfcvt (f : FmtA)
  /-- QLOG (R259): Combines two q predicates logically. -/
  | qlog (f : FmtP)
  /-- CRD (R260): Reads a control register into a register, once, at issue. -/
  | crd (f : FmtB)
  /-- CWR (R260): Writes a control register from a register. -/
  | cwr (f : FmtB)
  /-- SLD (R261): Scalar load from any aperture. -/
  | sld (f : FmtM)
  /-- SST (R261): Scalar store to any aperture. -/
  | sst (f : FmtM)
  /-- SLDK (R262): Constant load through the read-only path, bypassing the L1. -/
  | sldk (f : FmtB)
  /-- VTOS (R263): Copies one lane of a vector register to a scalar. -/
  | vtos (f : FmtB)
  /-- BRA (R264): Uniform branch to a clause at an offset. -/
  | bra (f : FmtX)
  /-- BRX (R264): Per-lane branch under a p guard. -/
  | brx (f : FmtX)
  /-- JMPI (R264): Indirect jump through a register pair. -/
  | jmpi (f : FmtA)
  /-- CALL (R264): Branches to an offset target and writes the link register. -/
  | call (f : FmtX)
  /-- CALLI (R264): Indirect call with a link. -/
  | calli (f : FmtA)
  /-- RET (R264): Return through a register pair; acts as JMPI. -/
  | ret (f : FmtA)
  /-- EXIT (R266): Removes the issuing entry's lanes from the frontier. -/
  | exit (f : FmtA)
  /-- YIELD (R267): Demotes the issuing entry when it is last in its clause. -/
  | yield (f : FmtA)
  /-- SLEEP (R267): Gives up the issue slot for a number of ns. -/
  | sleep (f : FmtB)
  /-- WAITDC (R267): Holds the wave until the named dependence counters reach their thresholds. -/
  | waitdc (f : FmtB)
  /-- WSYNC (R268): Holds an entry until all entries of the wave reach this WSYNC, then merges them. -/
  | wsync (f : FmtA)
  /-- BAR (R269): Arrives at, waits on, or syncs on a block, cluster or grid barrier. -/
  | bar (f : FmtB)
  /-- SPAWN (R270): Releases, then submits a card to its own die or to a neighbour. -/
  | spawn (f : FmtA)
  /-- CARDDEC (R270): Releases, then decrements a card's PREDS. -/
  | carddec (f : FmtA)
  /-- CONT (R270): Releases, then posts a copy of a continuation record. -/
  | cont (f : FmtA)
  /-- JCDEC (R270): Releases, then performs join-counter steps 2 and 3. -/
  | jcdec (f : FmtA)
  /-- CANCEL (R271): Cancels a launch, graph, phase or job of the context. -/
  | cancel (f : FmtB)
  /-- TRAP (R273): Raises SOFTWARE in every lane of the issuing entry. -/
  | trap (f : FmtB)
  /-- BKPT (R273): Raises BREAK in every lane of the issuing entry. -/
  | bkpt (f : FmtB)
  /-- HRET (R274): Ends handler mode and resumes the interrupted frontier with retry, skip or kill. -/
  | hret (f : FmtA)
  /-- FRGET (R275): Reads one frontier entry into four scalars. -/
  | frget (f : FmtB)
  /-- FRSET (R275): Writes one position of the interrupted frontier, in handler mode only. -/
  | frset (f : FmtB)
  /-- FEGET (R276): Reads a register's full/empty bits without waiting. -/
  | feget (f : FmtB)
  /-- FESET (R276): Sets a register's full/empty bits, in handler mode only. -/
  | feset (f : FmtB)
  /-- REGGROW (R277): Requests an increase of the wave's vector allotment. -/
  | reggrow (f : FmtB)
  /-- REGSHRINK (R277): Lowers the wave's vector allotment once no write is pending on the released registers. -/
  | regshrink (f : FmtB)
  /-- VMOV (R287): Copies vector bits lane by lane. -/
  | vmov (f : FmtA)
  /-- VMOVI (R287): Writes an immediate to each ACTIVE lane. -/
  | vmovi (f : FmtC)
  /-- VADD (R282): Vector integer addition. -/
  | vadd (f : FmtA)
  /-- VSUB (R282): Vector integer subtraction. -/
  | vsub (f : FmtA)
  /-- VMUL (R282): Vector integer multiplication. -/
  | vmul (f : FmtA)
  /-- VMULH (R282): Gives the high half of a vector product. -/
  | vmulh (f : FmtA)
  /-- VMAD (R282): Vector integer multiply-add. -/
  | vmad (f : FmtA)
  /-- VMIN (R282): Vector integer minimum. -/
  | vmin (f : FmtA)
  /-- VMAX (R282): Vector integer maximum. -/
  | vmax (f : FmtA)
  /-- VABS (R282): Vector integer absolute value. -/
  | vabs (f : FmtA)
  /-- VAND (R282): Vector bitwise AND. -/
  | vand (f : FmtA)
  /-- VOR (R282): Vector bitwise OR. -/
  | vor (f : FmtA)
  /-- VXOR (R282): Vector bitwise XOR. -/
  | vxor (f : FmtA)
  /-- VANDN (R282): Vector a AND NOT b. -/
  | vandn (f : FmtA)
  /-- VSHL (R284): Vector shift left per element. -/
  | vshl (f : FmtA)
  /-- VSHR (R284): Vector logical shift right. -/
  | vshr (f : FmtA)
  /-- VSRA (R284): Vector arithmetic shift right. -/
  | vsra (f : FmtA)
  /-- VBFE (R285): Per-lane bit-field extract. -/
  | vbfe (f : FmtA)
  /-- VBFI (R285): Per-lane bit-field insert. -/
  | vbfi (f : FmtA)
  /-- VPOPC (R285): Per-lane population count. -/
  | vpopc (f : FmtA)
  /-- VCLZ (R285): Per-lane count of leading zeros. -/
  | vclz (f : FmtA)
  /-- VSEL (R287): Per-lane selection by a p predicate. -/
  | vsel (f : FmtA)
  /-- VCMP (R288): Per-lane integer compare into p predicates. -/
  | vcmp (f : FmtP)
  /-- VADDI (R286): Per-lane addition of an immediate. -/
  | vaddi (f : FmtB)
  /-- VANDI (R286): Per-lane AND with an immediate. -/
  | vandi (f : FmtB)
  /-- VSHLI (R286): Per-lane shift left by an immediate. -/
  | vshli (f : FmtB)
  /-- VSHRI (R286): Per-lane shift right by an immediate. -/
  | vshri (f : FmtB)
  /-- VIDX (R287): Writes srcA + LANEID × srcB. -/
  | vidx (f : FmtA)
  /-- VDOT4 (R283): Four 8-bit products summed with a 32-bit addend. -/
  | vdot4 (f : FmtA)
  /-- VPRMT (R287): Per-lane byte permutation. -/
  | vprmt (f : FmtA)
  /-- SHFL (R291): Reads srcA from another lane by idx, xor, up or down. -/
  | shfl (f : FmtA)
  /-- VOTE (R292): Reduces a predicate over the ACTIVE lanes: any, all or ballot. -/
  | vote (f : FmtA)
  /-- PLOG (R289): Per-lane logic on p predicates. -/
  | plog (f : FmtP)
  /-- PMOV (R290): Moves between a p register and a lane mask. -/
  | pmov (f : FmtA)
  /-- VRED (R293): Reduces srcA over the lanes in a fixed tree order. -/
  | vred (f : FmtA)
  /-- VSCAN (R294): Forms the inclusive prefix of srcA over the lanes. -/
  | vscan (f : FmtA)
  /-- FADD (R296): Floating-point addition. -/
  | fadd (f : FmtA)
  /-- FSUB (R296): Floating-point subtraction. -/
  | fsub (f : FmtA)
  /-- FMUL (R296): Floating-point multiplication. -/
  | fmul (f : FmtA)
  /-- FFMA (R296): Floating-point fused multiply-add. -/
  | ffma (f : FmtA)
  /-- FMIN (R296): Floating-point minimum. -/
  | fmin (f : FmtA)
  /-- FMAX (R296): Floating-point maximum. -/
  | fmax (f : FmtA)
  /-- FMOV (R297): Sign change: abs, neg or both. -/
  | fmov (f : FmtA)
  /-- FCMP (R298): Per-lane floating-point compare into p predicates. -/
  | fcmp (f : FmtP)
  /-- FRCP (R299): Correctly rounded reciprocal. -/
  | frcp (f : FmtA)
  /-- FRSQ (R299): Correctly rounded reciprocal square root. -/
  | frsq (f : FmtA)
  /-- FSQRT (R299): Correctly rounded square root. -/
  | fsqrt (f : FmtA)
  /-- FDIV (R299): Correctly rounded division. -/
  | fdiv (f : FmtA)
  /-- FEXP2 (R300): 2^x by the reference algorithm. -/
  | fexp2 (f : FmtA)
  /-- FLOG2 (R300): log2 by the reference algorithm. -/
  | flog2 (f : FmtA)
  /-- FSINPI (R300): sin(πx) by the reference algorithm. -/
  | fsinpi (f : FmtA)
  /-- FCOSPI (R300): cos(πx) by the reference algorithm. -/
  | fcospi (f : FmtA)
  /-- FRND (R301): Rounds to an integral value. -/
  | frnd (f : FmtA)
  /-- FLDEXP (R302): Forms srcA × 2^srcB. -/
  | fldexp (f : FmtA)
  /-- FCVT (R303): Per-lane conversion selected by a code. -/
  | fcvt (f : FmtA)
  /-- FPACK (R304): Quantises f32 values into block-format codes. -/
  | fpack (f : FmtA)
  /-- FUNPACK (R304): Decodes block-format codes to f32. -/
  | funpack (f : FmtA)
  /-- FBSCALE (R305): Computes one block scale over the lanes. -/
  | fbscale (f : FmtA)
  /-- FDOT2 (R306): Two-element dot product plus an addend, rounded once. -/
  | fdot2 (f : FmtA)
  /-- FCLASS (R307): Writes a floating-point class mask. -/
  | fclass (f : FmtA)
  /-- LD (R313): Per-lane gather load. -/
  | ld (f : FmtM)
  /-- ST (R313): Per-lane scatter store. -/
  | st (f : FmtM)
  /-- LDS (R314): Storage-bank load through a 32-bit offset. -/
  | lds (f : FmtM)
  /-- STS (R314): Storage-bank store through a 32-bit offset. -/
  | sts (f : FmtM)
  /-- LDB (R315): Block load of 32 contiguous elements. -/
  | ldb (f : FmtM)
  /-- STB (R315): Block store of 32 contiguous elements. -/
  | stb (f : FmtM)
  /-- PREF (R316): Prefetches lines into the caches without faulting. -/
  | pref (f : FmtM)
  /-- ACOPY (R317): Reads and checks a copy descriptor and starts a five-loop copy on the copy unit. -/
  | acopy (f : FmtA)
  /-- FENCE (R318): Acquire, release, both or alias fence at a scope; holds the wave until complete. -/
  | fence (f : FmtB)
  /-- CINV (R319): Writes back and invalidates a range at core or package level. -/
  | cinv (f : FmtA)
  /-- CWB (R319): Writes back a range at core or package level. -/
  | cwb (f : FmtA)
  /-- ATOM (R320): Atomic read-modify-write that returns the old value. -/
  | atom (f : FmtM)
  /-- RED (R320): Atomic reduction with no return. -/
  | red (f : FmtM)
  /-- CAS (R320): Atomic compare-and-swap. -/
  | cas (f : FmtM)
  /-- TXBEGIN (R325): Releases, then begins the lanes' transactions and may join the serial FIFO. -/
  | txbegin (f : FmtX)
  /-- TXEND (R328): Validates and prepares the lanes' transactions and commits or aborts each. -/
  | txend (f : FmtA)
  /-- TXABORT (R329): Aborts the lanes' transactions with EXPLICIT. -/
  | txabort (f : FmtB)
  /-- TXSTAT (R330): Reports transaction status per lane or as a mask. -/
  | txstat (f : FmtA)
  /-- TXSERIAL (R331): Sets SERIAL in the lanes' log headers. -/
  | txserial (f : FmtA)
  /-- BANKMODE (R336): Starts the mode transition of the masked banks. -/
  | bankmode (f : FmtA)
  /-- CVSET (R338): Declares the set of a convergence register. -/
  | cvset (f : FmtA)
  /-- BMAC (R343): Signs the current round of a convergence register, lane by lane. -/
  | bmac (f : FmtA)
  /-- BRDACC (R345): Reads accumulator columns into registers through the column port. -/
  | brdacc (f : FmtA)
  /-- BWRACC (R346): Writes accumulator columns from registers. -/
  | bwracc (f : FmtA)
  /-- BACCZ (R347): Zeroes the accumulators of the masked banks. -/
  | baccz (f : FmtA)
  /-- BFILL (R348): Writes slot rows or scale bytes from registers. -/
  | bfill (f : FmtA)
  /-- BHAD (R349): Block Hadamard transform in place in a storage bank. -/
  | bhad (f : FmtA)
  /-- OPRDY (R344): Holds the wave until its BMAC operands are full and its storage stores are performed. -/
  | oprdy (f : FmtA)
  /-- XKICK (R350): Releases, then sets the context's transform kick index on its die. -/
  | xkick (f : FmtA)
  /-- MERGE (R352): Hands a MERGE descriptor to the die's merge engine. -/
  | merge (f : FmtA)
  /-- UNMERGE (R352): Hands an UNMERGE descriptor to the die's merge engine. -/
  | unmerge (f : FmtA)
  /-- MAPREL (R353): Sends the release of a loft map to the merge engine. -/
  | maprel (f : FmtA)
  /-- NMRED (R352): Hands a reduction descriptor to a base die's reduction tree. -/
  | nmred (f : FmtA)
  /-- NMSCAN (R352): Hands a scan descriptor to the base dies' scan engines. -/
  | nmscan (f : FmtA)
  /-- PROGIDX_WRITE (R47): CWR to PROGIDX sets the resume point of the wave. -/
  | progidxWrite (f : FmtB)
  /-- DC_COUNTER_WRITE (R242): CWR to DC0–DC5 sets a dependence counter for context restore. -/
  | dcCounterWrite (f : FmtB)
  /-- BTD_WRITE (R157): CWR to a bank tile descriptor waits for earlier bank work, then checks and writes it. -/
  | btdWrite (f : FmtB)
  /-- CVCFG_WRITE (R164): CWR to CVCFGc in handler mode binds and declares a convergence name. -/
  | cvcfgWrite (f : FmtB)
  /-- MAPSPILL_WRITE (R182): CWR to MAPSPILL sets the attic for the next owner change. -/
  | mapspillWrite (f : FmtB)
  /-- XRING_WRITE (R195): CWR to XRING holds the wave until the old requests complete, then applies the new rings. -/
  | xringWrite (f : FmtB)
  /-- TXLOG_WRITE (R324): CWR to TXLOG is accepted with no effect only when its value matches. -/
  | txlogWrite (f : FmtB)
  /-- TXRETRY_WRITE (R324): CWR to TXRETRY sets the serial-mode limit. -/
  | txretryWrite (f : FmtB)
  /-- ISSUE_CHOICE (R34): A quadrant with a free issue slot picks a ready wave by effective priority and round-robin. -/
  | issueChoice (quad : Nat)
  /-- LOAD_DATA_RETURN (R239): Returning load or status data fill a destination, and its counter is decremented at completion. -/
  | loadDataReturn (w k : Nat)
  /-- PROGRAM_TRAP_TAKEN (R374): A trapped entry is taken once no other entry of the wave can issue, and the wave enters handler mode. -/
  | programTrapTaken (w : Nat)
  /-- REGGROW_GRANT (R37): A waiting REGGROW is granted in order once its quadrant file has the space free. -/
  | reggrowGrant (quad : Nat)
  /-- MIRROR_COPY_DONE (R397): A background copy to a mirror completes, and the register becomes mirrored. -/
  | mirrorCopyDone (w r : Nat)
  /-- SLEEP_EXPIRY (R267): The sleep interval ends, and the wave becomes ready again. -/
  | sleepExpiry (w : Nat)
  /-- WATCHDOG_EXPIRY (R405): After 1 s without issue, WATCHDOG is raised and the waits are abandoned. -/
  | watchdogExpiry (w : Nat)
  /-- PEER_SUSPEND_EXPIRY (R406): The watchdog suspension for a recovering peer runs out, and PEER_TIMEOUT abandons the requests. -/
  | peerSuspendExpiry (w : Nat)
  /-- WAVE_COMPLETE (R266): A wave with an empty frontier completes once its returns and signed rounds are done. -/
  | waveComplete (w : Nat)
  /-- UNIT_COMPLETE (R27): The last wave completes, the unit's commands drain, and the unit releases its writes and frees its banks. -/
  | unitComplete (u : Nat)
  /-- JOIN_DECREMENT (R27): A join count is decremented at its home after the released writes are applied, and at zero it posts its record or card. -/
  | joinDecrement (k : Nat)
  /-- UNIT_POP_START (R28): An able core pops the head record and starts all the unit's waves in one clock. -/
  | unitPopStart (core : Nat)
  /-- DOORBELL_WRITE (R77): The host writes a tail, and the command processor handles the ring entries from HEAD up to it. -/
  | doorbellWrite (ctx tail : Nat)
  /-- PREDS_DECREMENT (R62): An atomic decrement of a card's PREDS at its home; the step to zero posts or cancels the card. -/
  | predsDecrement (k : Nat)
  /-- PACKAGE_QUEUE_TAKE (R64): The command processor takes a package-queue card and splits it, forwards it, or performs it. -/
  | packageQueueTake (ctx : Nat)
  /-- SHARE_START (R66): A launch share takes a free launch slot on its die and becomes RUNNING. -/
  | shareStart (die prio : Nat)
  /-- CLUSTER_PLACE (R66): A cluster's units are placed together once able cores and a barrier channel are free. -/
  | clusterPlace (die slot : Nat)
  /-- CARD_COMMAND_ISSUE (R53): A copy, transform, near-memory or merge card is issued to its engine and becomes RUNNING. -/
  | cardCommandIssue (die prio : Nat)
  /-- CARD_COMPLETE (R61): A finished card releases its writes, and once they are applied it decrements its successors and counters. -/
  | cardComplete (ctx addr : Nat)
  /-- TIME_SLICE_EXPIRY (R74): The owner's slice ends, and the command processor selects the next owner. -/
  | timeSliceExpiry (die : Nat)
  /-- OWNER_CHANGE (R75): A die passes from one context to another by the seven ordered steps. -/
  | ownerChange (die : Nat)
  /-- PREEMPT_REQUEST (R45): A unit's waves stop, drain their returns and commands, and enter the system handler. -/
  | preemptRequest (u : Nat)
  /-- DEBUGGER_HALT (R50): A debugger halt reaches a wave and is taken at the fault boundary. -/
  | debuggerHalt (w : Nat)
  /-- ROUND_COMPLETE (R162): Every bank has accumulated the last row, and each wave's counter is decremented. -/
  | roundComplete (u cv : Nat)
  /-- BANKMODE_COMPLETE (R91): The last bank of a BANKMODE finishes its transition after its waits. -/
  | bankmodeComplete (u k : Nat)
  /-- ACOPY_COMPLETE (R317): A copy's writes are performed, released, its counter decremented, and any card decremented. -/
  | acopyComplete (core k : Nat)
  /-- MERGE_COMPLETE (R173): The merge engine checks, matches, averages, writes its outputs and map and posts its status. -/
  | mergeComplete (die : Nat)
  /-- UNMERGE_COMPLETE (R179): The merge engine copies rows by the map and posts its status. -/
  | unmergeComplete (die : Nat)
  /-- MAPREL_COMPLETE (R180): The merge engine frees the named map and posts its status. -/
  | maprelComplete (die : Nat)
  /-- NMRED_COMPLETE (R190): The reduction trees combine at the collecting root, write the outputs and post the status. -/
  | nmredComplete (k : Nat)
  /-- NMSCAN_COMPLETE (R193): The scan engines' results are merged and written with their status. -/
  | nmscanComplete (k : Nat)
  /-- XFORM_REQUEST_START (R196): A transform engine takes the next request below the kick index. -/
  | xformRequestStart (die engine : Nat)
  /-- XFORM_REQUEST_COMPLETE (R199): A transform request releases its writes and writes its completion record. -/
  | xformRequestComplete (die engine : Nat)
  /-- TX_APPLY_COMPLETE (R328): The survivors' writes are applied and the lines unlocked, and TXSTAT becomes full. -/
  | txApplyComplete (w : Nat)
  /-- SERIAL_TOKEN_PASS (R332): The serial token passes to the head of the FIFO, whose lane becomes issuable. -/
  | serialTokenPass (ctx : Nat)
  /-- CELLAR_ENTRY_LEAVE (R380): A cellar entry leaves the core once 640 ns have passed since it entered. -/
  | cellarEntryLeave (core k : Nat)
  /-- WRITE_APPLY_AT_HOME (R118): A write is applied at its home once every write that happens before it is applied. -/
  | writeApplyAtHome (k : Nat)
  /-- ATOMIC_AT_HOME (R321): An atomic is performed at its home and its old value returned. -/
  | atomicAtHome (k : Nat)
  /-- ALIAS_STORE_APPLY (R194): A memory controller applies an add, max or min alias store to an element. -/
  | aliasStoreApply (k : Nat)
  /-- PAGE_WALK_COMPLETE (R86): A table walk returns a translation or a fault. -/
  | pageWalkComplete (die k : Nat)
  /-- MIGRATION_MOVE (R103): A MIGR page moves to a peer by the six ordered steps. -/
  | migrationMove (ctx page peer : Nat) (ok : Bool)
  /-- COMPRESS_WRITEBACK (R102): A dirty unit is compressed at its home and its metadata entry rewritten. -/
  | compressWriteback (frame unit : Nat)
  /-- PATROL_SCRUB_READ (R411): The scrubber reads a sector and writes back a correction if no write has intervened. -/
  | patrolScrubRead (sector outcome : Nat) (wrote : Bool)
  /-- STRIKE_REPORT_CORE (R382): A strike report at a core stops it, freezes and discards its cellar, and handles the units of the scope. -/
  | strikeReportCore (core tsEst det : Nat)
  /-- CORE_SCRUB_END (R386): The struck core's scrub ends, and the core becomes able or is retired. -/
  | coreScrubEnd (core : Nat) (ok : Bool)
  /-- STRIKE_REPORT_SLICE (R388): A strike at a slice quadrant starts its scrub, and accesses to it wait. -/
  | strikeReportSlice (die quadrant tsEst det : Nat)
  /-- SLICE_SCRUB_END (R388): The quadrant scrub ends, having corrected, invalidated or poisoned each line. -/
  | sliceScrubEnd (die quadrant : Nat) (bad : List Nat)
  /-- STRIKE_REPORT_ROUTER (R389): A struck router discards its flits, which senders resend. -/
  | strikeReportRouter (die router tsEst det : Nat) (ok : Bool)
  /-- STRIKE_REPORT_HUB (R390): A strike on a hub site traps a CP core, replays a link, or is DEVICE-FATAL. -/
  | strikeReportHub (hub site index tsEst det : Nat)
  /-- PIPE_CHECK_MISMATCH (R393): A residue or parity checker mismatch raises PIPE_CHK or fails an engine command. -/
  | pipeCheckMismatch (core unit checker pipe quad opcode : Nat)
  /-- SNAPSHOT_PAGE_COPY (R431): The first write to a protected page copies the page to the snapshot pool. -/
  | snapshotPageCopy (page : Nat)
  /-- STEP_REQUEST (R17): An operating-point request starts a relock, is held, replaces a held request, or is discarded. -/
  | stepRequest (die index : Nat)
  /-- RELOCK_END (R18): After 1,500 ns the clock restarts, SCYCLE is rescaled, and any held request is applied. -/
  | relockEnd (die : Nat)
  /-- THERMAL_LIMIT_REACHED (R22): A die reaching its junction limit is stepped to index 0. -/
  | thermalLimitReached (die : Nat)
  /-- THERMAL_OVERSTAY_EXPIRY (R22): A die above its limit for 100 ms causes a device-fatal reset. -/
  | thermalOverstayExpiry (die : Nat)
  /-- LIMIT_REFUSAL (R222): The limit block clips or ignores a firmware attempt and counts it in LIMITLOG. -/
  | limitRefusal (row die : Nat)
  /-- MODULE_RESET (R20): Any reset clears all state, and the boot ROM starts again. -/
  | moduleReset (image : List Byte) (sig : List Byte) (svn : Nat)
  /-- DEVICE_FATAL (R371): A device-fatal error is posted, BOOTST set to fatal, and a 10 ms grace begins. -/
  | deviceFatal (cls detail : Nat)
  /-- BAR2_ACCESS (R204): A host read or write through BAR2 goes through its home slice. -/
  | bar2Access (write : Bool) (addr : Nat) (data : List Byte)
  /-- BAR0_REGISTER_WRITE (R205): A host write to a BAR0 register with no row of its own, ignored where the rules say so. -/
  | bar0RegisterWrite (off : Nat) (val : Dword)
  /-- MBSTAT_WRITE (R207): A write of 0 to MBSTAT clears OVERRUN. -/
  | mbstatWrite (val : Dword)
  /-- FLASH_ENTRY_COMPLETE (R213): An NVMe transfer completes and its entry's status is written. -/
  | flashEntryComplete (k status : Nat) (data : List Byte)
  /-- CCI_SEGMENT_LOAD (R217): A segment arrives from flash, is digested, and its ready bit is set or its bytes zeroed. -/
  | cciSegmentLoad (seg : Nat) (ok : Bool) (data : List Byte)
  /-- INJCTL_WRITE (R442): A host write to INJCTL arms or replaces an injected error. -/
  | injctlWrite (val : Dword)
  /-- PEER_REQUEST_ARRIVE (R89): A request from a peer chip arrives and is served at its home without translation. -/
  | peerRequestArrive (peer addr op : Nat) (data : List Byte)
  /-- LINK_FLIT_RECEIVE (R440): A flit is received, and a failing or duplicate flit is dropped with a resend requested. -/
  | linkFlitReceive (port seq : Nat) (flit : LinkFlit)
  /-- LINK_FLOW_STOP (R210): A STOP message stops a virtual channel at the next flit boundary. -/
  | linkFlowStop (port vc : Nat)
  /-- LINK_FLOW_GO (R210): A GO message resumes a stopped virtual channel. -/
  | linkFlowGo (port vc : Nat)
  /-- LINK_RETRAIN_COMPLETE (R440): A port reaches UP again and resends its unacknowledged flits. -/
  | linkRetrainComplete (port : Nat)
  /-- LINK_RETRAIN_TIMEOUT (R440): A port not UP within 2 s goes DOWN. -/
  | linkRetrainTimeout (port : Nat)
  /-- UCIE_UNRECOVERABLE (R441): An unrecoverable die-to-die link error is DEVICE-FATAL. -/
  | ucieUnrecoverable (die : Nat)
  /-- UNASSIGNED_OPCODE (R241): A slot word whose opcode is unassigned reaches issue and raises ILLEGAL_OP in every lane of the issuing entry. -/
  | unassignedOpcode (word : Dword)
  /-- LINK_TRAINING_COMPLETE (R211): A Kalpafer port that starts DOWN after reset trains with its peer, learns PEER and CMPOK, and reaches UP. -/
  | linkTrainingComplete (port peer : Nat) (cmpok : Bool)
  /-- CLAUSE_FETCH (R423): Fetches a clause and checks its header and slots before any instruction issues. -/
  | clauseFetch
  /-- CARD_REGISTER (R57): A card adds to its graph, phase and job counters, waiting for a counter if none is free, then is posted or held. -/
  | cardRegister
  /-- HOST_SIGNAL_PERFORM (R61): After a SYSTEM release, the value is written to the host address and the MSI-X message is sent. -/
  | hostSignalPerform
  /-- COOP_ADMIT (R67): The next COOP launch is admitted and begins to reserve resources. -/
  | coopAdmit
  /-- COOP_START (R67): All units of a COOP launch start in one clock once every unit is placed. -/
  | coopStart
  /-- STAGED_EGRESS_FLUSH (R392): After the last unit, staged off-package writes are sent and acknowledged before COMPLETE. -/
  | stagedEgressFlush
  /-- RELEASE_FRAME_RECEIVE (R117): A release frame is received, and its clock is announced for later acquires. -/
  | releaseFrameReceive
  /-- FAULT_RECORD_POST (R371): A group of fault records is posted once the fault log has room. -/
  | faultRecordPost
  /-- ERROR_RECORD_POST (R370): The command processor writes an error record, releases, writes WRIDX and sends MSI-X. -/
  | errorRecordPost
  /-- MIGRATION_WINDOW_END (R104): A migration window ends, clearing the counts and unfreezing pages. -/
  | migrationWindowEnd
  /-- POOL_REFILL_UNPIN (R412): When free chunks exceed the larder, it refills and pinned lines are written back. -/
  | poolRefillUnpin
  /-- COMPRESS_STALL_EXPIRY (R412): A write held for 10 ms stops its context with STALLED. -/
  | compressStallExpiry
  /-- CP_CORE_RESTART (R390): A struck CP core that is not the active scheduler restarts from its verified image. -/
  | cpCoreRestart
  /-- LAUNCH_REPLAY (R433): A launch is stopped, its snapshot restored, and it is re-posted at the head. -/
  | launchReplay
  /-- EGRESS_QUARANTINE_RELEASE (R391): A hub's egress lets a flit go once 640 ns have passed since its production time. -/
  | egressQuarantineRelease
  /-- TIMER_FAILOVER (R15): Hub 1's reference timer replaces a failed master. -/
  | timerFailover
  /-- FATAL_GRACE_EXPIRY (R371): The 10 ms grace after a device-fatal error ends, and the module resets. -/
  | fatalGraceExpiry
  /-- HEARTBEAT_WRITE (R437): The active scheduler writes the limit block's heartbeat. -/
  | heartbeatWrite
  /-- HEARTBEAT_TIMEOUT (R437): 100 ms without a heartbeat starts a scheduler takeover. -/
  | heartbeatTimeout
  /-- SCHEDULER_TAKEOVER (R437): The standby core replays the journal, rescans kicks, restarts mailbox operations and resumes. -/
  | schedulerTakeover
  /-- CTXON (R449): Mailbox operation that checks a context descriptor and admits the context. -/
  | ctxon
  /-- CTXOFF (R207): Mailbox operation that cancels a context's jobs, drains them, frees its maps and drops it. -/
  | ctxoff
  /-- TLBINV (R207): Mailbox operation that invalidates translations of a range, after which faulting lanes translate again. -/
  | tlbinv
  /-- FLASHXFER (R213): Mailbox operation that issues a list of flash transfers. -/
  | flashxfer
  /-- CCILOAD (R217): Mailbox operation that checks and loads a signed cache image. -/
  | cciload
  /-- ATTEST (R221): Mailbox operation that writes a signed attestation report. -/
  | attest
  deriving DecidableEq, Repr

end Sys2Proof
end

