-- ==== Sys2Proof/WellFormed.lean ====
section
/-! DEFINITION. What makes a term of the syntax an instruction or a step of this device: operand numbers that an
operand code can hold, a CWR under the row its index names, and events that name existing parts (R8, R13, R236,
R242). -/

namespace Sys2Proof

/-- An operand that some 10-bit code names (Table 11.7). -/
def Operand.wf (o : Operand) : Bool :=
  match o with
  | .vec _ => true
  | .sca n => n < 384
  | .con c => c < 0x70
  | .resv c => 0x2F0 ≤ c && c < 0x3FF
  | .zero => true

/-- The rows that a CWR word can belong to. -/
inductive CwrClass where
  | progidx | dcCounter | btd | cvcfg | mapspill | xring | txlog | txretry | other
  deriving DecidableEq, Repr

/-- The row of a CWR with this imm24 (Table 11.9): imm24[11:0] is the index, and imm24[23:12] is reserved. The two
write rows of a convergence name, CVLISTc and CVCFGc, are restored together by R164; the row of its own is that
of CVCFG. -/
def cwrClass (imm : BitVec 24) : CwrClass :=
  let n := imm.toNat
  if n = 0x006 then .progidx
  else if 0x010 ≤ n ∧ n ≤ 0x015 then .dcCounter
  else if n = 0x018 then .txlog
  else if n = 0x019 then .txretry
  else if n = 0x01A then .mapspill
  else if n = 0x01B then .xring
  else if 0x041 ≤ n ∧ n ≤ 0x05F ∧ n % 2 = 1 then .cvcfg
  else if 0x100 ≤ n ∧ n ≤ 0x17F then .btd
  else .other

/-- The opcodes of Table 11.8. -/
def assigned (op : Nat) : Bool :=
  op ≤ 0x02B || (0x080 ≤ op && op ≤ 0x099) || (0x100 ≤ op && op ≤ 0x11D) || (0x120 ≤ op && op ≤ 0x125)
    || (0x180 ≤ op && op ≤ 0x197) || (0x200 ≤ op && op ≤ 0x20A) || (0x280 ≤ op && op ≤ 0x287)
    || (0x300 ≤ op && op ≤ 0x30E)

def FmtA.wf (f : FmtA) : Bool := f.dst.wf && f.srcA.wf && f.srcB.wf && f.srcC.wf
def FmtB.wf (f : FmtB) : Bool := f.dst.wf && f.srcA.wf
def FmtC.wf (f : FmtC) : Bool := f.dst.wf
def FmtP.wf (f : FmtP) : Bool := f.srcA.wf && f.srcB.wf && f.srcC.wf
def FmtM.wf (f : FmtM) : Bool := f.data.wf && f.addr.wf && f.data2.wf
def FmtX.wf (f : FmtX) : Bool := f.link.wf

/-- A compute die (R8). -/
def dieOk (d : Nat) : Bool := d < 84
/-- A core of the module, numbered die × 16 + core (R13). -/
def coreOk (c : Nat) : Bool := c < 1344
/-- A wave slot of the module (R80). -/
def waveOk (w : Nat) : Bool := w < 129024
/-- A context number (R73). -/
def ctxOk (c : Nat) : Bool := c < 64
/-- A Kalpafer link port (R208). -/
def portOk (p : Nat) : Bool := p < 16

/-- The well-formed instructions and steps. -/
def Instr.wf (i : Instr) : Bool :=
  match i with
  | .nop f => f.wf
  | .smov f => f.wf
  | .smovi f => f.wf
  | .sadd f => f.wf
  | .ssub f => f.wf
  | .smul f => f.wf
  | .smulh f => f.wf
  | .smad f => f.wf
  | .sdiv f => f.wf
  | .srem f => f.wf
  | .smin f => f.wf
  | .smax f => f.wf
  | .sand f => f.wf
  | .sor f => f.wf
  | .sxor f => f.wf
  | .sandn f => f.wf
  | .sshl f => f.wf
  | .sshr f => f.wf
  | .ssra f => f.wf
  | .sbfe f => f.wf
  | .sbfi f => f.wf
  | .spopc f => f.wf
  | .sclz f => f.wf
  | .ssel f => f.wf
  | .scmp f => f.wf
  | .saddi f => f.wf
  | .smuli f => f.wf
  | .sandi f => f.wf
  | .sori f => f.wf
  | .sxori f => f.wf
  | .sshli f => f.wf
  | .sshri f => f.wf
  | .sfadd f => f.wf
  | .sfmul f => f.wf
  | .sffma f => f.wf
  | .sfcmp f => f.wf
  | .sfcvt f => f.wf
  | .qlog f => f.wf
  | .crd f => f.wf
  | .cwr f => f.wf && cwrClass f.imm24 = .other
  | .sld f => f.wf
  | .sst f => f.wf
  | .sldk f => f.wf
  | .vtos f => f.wf
  | .bra f => f.wf
  | .brx f => f.wf
  | .jmpi f => f.wf
  | .call f => f.wf
  | .calli f => f.wf
  | .ret f => f.wf
  | .exit f => f.wf
  | .yield f => f.wf
  | .sleep f => f.wf
  | .waitdc f => f.wf
  | .wsync f => f.wf
  | .bar f => f.wf
  | .spawn f => f.wf
  | .carddec f => f.wf
  | .cont f => f.wf
  | .jcdec f => f.wf
  | .cancel f => f.wf
  | .trap f => f.wf
  | .bkpt f => f.wf
  | .hret f => f.wf
  | .frget f => f.wf
  | .frset f => f.wf
  | .feget f => f.wf
  | .feset f => f.wf
  | .reggrow f => f.wf
  | .regshrink f => f.wf
  | .vmov f => f.wf
  | .vmovi f => f.wf
  | .vadd f => f.wf
  | .vsub f => f.wf
  | .vmul f => f.wf
  | .vmulh f => f.wf
  | .vmad f => f.wf
  | .vmin f => f.wf
  | .vmax f => f.wf
  | .vabs f => f.wf
  | .vand f => f.wf
  | .vor f => f.wf
  | .vxor f => f.wf
  | .vandn f => f.wf
  | .vshl f => f.wf
  | .vshr f => f.wf
  | .vsra f => f.wf
  | .vbfe f => f.wf
  | .vbfi f => f.wf
  | .vpopc f => f.wf
  | .vclz f => f.wf
  | .vsel f => f.wf
  | .vcmp f => f.wf
  | .vaddi f => f.wf
  | .vandi f => f.wf
  | .vshli f => f.wf
  | .vshri f => f.wf
  | .vidx f => f.wf
  | .vdot4 f => f.wf
  | .vprmt f => f.wf
  | .shfl f => f.wf
  | .vote f => f.wf
  | .plog f => f.wf
  | .pmov f => f.wf
  | .vred f => f.wf
  | .vscan f => f.wf
  | .fadd f => f.wf
  | .fsub f => f.wf
  | .fmul f => f.wf
  | .ffma f => f.wf
  | .fmin f => f.wf
  | .fmax f => f.wf
  | .fmov f => f.wf
  | .fcmp f => f.wf
  | .frcp f => f.wf
  | .frsq f => f.wf
  | .fsqrt f => f.wf
  | .fdiv f => f.wf
  | .fexp2 f => f.wf
  | .flog2 f => f.wf
  | .fsinpi f => f.wf
  | .fcospi f => f.wf
  | .frnd f => f.wf
  | .fldexp f => f.wf
  | .fcvt f => f.wf
  | .fpack f => f.wf
  | .funpack f => f.wf
  | .fbscale f => f.wf
  | .fdot2 f => f.wf
  | .fclass f => f.wf
  | .ld f => f.wf
  | .st f => f.wf
  | .lds f => f.wf
  | .sts f => f.wf
  | .ldb f => f.wf
  | .stb f => f.wf
  | .pref f => f.wf
  | .acopy f => f.wf
  | .fence f => f.wf
  | .cinv f => f.wf
  | .cwb f => f.wf
  | .atom f => f.wf
  | .red f => f.wf
  | .cas f => f.wf
  | .txbegin f => f.wf
  | .txend f => f.wf
  | .txabort f => f.wf
  | .txstat f => f.wf
  | .txserial f => f.wf
  | .bankmode f => f.wf
  | .cvset f => f.wf
  | .bmac f => f.wf
  | .brdacc f => f.wf
  | .bwracc f => f.wf
  | .baccz f => f.wf
  | .bfill f => f.wf
  | .bhad f => f.wf
  | .oprdy f => f.wf
  | .xkick f => f.wf
  | .merge f => f.wf
  | .unmerge f => f.wf
  | .maprel f => f.wf
  | .nmred f => f.wf
  | .nmscan f => f.wf
  | .progidxWrite f => f.wf && cwrClass f.imm24 = .progidx
  | .dcCounterWrite f => f.wf && cwrClass f.imm24 = .dcCounter
  | .btdWrite f => f.wf && cwrClass f.imm24 = .btd
  | .cvcfgWrite f => f.wf && cwrClass f.imm24 = .cvcfg
  | .mapspillWrite f => f.wf && cwrClass f.imm24 = .mapspill
  | .xringWrite f => f.wf && cwrClass f.imm24 = .xring
  | .txlogWrite f => f.wf && cwrClass f.imm24 = .txlog
  | .txretryWrite f => f.wf && cwrClass f.imm24 = .txretry
  | .issueChoice quad => quad < 5376
  | .loadDataReturn w _ => waveOk w
  | .programTrapTaken w => waveOk w
  | .reggrowGrant quad => quad < 5376
  | .mirrorCopyDone w r => waveOk w && r < 256
  | .sleepExpiry w => waveOk w
  | .watchdogExpiry w => waveOk w
  | .peerSuspendExpiry w => waveOk w
  | .waveComplete w => waveOk w
  | .unitComplete _ => true
  | .joinDecrement _ => true
  | .unitPopStart core => coreOk core
  | .doorbellWrite ctx _ => ctxOk ctx
  | .predsDecrement _ => true
  | .packageQueueTake ctx => ctxOk ctx
  | .shareStart die prio => dieOk die && prio < 4
  | .clusterPlace die slot => dieOk die && slot < 64
  | .cardCommandIssue die prio => dieOk die && prio < 4
  | .cardComplete ctx _ => ctxOk ctx
  | .timeSliceExpiry die => dieOk die
  | .ownerChange die => dieOk die
  | .preemptRequest _ => true
  | .debuggerHalt w => waveOk w
  | .roundComplete _ cv => cv < 16
  | .bankmodeComplete _ _ => true
  | .acopyComplete core _ => coreOk core
  | .mergeComplete die => dieOk die
  | .unmergeComplete die => dieOk die
  | .maprelComplete die => dieOk die
  | .nmredComplete _ => true
  | .nmscanComplete _ => true
  | .xformRequestStart die engine => dieOk die && engine < 2
  | .xformRequestComplete die engine => dieOk die && engine < 2
  | .txApplyComplete w => waveOk w
  | .serialTokenPass ctx => ctxOk ctx
  | .cellarEntryLeave core _ => coreOk core
  | .writeApplyAtHome _ => true
  | .atomicAtHome _ => true
  | .aliasStoreApply _ => true
  | .pageWalkComplete die _ => dieOk die
  | .migrationMove ctx _ peer _ => ctxOk ctx && peer < 1024
  | .compressWriteback _ _ => true
  | .patrolScrubRead _ _ _ => true
  | .strikeReportCore core _ _ => coreOk core
  | .coreScrubEnd core _ => coreOk core
  | .strikeReportSlice die quadrant _ _ => dieOk die && quadrant < 8
  | .sliceScrubEnd die quadrant _ => dieOk die && quadrant < 8
  | .strikeReportRouter die router _ _ _ => dieOk die && router < 8
  | .strikeReportHub hub _ _ _ _ => hub < 2
  | .pipeCheckMismatch core _ _ _ _ _ => coreOk core
  | .snapshotPageCopy _ => true
  | .stepRequest die index => dieOk die && index < 5
  | .relockEnd die => dieOk die
  | .thermalLimitReached die => dieOk die
  | .thermalOverstayExpiry die => dieOk die
  | .limitRefusal _ _ => true
  | .moduleReset _ _ _ => true
  | .deviceFatal _ _ => true
  | .bar2Access _ _ _ => true
  | .bar0RegisterWrite _ _ => true
  | .mbstatWrite _ => true
  | .flashEntryComplete _ _ _ => true
  | .cciSegmentLoad seg _ _ => seg < 2 ^ 32
  | .injctlWrite _ => true
  | .peerRequestArrive peer _ _ _ => peer < 1024
  | .linkFlitReceive port _ _ => portOk port
  | .linkFlowStop port _ => portOk port
  | .linkFlowGo port _ => portOk port
  | .linkRetrainComplete port => portOk port
  | .linkRetrainTimeout port => portOk port
  | .ucieUnrecoverable _ => true
  | .unassignedOpcode word => !(assigned (word.extractLsb' 0 10).toNat)
  | .linkTrainingComplete port peer _ => portOk port && peer < 1024
  | .clauseFetch => true
  | .cardRegister => true
  | .hostSignalPerform => true
  | .coopAdmit => true
  | .coopStart => true
  | .stagedEgressFlush => true
  | .releaseFrameReceive => true
  | .faultRecordPost => true
  | .errorRecordPost => true
  | .migrationWindowEnd => true
  | .poolRefillUnpin => true
  | .compressStallExpiry => true
  | .cpCoreRestart => true
  | .launchReplay => true
  | .egressQuarantineRelease => true
  | .timerFailover => true
  | .fatalGraceExpiry => true
  | .heartbeatWrite => true
  | .heartbeatTimeout => true
  | .schedulerTakeover => true
  | .ctxon => true
  | .ctxoff => true
  | .tlbinv => true
  | .flashxfer => true
  | .cciload => true
  | .attest => true

end Sys2Proof
end

