-- ==== Sys2Proof/Decode.lean ====
section
/-! DEFINITION. Decoding of instruction words (R231, R232, Table 11.8), the register offset of packed slots (R229),
and the encoder written from the same tables. -/

namespace Sys2Proof

/-- The operand that a 10-bit code names (R236). -/
def operandOf (c : BitVec 10) : Operand :=
  let n := c.toNat
  if n < 0x100 then .vec (c.setWidth 8)
  else if n < 0x280 then .sca (n - 0x100)
  else if n < 0x2F0 then .con (n - 0x280)
  else if n < 0x3FF then .resv n
  else .zero

/-- The fields of a format A word. -/
def fmtA (w : Dword) : FmtA where
  guard := w.extractLsb' 10 3
  neg := w.getLsbD 13
  dst := operandOf (w.extractLsb' 14 10)
  srcA := operandOf (w.extractLsb' 24 10)
  tA := w.getLsbD 34
  srcB := operandOf (w.extractLsb' 35 10)
  tB := w.getLsbD 45
  srcC := operandOf (w.extractLsb' 46 10)
  tC := w.getLsbD 56
  mod7 := w.extractLsb' 57 7

/-- The fields of a format B word. -/
def fmtB (w : Dword) : FmtB where
  guard := w.extractLsb' 10 3
  neg := w.getLsbD 13
  dst := operandOf (w.extractLsb' 14 10)
  srcA := operandOf (w.extractLsb' 24 10)
  tA := w.getLsbD 34
  imm24 := w.extractLsb' 35 24
  mod5 := w.extractLsb' 59 5

/-- The fields of a format C word. -/
def fmtC (w : Dword) : FmtC where
  guard := w.extractLsb' 10 3
  neg := w.getLsbD 13
  dst := operandOf (w.extractLsb' 14 10)
  imm32 := w.extractLsb' 24 32
  mod8 := w.extractLsb' 56 8

/-- The fields of a format P word. -/
def fmtP (w : Dword) : FmtP where
  guard := w.extractLsb' 10 3
  neg := w.getLsbD 13
  pT := w.extractLsb' 14 3
  pF := w.extractLsb' 17 3
  combine := w.extractLsb' 20 2
  mbz := w.extractLsb' 22 2
  srcA := operandOf (w.extractLsb' 24 10)
  tA := w.getLsbD 34
  srcB := operandOf (w.extractLsb' 35 10)
  tB := w.getLsbD 45
  srcC := operandOf (w.extractLsb' 46 10)
  tC := w.getLsbD 56
  cond := w.extractLsb' 57 4
  ty := w.extractLsb' 61 3

/-- The fields of a format M word. -/
def fmtM (w : Dword) : FmtM where
  guard := w.extractLsb' 10 3
  neg := w.getLsbD 13
  data := operandOf (w.extractLsb' 14 10)
  addr := operandOf (w.extractLsb' 24 10)
  tAddr := w.getLsbD 34
  data2 := operandOf (w.extractLsb' 35 10)
  tD := w.getLsbD 45
  off9 := w.extractLsb' 46 9
  ctr := w.extractLsb' 55 3
  size := w.extractLsb' 58 3
  cpol := w.extractLsb' 61 2
  mbz := w.getLsbD 63

/-- The fields of a format X word. -/
def fmtX (w : Dword) : FmtX where
  guard := w.extractLsb' 10 3
  neg := w.getLsbD 13
  link := operandOf (w.extractLsb' 14 10)
  off32 := w.extractLsb' 24 32
  mod8 := w.extractLsb' 56 8

/-- The row of the table that a CWR word belongs to: the eight control registers whose write has a row of its own,
and CWR for every other index (R242). -/
def decodeCwr (f : FmtB) : Instr :=
  match cwrClass f.imm24 with
  | .progidx => .progidxWrite f
  | .dcCounter => .dcCounterWrite f
  | .txlog => .txlogWrite f
  | .txretry => .txretryWrite f
  | .mapspill => .mapspillWrite f
  | .xring => .xringWrite f
  | .cvcfg => .cvcfgWrite f
  | .btd => .btdWrite f
  | .other => .cwr f

/-- The scalar opcodes of Table 11.8 (group 0). -/
def decodeGroup0 (op : Nat) (w : Dword) : Instr :=
  match op with
  | 0x000 => .nop (fmtA w)
  | 0x001 => .smov (fmtA w)
  | 0x002 => .smovi (fmtC w)
  | 0x003 => .sadd (fmtA w)
  | 0x004 => .ssub (fmtA w)
  | 0x005 => .smul (fmtA w)
  | 0x006 => .smulh (fmtA w)
  | 0x007 => .smad (fmtA w)
  | 0x008 => .sdiv (fmtA w)
  | 0x009 => .srem (fmtA w)
  | 0x00A => .smin (fmtA w)
  | 0x00B => .smax (fmtA w)
  | 0x00C => .sand (fmtA w)
  | 0x00D => .sor (fmtA w)
  | 0x00E => .sxor (fmtA w)
  | 0x00F => .sandn (fmtA w)
  | 0x010 => .sshl (fmtA w)
  | 0x011 => .sshr (fmtA w)
  | 0x012 => .ssra (fmtA w)
  | 0x013 => .sbfe (fmtA w)
  | 0x014 => .sbfi (fmtA w)
  | 0x015 => .spopc (fmtA w)
  | 0x016 => .sclz (fmtA w)
  | 0x017 => .ssel (fmtA w)
  | 0x018 => .scmp (fmtP w)
  | 0x019 => .saddi (fmtB w)
  | 0x01A => .smuli (fmtB w)
  | 0x01B => .sandi (fmtB w)
  | 0x01C => .sori (fmtB w)
  | 0x01D => .sxori (fmtB w)
  | 0x01E => .sshli (fmtB w)
  | 0x01F => .sshri (fmtB w)
  | 0x020 => .sfadd (fmtA w)
  | 0x021 => .sfmul (fmtA w)
  | 0x022 => .sffma (fmtA w)
  | 0x023 => .sfcmp (fmtP w)
  | 0x024 => .sfcvt (fmtA w)
  | 0x025 => .qlog (fmtP w)
  | 0x026 => .crd (fmtB w)
  | 0x027 => decodeCwr (fmtB w)
  | 0x028 => .sld (fmtM w)
  | 0x029 => .sst (fmtM w)
  | 0x02A => .sldk (fmtB w)
  | 0x02B => .vtos (fmtB w)
  | _ => .unassignedOpcode w

/-- The control opcodes of Table 11.8 (group 1). -/
def decodeGroup1 (op : Nat) (w : Dword) : Instr :=
  match op with
  | 0x080 => .bra (fmtX w)
  | 0x081 => .brx (fmtX w)
  | 0x082 => .jmpi (fmtA w)
  | 0x083 => .call (fmtX w)
  | 0x084 => .calli (fmtA w)
  | 0x085 => .ret (fmtA w)
  | 0x086 => .exit (fmtA w)
  | 0x087 => .yield (fmtA w)
  | 0x088 => .sleep (fmtB w)
  | 0x089 => .waitdc (fmtB w)
  | 0x08A => .wsync (fmtA w)
  | 0x08B => .bar (fmtB w)
  | 0x08C => .spawn (fmtA w)
  | 0x08D => .carddec (fmtA w)
  | 0x08E => .cont (fmtA w)
  | 0x08F => .jcdec (fmtA w)
  | 0x090 => .cancel (fmtB w)
  | 0x091 => .trap (fmtB w)
  | 0x092 => .bkpt (fmtB w)
  | 0x093 => .hret (fmtA w)
  | 0x094 => .frget (fmtB w)
  | 0x095 => .frset (fmtB w)
  | 0x096 => .feget (fmtB w)
  | 0x097 => .feset (fmtB w)
  | 0x098 => .reggrow (fmtB w)
  | 0x099 => .regshrink (fmtB w)
  | _ => .unassignedOpcode w

/-- The vector integer opcodes of Table 11.8 (group 2). -/
def decodeGroup2 (op : Nat) (w : Dword) : Instr :=
  match op with
  | 0x100 => .vmov (fmtA w)
  | 0x101 => .vmovi (fmtC w)
  | 0x102 => .vadd (fmtA w)
  | 0x103 => .vsub (fmtA w)
  | 0x104 => .vmul (fmtA w)
  | 0x105 => .vmulh (fmtA w)
  | 0x106 => .vmad (fmtA w)
  | 0x107 => .vmin (fmtA w)
  | 0x108 => .vmax (fmtA w)
  | 0x109 => .vabs (fmtA w)
  | 0x10A => .vand (fmtA w)
  | 0x10B => .vor (fmtA w)
  | 0x10C => .vxor (fmtA w)
  | 0x10D => .vandn (fmtA w)
  | 0x10E => .vshl (fmtA w)
  | 0x10F => .vshr (fmtA w)
  | 0x110 => .vsra (fmtA w)
  | 0x111 => .vbfe (fmtA w)
  | 0x112 => .vbfi (fmtA w)
  | 0x113 => .vpopc (fmtA w)
  | 0x114 => .vclz (fmtA w)
  | 0x115 => .vsel (fmtA w)
  | 0x116 => .vcmp (fmtP w)
  | 0x117 => .vaddi (fmtB w)
  | 0x118 => .vandi (fmtB w)
  | 0x119 => .vshli (fmtB w)
  | 0x11A => .vshri (fmtB w)
  | 0x11B => .vidx (fmtA w)
  | 0x11C => .vdot4 (fmtA w)
  | 0x11D => .vprmt (fmtA w)
  | 0x120 => .shfl (fmtA w)
  | 0x121 => .vote (fmtA w)
  | 0x122 => .plog (fmtP w)
  | 0x123 => .pmov (fmtA w)
  | 0x124 => .vred (fmtA w)
  | 0x125 => .vscan (fmtA w)
  | _ => .unassignedOpcode w

/-- The floating-point opcodes of Table 11.8 (group 3). -/
def decodeGroup3 (op : Nat) (w : Dword) : Instr :=
  match op with
  | 0x180 => .fadd (fmtA w)
  | 0x181 => .fsub (fmtA w)
  | 0x182 => .fmul (fmtA w)
  | 0x183 => .ffma (fmtA w)
  | 0x184 => .fmin (fmtA w)
  | 0x185 => .fmax (fmtA w)
  | 0x186 => .fmov (fmtA w)
  | 0x187 => .fcmp (fmtP w)
  | 0x188 => .frcp (fmtA w)
  | 0x189 => .frsq (fmtA w)
  | 0x18A => .fsqrt (fmtA w)
  | 0x18B => .fdiv (fmtA w)
  | 0x18C => .fexp2 (fmtA w)
  | 0x18D => .flog2 (fmtA w)
  | 0x18E => .fsinpi (fmtA w)
  | 0x18F => .fcospi (fmtA w)
  | 0x190 => .frnd (fmtA w)
  | 0x191 => .fldexp (fmtA w)
  | 0x192 => .fcvt (fmtA w)
  | 0x193 => .fpack (fmtA w)
  | 0x194 => .funpack (fmtA w)
  | 0x195 => .fbscale (fmtA w)
  | 0x196 => .fdot2 (fmtA w)
  | 0x197 => .fclass (fmtA w)
  | _ => .unassignedOpcode w

/-- The memory opcodes of Table 11.8 (group 4). -/
def decodeGroup4 (op : Nat) (w : Dword) : Instr :=
  match op with
  | 0x200 => .ld (fmtM w)
  | 0x201 => .st (fmtM w)
  | 0x202 => .lds (fmtM w)
  | 0x203 => .sts (fmtM w)
  | 0x204 => .ldb (fmtM w)
  | 0x205 => .stb (fmtM w)
  | 0x206 => .pref (fmtM w)
  | 0x207 => .acopy (fmtA w)
  | 0x208 => .fence (fmtB w)
  | 0x209 => .cinv (fmtA w)
  | 0x20A => .cwb (fmtA w)
  | _ => .unassignedOpcode w

/-- The atomic and transaction opcodes of Table 11.8 (group 5). -/
def decodeGroup5 (op : Nat) (w : Dword) : Instr :=
  match op with
  | 0x280 => .atom (fmtM w)
  | 0x281 => .red (fmtM w)
  | 0x282 => .cas (fmtM w)
  | 0x283 => .txbegin (fmtX w)
  | 0x284 => .txend (fmtA w)
  | 0x285 => .txabort (fmtB w)
  | 0x286 => .txstat (fmtA w)
  | 0x287 => .txserial (fmtA w)
  | _ => .unassignedOpcode w

/-- The bank and engine opcodes of Table 11.8 (group 6). -/
def decodeGroup6 (op : Nat) (w : Dword) : Instr :=
  match op with
  | 0x300 => .bankmode (fmtA w)
  | 0x301 => .cvset (fmtA w)
  | 0x302 => .bmac (fmtA w)
  | 0x303 => .brdacc (fmtA w)
  | 0x304 => .bwracc (fmtA w)
  | 0x305 => .baccz (fmtA w)
  | 0x306 => .bfill (fmtA w)
  | 0x307 => .bhad (fmtA w)
  | 0x308 => .oprdy (fmtA w)
  | 0x309 => .xkick (fmtA w)
  | 0x30A => .merge (fmtA w)
  | 0x30B => .unmerge (fmtA w)
  | 0x30C => .maprel (fmtA w)
  | 0x30D => .nmred (fmtA w)
  | 0x30E => .nmscan (fmtA w)
  | _ => .unassignedOpcode w

/-- The instruction that a word gives. Every word gives one: a word whose opcode is not assigned gives the row
UNASSIGNED_OPCODE (R241). -/
def decode (w : Dword) : Instr :=
  let op := (w.extractLsb' 0 10).toNat
  match op / 128 with
  | 0 => decodeGroup0 op w
  | 1 => decodeGroup1 op w
  | 2 => decodeGroup2 op w
  | 3 => decodeGroup3 op w
  | 4 => decodeGroup4 op w
  | 5 => decodeGroup5 op w
  | 6 => decodeGroup6 op w
  | _ => .unassignedOpcode w

/-- Why bytes give no instruction. -/
inductive DecodeError where
  /-- fewer than the eight bytes of a word -/
  | truncated
  deriving DecidableEq, Repr

/-- The word that eight bytes make, little-endian (R1). -/
def wordOfBytes : List Byte → Option (Dword × List Byte)
  | b0 :: b1 :: b2 :: b3 :: b4 :: b5 :: b6 :: b7 :: rest =>
    some (b7 ++ b6 ++ b5 ++ b4 ++ b3 ++ b2 ++ b1 ++ b0, rest)
  | _ => none

/-- The instruction at the head of a list of bytes, with the bytes after it. -/
def decodeBytes (l : List Byte) : Except DecodeError (Instr × List Byte) :=
  match wordOfBytes l with
  | some (w, rest) => .ok (decode w, rest)
  | none => .error .truncated

/-- One operand field with the register offset of a packed slot applied: a vector register code is replaced by
(code + VOFF) mod 256, and every other code is unchanged (R229). -/
def voffCode (v : Nat) (c : BitVec 10) : BitVec 10 :=
  if c.toNat < 0x100 then BitVec.ofNat 10 ((c.toNat + v) % 256) else c

/-- The word with the 10-bit field at `lo` changed by `voffCode`. -/
def voffAt (v lo : Nat) (w : Dword) : Dword :=
  let c := w.extractLsb' lo 10
  (w &&& ~~~ (BitVec.ofNat 64 0x3FF <<< lo)) ||| ((voffCode v c).setWidth 64 <<< lo)

/-- The formats of Table 11.4. -/
inductive Fmt where
  | a | b | c | p | m | x
  deriving DecidableEq, Repr

/-- The format of an opcode, where it is assigned (Table 11.8). -/
def fmtOf (op : Nat) : Option Fmt :=
  match op with
  | 0x019 | 0x01A | 0x01B | 0x01C | 0x01D | 0x01E | 0x01F | 0x026 => some .b
  | 0x027 | 0x02A | 0x02B | 0x088 | 0x089 | 0x08B | 0x090 | 0x091 => some .b
  | 0x092 | 0x094 | 0x095 | 0x096 | 0x097 | 0x098 | 0x099 | 0x117 => some .b
  | 0x118 | 0x119 | 0x11A | 0x208 | 0x285 => some .b
  | 0x002 | 0x101 => some .c
  | 0x018 | 0x023 | 0x025 | 0x116 | 0x122 | 0x187 => some .p
  | 0x028 | 0x029 | 0x200 | 0x201 | 0x202 | 0x203 | 0x204 | 0x205 => some .m
  | 0x206 | 0x280 | 0x281 | 0x282 => some .m
  | 0x080 | 0x081 | 0x083 | 0x283 => some .x
  | _ =>
    if op ≤ 0x02B || (0x080 ≤ op && op ≤ 0x099) || (0x100 ≤ op && op ≤ 0x11D) || (0x120 ≤ op && op ≤ 0x125)
      || (0x180 ≤ op && op ≤ 0x197) || (0x200 ≤ op && op ≤ 0x20A) || (0x280 ≤ op && op ≤ 0x287)
      || (0x300 ≤ op && op ≤ 0x30E) then some .a else none

/-- The word of a dictionary entry with the register offset of a code applied to every operand field of its format
(R229); an unassigned word has no operand field. Fields that hold predicate selectors and indices are left as they are: srcA
and srcB of QLOG and PLOG, srcA of VOTE and of PMOV.get, and dst of PMOV.set. -/
def applyVoff (v : Nat) (w : Dword) : Dword :=
  let op := (w.extractLsb' 0 10).toNat
  match fmtOf op with
  | some .a =>
    let rest := voffAt v 46 (voffAt v 35 w)
    if op = 0x121 then voffAt v 14 rest
    else if op = 0x123 then (if w.getLsbD 57 then voffAt v 24 rest else voffAt v 14 rest)
    else voffAt v 24 (voffAt v 14 rest)
  | some .p => if op = 0x025 ∨ op = 0x122 then voffAt v 46 w else voffAt v 46 (voffAt v 35 (voffAt v 24 w))
  | some .b => voffAt v 24 (voffAt v 14 w)
  | some .c => voffAt v 14 w
  | some .m => voffAt v 35 (voffAt v 24 (voffAt v 14 w))
  | some .x => w
  | none => w

/-- The 10-bit code of an operand (R236). -/
def codeOf (o : Operand) : BitVec 10 :=
  match o with
  | .vec n => n.setWidth 10
  | .sca n => BitVec.ofNat 10 (0x100 + n)
  | .con c => BitVec.ofNat 10 (0x280 + c)
  | .resv c => BitVec.ofNat 10 c
  | .zero => 0x3FF#10

/-- A format A word. -/
def wordA (op : BitVec 10) (f : FmtA) : Dword :=
  f.mod7 ++ BitVec.ofBool f.tC ++ codeOf f.srcC ++ BitVec.ofBool f.tB ++ codeOf f.srcB ++ BitVec.ofBool f.tA
    ++ codeOf f.srcA ++ codeOf f.dst ++ BitVec.ofBool f.neg ++ f.guard ++ op

/-- A format B word. -/
def wordB (op : BitVec 10) (f : FmtB) : Dword :=
  f.mod5 ++ f.imm24 ++ BitVec.ofBool f.tA ++ codeOf f.srcA ++ codeOf f.dst ++ BitVec.ofBool f.neg ++ f.guard ++ op

/-- A format C word. -/
def wordC (op : BitVec 10) (f : FmtC) : Dword :=
  f.mod8 ++ f.imm32 ++ codeOf f.dst ++ BitVec.ofBool f.neg ++ f.guard ++ op

/-- A format P word. -/
def wordP (op : BitVec 10) (f : FmtP) : Dword :=
  f.ty ++ f.cond ++ BitVec.ofBool f.tC ++ codeOf f.srcC ++ BitVec.ofBool f.tB ++ codeOf f.srcB ++ BitVec.ofBool f.tA
    ++ codeOf f.srcA ++ f.mbz ++ f.combine ++ f.pF ++ f.pT ++ BitVec.ofBool f.neg ++ f.guard ++ op

/-- A format M word. -/
def wordM (op : BitVec 10) (f : FmtM) : Dword :=
  BitVec.ofBool f.mbz ++ f.cpol ++ f.size ++ f.ctr ++ f.off9 ++ BitVec.ofBool f.tD ++ codeOf f.data2
    ++ BitVec.ofBool f.tAddr ++ codeOf f.addr ++ codeOf f.data ++ BitVec.ofBool f.neg ++ f.guard ++ op

/-- A format X word. -/
def wordX (op : BitVec 10) (f : FmtX) : Dword :=
  f.mod8 ++ f.off32 ++ codeOf f.link ++ BitVec.ofBool f.neg ++ f.guard ++ op

/-- The word of an instruction; the steps of the device that are not instructions have none. -/
def encode (i : Instr) : Option Dword :=
  match i with
  | .nop f => some (wordA 0x000#10 f)
  | .smov f => some (wordA 0x001#10 f)
  | .smovi f => some (wordC 0x002#10 f)
  | .sadd f => some (wordA 0x003#10 f)
  | .ssub f => some (wordA 0x004#10 f)
  | .smul f => some (wordA 0x005#10 f)
  | .smulh f => some (wordA 0x006#10 f)
  | .smad f => some (wordA 0x007#10 f)
  | .sdiv f => some (wordA 0x008#10 f)
  | .srem f => some (wordA 0x009#10 f)
  | .smin f => some (wordA 0x00A#10 f)
  | .smax f => some (wordA 0x00B#10 f)
  | .sand f => some (wordA 0x00C#10 f)
  | .sor f => some (wordA 0x00D#10 f)
  | .sxor f => some (wordA 0x00E#10 f)
  | .sandn f => some (wordA 0x00F#10 f)
  | .sshl f => some (wordA 0x010#10 f)
  | .sshr f => some (wordA 0x011#10 f)
  | .ssra f => some (wordA 0x012#10 f)
  | .sbfe f => some (wordA 0x013#10 f)
  | .sbfi f => some (wordA 0x014#10 f)
  | .spopc f => some (wordA 0x015#10 f)
  | .sclz f => some (wordA 0x016#10 f)
  | .ssel f => some (wordA 0x017#10 f)
  | .scmp f => some (wordP 0x018#10 f)
  | .saddi f => some (wordB 0x019#10 f)
  | .smuli f => some (wordB 0x01A#10 f)
  | .sandi f => some (wordB 0x01B#10 f)
  | .sori f => some (wordB 0x01C#10 f)
  | .sxori f => some (wordB 0x01D#10 f)
  | .sshli f => some (wordB 0x01E#10 f)
  | .sshri f => some (wordB 0x01F#10 f)
  | .sfadd f => some (wordA 0x020#10 f)
  | .sfmul f => some (wordA 0x021#10 f)
  | .sffma f => some (wordA 0x022#10 f)
  | .sfcmp f => some (wordP 0x023#10 f)
  | .sfcvt f => some (wordA 0x024#10 f)
  | .qlog f => some (wordP 0x025#10 f)
  | .crd f => some (wordB 0x026#10 f)
  | .cwr f => some (wordB 0x027#10 f)
  | .sld f => some (wordM 0x028#10 f)
  | .sst f => some (wordM 0x029#10 f)
  | .sldk f => some (wordB 0x02A#10 f)
  | .vtos f => some (wordB 0x02B#10 f)
  | .bra f => some (wordX 0x080#10 f)
  | .brx f => some (wordX 0x081#10 f)
  | .jmpi f => some (wordA 0x082#10 f)
  | .call f => some (wordX 0x083#10 f)
  | .calli f => some (wordA 0x084#10 f)
  | .ret f => some (wordA 0x085#10 f)
  | .exit f => some (wordA 0x086#10 f)
  | .yield f => some (wordA 0x087#10 f)
  | .sleep f => some (wordB 0x088#10 f)
  | .waitdc f => some (wordB 0x089#10 f)
  | .wsync f => some (wordA 0x08A#10 f)
  | .bar f => some (wordB 0x08B#10 f)
  | .spawn f => some (wordA 0x08C#10 f)
  | .carddec f => some (wordA 0x08D#10 f)
  | .cont f => some (wordA 0x08E#10 f)
  | .jcdec f => some (wordA 0x08F#10 f)
  | .cancel f => some (wordB 0x090#10 f)
  | .trap f => some (wordB 0x091#10 f)
  | .bkpt f => some (wordB 0x092#10 f)
  | .hret f => some (wordA 0x093#10 f)
  | .frget f => some (wordB 0x094#10 f)
  | .frset f => some (wordB 0x095#10 f)
  | .feget f => some (wordB 0x096#10 f)
  | .feset f => some (wordB 0x097#10 f)
  | .reggrow f => some (wordB 0x098#10 f)
  | .regshrink f => some (wordB 0x099#10 f)
  | .vmov f => some (wordA 0x100#10 f)
  | .vmovi f => some (wordC 0x101#10 f)
  | .vadd f => some (wordA 0x102#10 f)
  | .vsub f => some (wordA 0x103#10 f)
  | .vmul f => some (wordA 0x104#10 f)
  | .vmulh f => some (wordA 0x105#10 f)
  | .vmad f => some (wordA 0x106#10 f)
  | .vmin f => some (wordA 0x107#10 f)
  | .vmax f => some (wordA 0x108#10 f)
  | .vabs f => some (wordA 0x109#10 f)
  | .vand f => some (wordA 0x10A#10 f)
  | .vor f => some (wordA 0x10B#10 f)
  | .vxor f => some (wordA 0x10C#10 f)
  | .vandn f => some (wordA 0x10D#10 f)
  | .vshl f => some (wordA 0x10E#10 f)
  | .vshr f => some (wordA 0x10F#10 f)
  | .vsra f => some (wordA 0x110#10 f)
  | .vbfe f => some (wordA 0x111#10 f)
  | .vbfi f => some (wordA 0x112#10 f)
  | .vpopc f => some (wordA 0x113#10 f)
  | .vclz f => some (wordA 0x114#10 f)
  | .vsel f => some (wordA 0x115#10 f)
  | .vcmp f => some (wordP 0x116#10 f)
  | .vaddi f => some (wordB 0x117#10 f)
  | .vandi f => some (wordB 0x118#10 f)
  | .vshli f => some (wordB 0x119#10 f)
  | .vshri f => some (wordB 0x11A#10 f)
  | .vidx f => some (wordA 0x11B#10 f)
  | .vdot4 f => some (wordA 0x11C#10 f)
  | .vprmt f => some (wordA 0x11D#10 f)
  | .shfl f => some (wordA 0x120#10 f)
  | .vote f => some (wordA 0x121#10 f)
  | .plog f => some (wordP 0x122#10 f)
  | .pmov f => some (wordA 0x123#10 f)
  | .vred f => some (wordA 0x124#10 f)
  | .vscan f => some (wordA 0x125#10 f)
  | .fadd f => some (wordA 0x180#10 f)
  | .fsub f => some (wordA 0x181#10 f)
  | .fmul f => some (wordA 0x182#10 f)
  | .ffma f => some (wordA 0x183#10 f)
  | .fmin f => some (wordA 0x184#10 f)
  | .fmax f => some (wordA 0x185#10 f)
  | .fmov f => some (wordA 0x186#10 f)
  | .fcmp f => some (wordP 0x187#10 f)
  | .frcp f => some (wordA 0x188#10 f)
  | .frsq f => some (wordA 0x189#10 f)
  | .fsqrt f => some (wordA 0x18A#10 f)
  | .fdiv f => some (wordA 0x18B#10 f)
  | .fexp2 f => some (wordA 0x18C#10 f)
  | .flog2 f => some (wordA 0x18D#10 f)
  | .fsinpi f => some (wordA 0x18E#10 f)
  | .fcospi f => some (wordA 0x18F#10 f)
  | .frnd f => some (wordA 0x190#10 f)
  | .fldexp f => some (wordA 0x191#10 f)
  | .fcvt f => some (wordA 0x192#10 f)
  | .fpack f => some (wordA 0x193#10 f)
  | .funpack f => some (wordA 0x194#10 f)
  | .fbscale f => some (wordA 0x195#10 f)
  | .fdot2 f => some (wordA 0x196#10 f)
  | .fclass f => some (wordA 0x197#10 f)
  | .ld f => some (wordM 0x200#10 f)
  | .st f => some (wordM 0x201#10 f)
  | .lds f => some (wordM 0x202#10 f)
  | .sts f => some (wordM 0x203#10 f)
  | .ldb f => some (wordM 0x204#10 f)
  | .stb f => some (wordM 0x205#10 f)
  | .pref f => some (wordM 0x206#10 f)
  | .acopy f => some (wordA 0x207#10 f)
  | .fence f => some (wordB 0x208#10 f)
  | .cinv f => some (wordA 0x209#10 f)
  | .cwb f => some (wordA 0x20A#10 f)
  | .atom f => some (wordM 0x280#10 f)
  | .red f => some (wordM 0x281#10 f)
  | .cas f => some (wordM 0x282#10 f)
  | .txbegin f => some (wordX 0x283#10 f)
  | .txend f => some (wordA 0x284#10 f)
  | .txabort f => some (wordB 0x285#10 f)
  | .txstat f => some (wordA 0x286#10 f)
  | .txserial f => some (wordA 0x287#10 f)
  | .bankmode f => some (wordA 0x300#10 f)
  | .cvset f => some (wordA 0x301#10 f)
  | .bmac f => some (wordA 0x302#10 f)
  | .brdacc f => some (wordA 0x303#10 f)
  | .bwracc f => some (wordA 0x304#10 f)
  | .baccz f => some (wordA 0x305#10 f)
  | .bfill f => some (wordA 0x306#10 f)
  | .bhad f => some (wordA 0x307#10 f)
  | .oprdy f => some (wordA 0x308#10 f)
  | .xkick f => some (wordA 0x309#10 f)
  | .merge f => some (wordA 0x30A#10 f)
  | .unmerge f => some (wordA 0x30B#10 f)
  | .maprel f => some (wordA 0x30C#10 f)
  | .nmred f => some (wordA 0x30D#10 f)
  | .nmscan f => some (wordA 0x30E#10 f)
  | .progidxWrite f => some (wordB 0x027#10 f)
  | .dcCounterWrite f => some (wordB 0x027#10 f)
  | .btdWrite f => some (wordB 0x027#10 f)
  | .cvcfgWrite f => some (wordB 0x027#10 f)
  | .mapspillWrite f => some (wordB 0x027#10 f)
  | .xringWrite f => some (wordB 0x027#10 f)
  | .txlogWrite f => some (wordB 0x027#10 f)
  | .txretryWrite f => some (wordB 0x027#10 f)
  | .issueChoice _ => none
  | .loadDataReturn _ _ => none
  | .programTrapTaken _ => none
  | .reggrowGrant _ => none
  | .mirrorCopyDone _ _ => none
  | .sleepExpiry _ => none
  | .watchdogExpiry _ => none
  | .peerSuspendExpiry _ => none
  | .waveComplete _ => none
  | .unitComplete _ => none
  | .joinDecrement _ => none
  | .unitPopStart _ => none
  | .doorbellWrite _ _ => none
  | .predsDecrement _ => none
  | .packageQueueTake _ => none
  | .shareStart _ _ => none
  | .clusterPlace _ _ => none
  | .cardCommandIssue _ _ => none
  | .cardComplete _ _ => none
  | .timeSliceExpiry _ => none
  | .ownerChange _ => none
  | .preemptRequest _ => none
  | .debuggerHalt _ => none
  | .roundComplete _ _ => none
  | .bankmodeComplete _ _ => none
  | .acopyComplete _ _ => none
  | .mergeComplete _ => none
  | .unmergeComplete _ => none
  | .maprelComplete _ => none
  | .nmredComplete _ => none
  | .nmscanComplete _ => none
  | .xformRequestStart _ _ => none
  | .xformRequestComplete _ _ => none
  | .txApplyComplete _ => none
  | .serialTokenPass _ => none
  | .cellarEntryLeave _ _ => none
  | .writeApplyAtHome _ => none
  | .atomicAtHome _ => none
  | .aliasStoreApply _ => none
  | .pageWalkComplete _ _ => none
  | .migrationMove _ _ _ _ => none
  | .compressWriteback _ _ => none
  | .patrolScrubRead _ _ _ => none
  | .strikeReportCore _ _ _ => none
  | .coreScrubEnd _ _ => none
  | .strikeReportSlice _ _ _ _ => none
  | .sliceScrubEnd _ _ _ => none
  | .strikeReportRouter _ _ _ _ _ => none
  | .strikeReportHub _ _ _ _ _ => none
  | .pipeCheckMismatch _ _ _ _ _ _ => none
  | .snapshotPageCopy _ => none
  | .stepRequest _ _ => none
  | .relockEnd _ => none
  | .thermalLimitReached _ => none
  | .thermalOverstayExpiry _ => none
  | .limitRefusal _ _ => none
  | .moduleReset _ _ _ => none
  | .deviceFatal _ _ => none
  | .bar2Access _ _ _ => none
  | .bar0RegisterWrite _ _ => none
  | .mbstatWrite _ => none
  | .flashEntryComplete _ _ _ => none
  | .cciSegmentLoad _ _ _ => none
  | .injctlWrite _ => none
  | .peerRequestArrive _ _ _ _ => none
  | .linkFlitReceive _ _ _ => none
  | .linkFlowStop _ _ => none
  | .linkFlowGo _ _ => none
  | .linkRetrainComplete _ => none
  | .linkRetrainTimeout _ => none
  | .ucieUnrecoverable _ => none
  | .unassignedOpcode w => some w
  | .linkTrainingComplete _ _ _ => none
  | .clauseFetch => none
  | .cardRegister => none
  | .hostSignalPerform => none
  | .coopAdmit => none
  | .coopStart => none
  | .stagedEgressFlush => none
  | .releaseFrameReceive => none
  | .faultRecordPost => none
  | .errorRecordPost => none
  | .migrationWindowEnd => none
  | .poolRefillUnpin => none
  | .compressStallExpiry => none
  | .cpCoreRestart => none
  | .launchReplay => none
  | .egressQuarantineRelease => none
  | .timerFailover => none
  | .fatalGraceExpiry => none
  | .heartbeatWrite => none
  | .heartbeatTimeout => none
  | .schedulerTakeover => none
  | .ctxon => none
  | .ctxoff => none
  | .tlbinv => none
  | .flashxfer => none
  | .cciload => none
  | .attest => none

/-- The instruction that the decoder reads from an instruction whose bits are `w`; bits above the table's count are
zero. The spec's table gives its rows no bits, and every word has 64. -/
def decodeTableWord (nbits w : Nat) : Option Instr :=
  if nbits ≤ 64 then some (decode (BitVec.ofNat 64 (w % 2 ^ nbits))) else none

end Sys2Proof
end

