-- ==== Sys2Proof/Machine/Bits.lean ====
section
/-! DEFINITION. Bit fields, sign extension, byte order and lane masks: the helpers that decoding and the
meanings share (R1, R130, R224, R232). -/

namespace Sys2Proof.Machine

/-- Bits [lo + n - 1 : lo] of a number. -/
def bitsOf (x lo n : Nat) : Nat := (x >>> lo) % 2 ^ n

/-- Bit `i` of a number. -/
def bitOf (x i : Nat) : Bool := x.testBit i

/-- Bits [lo + n - 1 : lo] of a bit vector, as a number. -/
def fieldN {w : Nat} (x : BitVec w) (lo n : Nat) : Nat := bitsOf x.toNat lo n

/-- The number whose `n` bits from `lo` up are `v`, for packing fields. -/
def placeN (v lo n : Nat) : Nat := (v % 2 ^ n) <<< lo

/-- The two's-complement value of the low `w` bits of `x`. -/
def sext (w x : Nat) : Int :=
  let y := x % 2 ^ w
  if w = 0 then 0 else if y < 2 ^ (w - 1) then (y : Int) else (y : Int) - 2 ^ w

/-- An integer modulo 2^w. -/
def wrapN (w : Nat) (x : Int) : Nat := (x % (2 ^ w : Int)).toNat

/-- An integer clamped to [lo, hi]. -/
def clampI (lo hi x : Int) : Int := if x < lo then lo else if hi < x then hi else x

/-- Truth as a number. -/
def boolN (b : Bool) : Nat := if b then 1 else 0

/-- The `n` bytes of a number, lowest first (R1: little-endian). -/
def toBytes : Nat → Nat → List Byte
  | 0, _ => []
  | n + 1, x => BitVec.ofNat 8 x :: toBytes n (x / 256)

/-- The number whose bytes are listed lowest first. -/
def ofBytes : List Byte → Nat
  | [] => 0
  | b :: t => b.toNat + 256 * ofBytes t

/-- Bytes `i` to `i + n - 1` of a list, as a number; bytes beyond the list count as zero. -/
def leAt (l : List Byte) (i n : Nat) : Nat := ofBytes ((l.drop i).take n)

/-- Byte `i` of a list as a number. -/
def byteAt (l : List Byte) (i : Nat) : Nat := (l.getD i 0#8).toNat

/-- The 64-bit word of a pair of 32-bit halves. -/
def pairOf (lo hi : Word) : Dword := hi ++ lo

/-- The low half of a 64-bit word. -/
def loHalf (x : Dword) : Word := x.setWidth 32

/-- The high half of a 64-bit word. -/
def hiHalf (x : Dword) : Word := (x >>> 32).setWidth 32

/-- Every lane. -/
def allLanes : LaneMask := BitVec.allOnes 32

/-- Lane `l` is in the mask. -/
def inMask (m : LaneMask) (l : Nat) : Bool := m.getLsbD l

/-- The mask of one lane. -/
def laneBit (l : Nat) : LaneMask := BitVec.ofNat 32 (2 ^ l)

/-- The lanes of a mask in ascending order (R7). -/
def lanesOf (m : LaneMask) : List Nat := (List.range 32).filter (fun l => m.getLsbD l)

/-- The lowest lane of a mask, 0 if it is empty. -/
def lowestLane (m : LaneMask) : Nat := (lanesOf m).headD 0

/-- The mask whose lane `l` is set when `f l`. -/
def maskOf (f : Nat → Bool) : LaneMask :=
  (List.range 32).foldl (fun m l => if f l then m ||| laneBit l else m) 0#32

/-- The mask of the lanes listed. -/
def maskOfList (ls : List Nat) : LaneMask := ls.foldl (fun m l => m ||| laneBit l) 0#32

/-- The number of one bits among the low `n` bits of `x`. -/
def popN : Nat → Nat → Nat
  | 0, _ => 0
  | n + 1, x => x % 2 + popN n (x / 2)

/-- The number of binary digits of `x`, at most `n` of them looked at: 0 for zero. -/
def bitLenN : Nat → Nat → Nat
  | 0, _ => 0
  | n + 1, x => if x = 0 then 0 else 1 + bitLenN n (x / 2)

/-- The least multiple of `m` that is at least `x`, counted in units of `m`. -/
def ceilDiv (x m : Nat) : Nat := (x + m - 1) / m

/-- The list with the element at position `i` replaced. -/
def putAt {α : Type} (l : List α) (i : Nat) (a : α) : List α := l.set i a

/-- The position of the first element that satisfies `f`. -/
def posOf {α : Type} (f : α → Bool) : List α → Option Nat
  | [] => none
  | a :: t => if f a then some 0 else (posOf f t).map (· + 1)

/-- Insert keeping an order: before the first element that `lt` puts after it. -/
def insertBy {α : Type} (lt : α → α → Bool) (a : α) : List α → List α
  | [] => [a]
  | b :: t => if lt a b then a :: b :: t else b :: insertBy lt a t

/-- Sort by insertion; equal elements keep their order. -/
def sortBy {α : Type} (lt : α → α → Bool) (l : List α) : List α :=
  l.foldl (fun acc a => insertBy lt a acc) []

end Sys2Proof.Machine
end

