-- ==== Sys2Proof/Machine/Float.lean ====
section
/-! DEFINITION. Floating-point types, exact arithmetic and rounding (R132 to R137), the reference algorithms
(R145 to R150), block formats (R138 to R141) and aligned forms (R142 to R144). -/

namespace Sys2Proof.Machine

/-- A floating-point layout: exponent and fraction widths, bias, and the magnitude bits of the largest finite value,
of infinity where there is one, and of the canonical NaN where there is one. -/
structure FTy where
  ew : Nat
  fw : Nat
  bias : Int
  maxMag : Nat
  infMag : Option Nat
  nan : Nat
  deriving DecidableEq, Repr

def f32Ty : FTy := ⟨8, 23, 127, 0x7F7FFFFF, some 0x7F800000, 0x7FC00000⟩
def f16Ty : FTy := ⟨5, 10, 15, 0x7BFF, some 0x7C00, 0x7E00⟩
def bf16Ty : FTy := ⟨8, 7, 127, 0x7F7F, some 0x7F80, 0x7FC0⟩
def e2m1Ty : FTy := ⟨2, 1, 1, 0x7, none, 0⟩
def e4m3Ty : FTy := ⟨4, 3, 7, 0x7E, none, 0x7F⟩
def e5m2Ty : FTy := ⟨5, 2, 15, 0x7B, some 0x7C, 0x7F⟩

/-- The width of a value. -/
def FTy.width (t : FTy) : Nat := 1 + t.ew + t.fw

/-- The value that bits stand for: a finite value is ± m × 2^e, and a zero keeps its sign. -/
inductive FVal where
  | nan
  | inf (neg : Bool)
  | fin (neg : Bool) (m : Nat) (e : Int)
  deriving DecidableEq, Repr

def FTy.decode (t : FTy) (x : Nat) : FVal :=
  let mag := x % 2 ^ (t.ew + t.fw)
  let neg := bitOf x (t.ew + t.fw)
  let ex := mag / 2 ^ t.fw
  let fr := mag % 2 ^ t.fw
  if t.infMag = some mag then .inf neg
  else if mag > t.maxMag then .nan
  else if ex = 0 then .fin neg fr (1 - t.bias - t.fw)
  else .fin neg (2 ^ t.fw + fr) (ex - t.bias - t.fw)

/-- Sign bit. -/
def FTy.sign (t : FTy) (neg : Bool) : Nat := if neg then 2 ^ (t.ew + t.fw) else 0

/-- Whether a magnitude with quotient `q`, remainder and half-way information rounds up (Table 6.3). -/
def roundsUp (mode : Nat) (neg : Bool) (q rem half : Nat) (sticky : Bool) : Bool :=
  let inexact := rem ≠ 0 || sticky
  match mode with
  | 0 => rem > half || (rem = half && (sticky || q % 2 = 1))
  | 1 => false
  | 2 => neg && inexact
  | _ => !neg && inexact

/-- The magnitude bits nearest to (m + ε) × 2^e, ε in (0, 1) if `sticky`, with no bound above (R133). -/
def FTy.roundMag (t : FTy) (mode : Nat) (neg : Bool) (m : Nat) (e : Int) (sticky : Bool) : Nat :=
  if m = 0 then (if roundsUp mode neg 0 0 1 sticky then 1 else 0)
  else
    let top : Int := e + Nat.log2 m
    let emin : Int := 1 - t.bias
    let ex := if top < emin then emin else top
    let q : Int := ex - t.fw
    let base := (ex - emin).toNat * 2 ^ t.fw
    if q ≤ e then base + m * 2 ^ (e - q).toNat
    else
      let sh := (q - e).toNat
      let a := m / 2 ^ sh
      let rem := m % 2 ^ sh
      base + a + (if roundsUp mode neg a rem (2 ^ (sh - 1)) sticky then 1 else 0)

/-- Overflow goes to infinity or to the largest finite value by mode and sign (Table 6.3); a type without infinity
saturates. -/
def FTy.overflow (t : FTy) (mode : Nat) (neg : Bool) : Nat :=
  match t.infMag with
  | none => t.maxMag
  | some i => if mode = 0 ∨ (mode = 2 ∧ neg) ∨ (mode = 3 ∧ !neg) then i else t.maxMag

/-- The bits of an exact value rounded once. -/
def FTy.round (t : FTy) (mode : Nat) (neg : Bool) (m : Nat) (e : Int) (sticky : Bool := false) : Nat :=
  let g := t.roundMag mode neg m e sticky
  t.sign neg + (if g > t.maxMag then t.overflow mode neg else g)

def FTy.encode (t : FTy) (mode : Nat) (v : FVal) : Nat :=
  match v with
  | .nan => t.nan
  | .inf neg => t.sign neg + (t.infMag.getD t.maxMag)
  | .fin neg m e => t.round mode neg m e

def FVal.negate : FVal → FVal
  | .nan => .nan
  | .inf n => .inf (!n)
  | .fin n m e => .fin (!n) m e

/-- The exact product (R135). -/
def FVal.mul : FVal → FVal → FVal
  | .nan, _ => .nan
  | _, .nan => .nan
  | .inf a, .inf b => .inf (a != b)
  | .inf a, .fin b m _ => if m = 0 then .nan else .inf (a != b)
  | .fin a m _, .inf b => if m = 0 then .nan else .inf (a != b)
  | .fin a m e, .fin b n f => .fin (a != b) (m * n) (e + f)

/-- A signed mantissa at exponent `e0`, at most the value's own. -/
def signedAt (e0 : Int) (neg : Bool) (m : Nat) (e : Int) : Int :=
  let x : Int := m * 2 ^ (e - e0).toNat
  if neg then -x else x

/-- What a sum has met so far: a NaN, infinities of each sign, the least exponent, and whether every term was a zero of
one sign. -/
def sumExp (ts : List FVal) : Int :=
  ts.foldl (fun a v => match v with | .fin _ m e => if m ≠ 0 ∧ e < a then e else a | _ => a) 100000

/-- The exact sum of terms, by the rules of R135 for zeros under the rounding mode. -/
def FVal.sum (mode : Nat) (ts : List FVal) : FVal :=
  let pinf := ts.any (fun v => v = .inf false)
  let ninf := ts.any (fun v => v = .inf true)
  if ts.any (fun v => v = .nan) || (pinf && ninf) then .nan
  else if pinf then .inf false
  else if ninf then .inf true
  else
    let e0 := sumExp ts
    let x : Int := ts.foldl (fun a v => match v with
      | .fin n m e => if m = 0 then a else a + signedAt e0 n m e | _ => a) 0
    if x = 0 then
      let allNeg := ts.all (fun v => match v with | .fin n m _ => n && m = 0 | _ => false)
      let allPos := ts.all (fun v => match v with | .fin n m _ => !n && m = 0 | _ => false)
      .fin (if allNeg then true else if allPos then false else mode = 2) 0 0
    else .fin (x < 0) x.natAbs e0

def FTy.add (t : FTy) (mode : Nat) (a b : Nat) : Nat := t.encode mode (FVal.sum mode [t.decode a, t.decode b])
def FTy.sub (t : FTy) (mode : Nat) (a b : Nat) : Nat :=
  t.encode mode (FVal.sum mode [t.decode a, (t.decode b).negate])
def FTy.mul (t : FTy) (mode : Nat) (a b : Nat) : Nat := t.encode mode ((t.decode a).mul (t.decode b))
def FTy.fma (t : FTy) (mode : Nat) (a b c : Nat) : Nat :=
  t.encode mode (FVal.sum mode [(t.decode a).mul (t.decode b), t.decode c])

/-- The correctly rounded quotient (R137). -/
def FTy.div (t : FTy) (mode : Nat) (a b : Nat) : Nat :=
  match t.decode a, t.decode b with
  | .nan, _ => t.nan
  | _, .nan => t.nan
  | .inf _, .inf _ => t.nan
  | .inf x, .fin y _ _ => t.encode mode (.inf (x != y))
  | .fin x _ _, .inf y => t.sign (x != y)
  | .fin x m e, .fin y n f =>
    if n = 0 then (if m = 0 then t.nan else t.encode mode (.inf (x != y)))
    else
      let k := 64 + Nat.log2 n
      let num := m * 2 ^ k
      t.round mode (x != y) (num / n) (e - f - k) (num % n ≠ 0)

/-- floor(sqrt(x)), the bits of the root settled from bit `n` - 1 down. -/
def isqrtGo (x : Nat) : Nat → Nat → Nat
  | 0, r => r
  | n + 1, r =>
    let c := r + 2 ^ n
    isqrtGo x n (if c * c ≤ x then c else r)

def isqrt (x : Nat) : Nat := isqrtGo x (Nat.log2 x / 2 + 1) 0

/-- m × 2^e as M × 2^(2h). -/
def evenExp (m : Nat) (e : Int) : Nat × Int := if e % 2 = 0 then (m, e / 2) else (m * 2, (e - 1) / 2)

def FTy.sqrt (t : FTy) (a : Nat) : Nat :=
  match t.decode a with
  | .nan => t.nan
  | .inf neg => if neg then t.nan else t.encode 0 (.inf false)
  | .fin neg m e =>
    if m = 0 then t.sign neg
    else if neg then t.nan
    else
      let (mm, h) := evenExp m e
      let x := mm * 2 ^ 128
      let r := isqrt x
      t.round 0 false r (h - 64) (r * r ≠ x)

def FTy.rsqrt (t : FTy) (a : Nat) : Nat :=
  match t.decode a with
  | .nan => t.nan
  | .inf neg => if neg then t.nan else 0
  | .fin neg m e =>
    if m = 0 then t.encode 0 (.inf neg)
    else if neg then t.nan
    else
      let (mm, h) := evenExp m e
      let r := isqrt (2 ^ 192 / mm)
      t.round 0 false r (-h - 96) (r * r * mm ≠ 2 ^ 192)

/-- The integer that a finite value rounds to by the mode. -/
def roundInt (mode : Nat) (neg : Bool) (m : Nat) (e : Int) : Int :=
  let mag : Nat :=
    if 0 ≤ e then m * 2 ^ e.toNat
    else
      let sh := (-e).toNat
      let q := m / 2 ^ sh
      q + (if roundsUp mode neg q (m % 2 ^ sh) (2 ^ (sh - 1)) false then 1 else 0)
  if neg then -(mag : Int) else mag

/-- Conversion to an integer range (R134). -/
def FTy.toInt (t : FTy) (mode : Nat) (lo hi : Int) (a : Nat) : Int :=
  match t.decode a with
  | .nan => 0
  | .inf neg => if neg then lo else hi
  | .fin neg m e => clampI lo hi (roundInt mode neg m e)

/-- Conversion from an integer; zero is +0. -/
def FTy.ofInt (t : FTy) (mode : Nat) (x : Int) : Nat := t.round mode (x < 0) x.natAbs 0

/-- Conversion between floating-point types (R134). -/
def convF (src dst : FTy) (mode : Nat) (a : Nat) : Nat := dst.encode mode (src.decode a)

/-- A key that orders the finite and infinite values of a type, −0 below +0. -/
def FTy.key (t : FTy) (a : Nat) : Int :=
  let mag : Int := a % 2 ^ (t.ew + t.fw)
  if bitOf a (t.ew + t.fw) then -mag - 1 else mag

def FTy.isNan (t : FTy) (a : Nat) : Bool := t.decode a = .nan

/-- FMIN and FMAX (R136): the other operand where exactly one is NaN. -/
def FTy.minmax (t : FTy) (isMax : Bool) (a b : Nat) : Nat :=
  if t.isNan a then (if t.isNan b then t.nan else b)
  else if t.isNan b then a
  else if (t.key a < t.key b) != isMax then a else b

/-- Minimum or maximum in the total order with the canonical NaN for a NaN operand (R83, R187, R320). -/
def FTy.totalMinmax (t : FTy) (isMax : Bool) (a b : Nat) : Nat :=
  if t.isNan a || t.isNan b then t.nan else if (t.key a < t.key b) != isMax then a else b

/-- Numeric comparison of two values: `none` if either is NaN, else their difference's sign. -/
def FTy.compare (t : FTy) (a b : Nat) : Option Ordering :=
  if t.isNan a || t.isNan b then none
  else
    let z (x : Nat) : Int := if x % 2 ^ (t.ew + t.fw) = 0 then 0 else t.key x
    some (if z a < z b then .lt else if z b < z a then .gt else .eq)

/-! ## Shorthands for f32 -/

def fAdd (a b : Nat) : Nat := f32Ty.add 0 a b
def fSub (a b : Nat) : Nat := f32Ty.sub 0 a b
def fMul (a b : Nat) : Nat := f32Ty.mul 0 a b
def fOne : Nat := 0x3F800000
def fNaN : Nat := 0x7FC00000
def fInf : Nat := 0x7F800000
def fNegInf : Nat := 0xFF800000
def fNegate (a : Nat) : Nat := a ^^^ 0x80000000

/-- The f32 of m × 2^e, exact in every use. -/
def fDyad (m : Int) (e : Int) : Nat := f32Ty.round 0 (m < 0) m.natAbs e

/-- A zero exponent with a nonzero fraction. -/
def isDenorm (x : Nat) : Bool := x / 2 ^ 23 % 256 = 0 && x % 2 ^ 23 ≠ 0

/-- R136: the four reference functions read a denormal as zero of its sign. -/
def flush (x : Nat) : Nat := if isDenorm x then x / 2 ^ 31 * 2 ^ 31 else x

/-! ## Tables 6.8 -/

def tabT2 : List Nat :=
  [0x3F800000, 0x3F8164D2, 0x3F82CD87, 0x3F843A29, 0x3F85AAC3, 0x3F871F62, 0x3F88980F, 0x3F8A14D5]
  ++ [0x3F8B95C2, 0x3F8D1ADF, 0x3F8EA43A, 0x3F9031DC, 0x3F91C3D3, 0x3F935A2B, 0x3F94F4F0, 0x3F96942D]
  ++ [0x3F9837F0, 0x3F99E046, 0x3F9B8D3A, 0x3F9D3EDA, 0x3F9EF532, 0x3FA0B051, 0x3FA27043, 0x3FA43516]
  ++ [0x3FA5FED7, 0x3FA7CD94, 0x3FA9A15B, 0x3FAB7A3A, 0x3FAD583F, 0x3FAF3B79, 0x3FB123F6, 0x3FB311C4]
  ++ [0x3FB504F3, 0x3FB6FD92, 0x3FB8FBAF, 0x3FBAFF5B, 0x3FBD08A4, 0x3FBF179A, 0x3FC12C4D, 0x3FC346CD]
  ++ [0x3FC5672A, 0x3FC78D75, 0x3FC9B9BE, 0x3FCBEC15, 0x3FCE248C, 0x3FD06334, 0x3FD2A81E, 0x3FD4F35B]
  ++ [0x3FD744FD, 0x3FD99D16, 0x3FDBFBB8, 0x3FDE60F5, 0x3FE0CCDF, 0x3FE33F89, 0x3FE5B907, 0x3FE8396A]
  ++ [0x3FEAC0C7, 0x3FED4F30, 0x3FEFE4BA, 0x3FF28177, 0x3FF5257D, 0x3FF7D0DF, 0x3FFA83B3, 0x3FFD3E0C]

def tabRC : List Nat :=
  [0x3F800000, 0x3F7C0FC1, 0x3F783E10, 0x3F74898D, 0x3F70F0F1, 0x3F6D7304, 0x3F6A0EA1, 0x3F66C2B4]
  ++ [0x3F638E39, 0x3F607038, 0x3F5D67C9, 0x3F5A740E, 0x3F579436, 0x3F54C77B, 0x3F520D21, 0x3F4F6475]
  ++ [0x3F4CCCCD, 0x3F4A4588, 0x3F47CE0C, 0x3F4565C8, 0x3F430C31, 0x3F40C0C1, 0x3F3E82FA, 0x3F3C5264]
  ++ [0x3F3A2E8C, 0x3F381703, 0x3F360B61, 0x3F340B41, 0x3F321643, 0x3F302C0B, 0x3F2E4C41, 0x3F2C7692]
  ++ [0x3F2AAAAB, 0x3F28E83F, 0x3F272F05, 0x3F257EB5, 0x3F23D70A, 0x3F2237C3, 0x3F20A0A1, 0x3F1F1166]
  ++ [0x3F1D89D9, 0x3F1C09C1, 0x3F1A90E8, 0x3F191F1A, 0x3F17B426, 0x3F164FDA, 0x3F14F209, 0x3F139A86]
  ++ [0x3F124925, 0x3F10FDBC, 0x3F0FB824, 0x3F0E7835, 0x3F0D3DCB, 0x3F0C08C1, 0x3F0AD8F3, 0x3F09AE41]
  ++ [0x3F088889, 0x3F0767AB, 0x3F064B8A, 0x3F053408, 0x3F042108, 0x3F03126F, 0x3F020821, 0x3F010204]

def tabLG : List Nat :=
  [0x00000000, 0x3CB73CB4, 0x3D35D69C, 0x3D8759C5, 0x3DB31FB8, 0x3DDE4212, 0x3E0462C4, 0x3E19574F]
  ++ [0x3E2E00D2, 0x3E42615F, 0x3E567AF1, 0x3E6A4F72, 0x3E7DE0B6, 0x3E88983F, 0x3E92203D, 0x3E9B8926]
  ++ [0x3EA4D3C2, 0x3EAE00D2, 0x3EB7110E, 0x3EC0052B, 0x3EC8DDD4, 0x3ED19BB0, 0x3EDA3F60, 0x3EE2C97D]
  ++ [0x3EEB3A9F, 0x3EF39355, 0x3EFBD42B, 0x3F01FED4, 0x3F060828, 0x3F0A0650, 0x3F0DF989, 0x3F11E20F]
  ++ [0x3F15C01A, 0x3F1993E3, 0x3F1D5DA0, 0x3F211D84, 0x3F24D3C2, 0x3F28808C, 0x3F2C2411, 0x3F2FBE80]
  ++ [0x3F335004, 0x3F36D8CB, 0x3F3A58FF, 0x3F3DD0C8, 0x3F41404F, 0x3F44A7BA, 0x3F480731, 0x3F4B5ED7]
  ++ [0x3F4EAED0, 0x3F51F740, 0x3F553848, 0x3F587209, 0x3F5BA4A4, 0x3F5ED039, 0x3F61F4E5, 0x3F6512C7]
  ++ [0x3F6829FB, 0x3F6B3A9F, 0x3F6E44CD, 0x3F7148A1, 0x3F744636, 0x3F773DA4, 0x3F7A2F04, 0x3F7D1A71]

def tabSN : List Nat :=
  [0x00000000, 0x3CC90AB0, 0x3D48FB30, 0x3D96A905, 0x3DC8BD36, 0x3DFAB273, 0x3E164083, 0x3E2F10A2]
  ++ [0x3E47C5C2, 0x3E605C13, 0x3E78CFCC, 0x3E888E93, 0x3E94A031, 0x3EA09AE5, 0x3EAC7CD4, 0x3EB8442A]
  ++ [0x3EC3EF15, 0x3ECF7BCA, 0x3EDAE880, 0x3EE63375, 0x3EF15AEA, 0x3EFC5D27, 0x3F039C3D, 0x3F08F59B]
  ++ [0x3F0E39DA, 0x3F13682A, 0x3F187FC0, 0x3F1D7FD1, 0x3F226799, 0x3F273656, 0x3F2BEB4A, 0x3F3085BB]
  ++ [0x3F3504F3, 0x3F396842, 0x3F3DAEF9, 0x3F41D870, 0x3F45E403, 0x3F49D112, 0x3F4D9F02, 0x3F514D3D]
  ++ [0x3F54DB31, 0x3F584853, 0x3F5B941A, 0x3F5EBE05, 0x3F61C598, 0x3F64AA59, 0x3F676BD8, 0x3F6A09A7]
  ++ [0x3F6C835E, 0x3F6ED89E, 0x3F710908, 0x3F731447, 0x3F74FA0B, 0x3F76BA07, 0x3F7853F8, 0x3F79C79D]
  ++ [0x3F7B14BE, 0x3F7C3B28, 0x3F7D3AAC, 0x3F7E1324, 0x3F7EC46D, 0x3F7F4E6D, 0x3F7FB10F, 0x3F7FEC43]

/-- A finite f32 as an integer multiple of 2^-149. -/
def fixed149 (x : Nat) : Int :=
  match f32Ty.decode x with
  | .fin neg m e => signedAt (-149) neg m e
  | _ => 0

/-- The steps of R147 shared by FEXP2 and SEXP (R188): k and y for a finite x. -/
def exp2Parts (x : Nat) : Int × Nat :=
  let fx := fixed149 x
  let n : Int := (fx * 64) / 2 ^ 149
  let k := n / 64
  let i := (n % 64).toNat
  let f := f32Ty.encode 0 (FVal.sum 0 [f32Ty.decode x, .fin (0 < n) n.natAbs (-6)])
  let h := fMul 0x3D635847 f
  let h := fAdd h 0x3E75FDF0
  let h := fMul h f
  let h := fAdd h 0x3F317218
  let h := fMul h f
  let t := tabT2.getD i 0
  let y := fMul t h
  (k, fAdd t y)

/-- y × 2^k. -/
def scaleF (y : Nat) (k : Int) : Nat :=
  match f32Ty.decode y with
  | .fin neg m e => f32Ty.round 0 neg m (e + k)
  | _ => y

/-- FEXP2 (R147). -/
def fexp2 (x0 : Nat) : Nat :=
  if f32Ty.isNan x0 then fNaN
  else
    let x := flush x0
    if f32Ty.compare x 0x43000000 ≠ some .lt then fInf
    else if f32Ty.compare x 0xC2FE0000 = some .lt then 0
    else
      let (k, y) := exp2Parts x
      if k < -126 then 0 else scaleF y k

/-- FLOG2 (R148). -/
def flog2 (x : Nat) : Nat :=
  if f32Ty.isNan x then fNaN
  else if x % 2 ^ 31 / 2 ^ 23 = 0 then fNegInf
  else if bitOf x 31 then fNaN
  else if x = fInf then fInf
  else
    let e : Int := (x / 2 ^ 23 : Nat) - 127
    let i := x / 2 ^ 17 % 64
    let d := fDyad ((x % 2 ^ 23 : Nat) - (i * 2 ^ 17 : Nat)) (-23)
    let w := fMul d (tabRC.getD i 0)
    let h := fMul 0x3EF6384D w
    let h := fAdd h 0xBF38AA3B
    let h := fMul h w
    let h := fAdd h 0x3FB8AA3B
    let h := fMul h w
    let z := fAdd (tabLG.getD i 0) h
    fAdd (f32Ty.ofInt 0 e) z

/-- KERNEL of R149: sine and cosine of π a for 0 ≤ a ≤ 0.5, a given in units of 2^-149. -/
def piKernel (a : Int) : Nat × Nat :=
  if a = 2 ^ 148 then (fOne, 0)
  else
    let i : Nat := ((a * 128) / 2 ^ 149).toNat
    let d := fDyad (a - (i : Int) * 2 ^ 142) (-149)
    let z := fMul d d
    let sd := fMul 0xC0A55DE7 z
    let sd := fAdd sd 0x40490FDB
    let sd := fMul sd d
    let cd := fMul 0xC09DE9E7 z
    let cd := fAdd cd fOne
    let co := if i = 0 then fOne else tabSN.getD (64 - i) 0
    let si := tabSN.getD i 0
    (fAdd (fMul si cd) (fMul co sd), fSub (fMul co cd) (fMul si sd))

/-- y of REDUCE (R149), in units of 2^-149. -/
def piReduce (x : Nat) : Int :=
  let fx := fixed149 x
  fx - 2 * 2 ^ 149 * roundInt 0 (fx < 0) fx.natAbs (-150)

/-- FSINPI (R149). -/
def fsinpi (x0 : Nat) : Nat :=
  let mag := x0 % 2 ^ 31
  if mag ≥ fInf then fNaN
  else
    let x := flush x0
    let y := piReduce x
    let a : Int := y.natAbs
    let a := if a > 2 ^ 148 then 2 ^ 149 - a else a
    let sn := (piKernel a).1
    if sn % 2 ^ 31 = 0 then x / 2 ^ 31 * 2 ^ 31 else if y < 0 then fNegate sn else sn

/-- FCOSPI (R149). -/
def fcospi (x0 : Nat) : Nat :=
  let mag := x0 % 2 ^ 31
  if mag ≥ fInf then fNaN
  else
    let x := if isDenorm x0 then 0 else x0
    let a : Int := (piReduce x).natAbs
    let v := if a ≤ 2 ^ 148 then (piKernel a).2 else fNegate (piKernel (2 ^ 149 - a)).2
    if v % 2 ^ 31 = 0 then 0 else v

/-! ## Block formats -/

/-- The element formats of Table 6.4. -/
inductive Elem where
  | mxf4 | mxi8 | mxf8e4 | mxf8e5 | kq4
  deriving DecidableEq, Repr

/-- Element width in bits. -/
def Elem.bits : Elem → Nat
  | .mxf4 => 4
  | .kq4 => 4
  | _ => 8

/-- The exact value of an element code (R139). -/
def Elem.value (f : Elem) (c : Nat) : FVal :=
  match f with
  | .mxf4 => e2m1Ty.decode (c % 16)
  | .mxf8e4 => e4m3Ty.decode (c % 256)
  | .mxf8e5 => e5m2Ty.decode (c % 256)
  | .mxi8 => let a := sext 8 c; .fin (a < 0) a.natAbs (-6)
  | .kq4 => let a := sext 4 c; .fin (a < 0) a.natAbs (-2)

/-- The exact value of an element under a scale byte (R138, R139). -/
def Elem.scaled (f : Elem) (c x : Nat) : FVal :=
  if x = 0xFF then .nan
  else match f.value c with
    | .fin n m e => .fin n m (e + x - 127)
    | v => v

/-- R140: the element decoded to a floating-point type. -/
def Elem.decodeTo (f : Elem) (t : FTy) (c x : Nat) : Nat := t.encode 0 (f.scaled c x)

def Elem.emax : Elem → Int
  | .mxf4 => 2
  | .mxf8e4 => 8
  | .mxf8e5 => 15
  | _ => 0

/-- floor(log2 |v|) of a nonzero finite value. -/
def FVal.log2 : FVal → Int
  | .fin _ m e => e + Nat.log2 m
  | _ => 0

/-- MXSCALE (R141). -/
def mxScale (f : Elem) (xs : List FVal) : Nat :=
  if xs.any (fun v => match v with | .fin _ _ _ => false | _ => true) then 0xFF
  else
    let nz := xs.filter (fun v => match v with | .fin _ m _ => m ≠ 0 | _ => false)
    match nz with
    | [] => 0
    | v :: t =>
      let g := t.foldl (fun a x => if a < x.log2 then x.log2 else a) v.log2
      (clampI 0 254 (g - f.emax + 127)).toNat

/-- QUANT (R141) of a value under scale byte X, not 0xFF; a NaN or an infinity, which only a scale of another source
can meet, goes to the largest magnitude of its sign, a NaN to 0. -/
def quant (f : Elem) (x : FVal) (sc : Nat) : Nat :=
  match f, x with
  | .mxf4, .fin n m e => e2m1Ty.round 0 n m (e + 127 - sc)
  | .mxf8e4, .fin n m e => e4m3Ty.round 0 n m (e + 127 - sc)
  | .mxf8e5, .fin n m e =>
    let g := e5m2Ty.roundMag 0 n m (e + 127 - sc) false
    e5m2Ty.sign n + (if g > 0x7B then 0x7B else g)
  | .mxi8, .fin n m e => wrapN 8 (clampI (-127) 127 (roundInt 0 n m (e + 127 - sc + 6)))
  | .kq4, .fin n m e => wrapN 4 (clampI (-7) 7 (roundInt 0 n m (e + 127 - sc + 2)))
  | .mxf4, .inf n => if n then 0xF else 0x7
  | .mxf8e4, .inf n => if n then 0xFE else 0x7E
  | .mxf8e5, .inf n => if n then 0xFB else 0x7B
  | .mxi8, .inf n => if n then 0x81 else 0x7F
  | .kq4, .inf n => if n then 0x9 else 0x7
  | _, .nan => 0

/-! ## Aligned forms -/

/-- A block turned into integers: the 32 integers, the alignment exponent, whether it is invalid, and its emax. -/
structure Aligned where
  a : List Int
  h : Int
  bad : Bool
  emax : Int
  deriving DecidableEq, Repr

/-- The unbiased exponent of a nonzero element, a denormal counting with the smallest normal's (R142). -/
def alignExp (t : FTy) (v : FVal) : Option Int :=
  match v with
  | .fin _ m _ => if m = 0 then none else some (if v.log2 < 1 - t.bias then 1 - t.bias else v.log2)
  | _ => none

/-- emax of a block (R142). -/
def blockEmax (t : FTy) (vs : List FVal) : Int :=
  let es := vs.filterMap (alignExp t)
  match es with
  | [] => 0
  | e :: r => r.foldl (fun a x => if a < x then x else a) e

/-- Elements × 2^(-h), rounded by RNE (R143, R144), with h = emax − off. -/
def alignBlock (t : FTy) (off : Int) (badScale : Bool) (vs : List FVal) : Aligned :=
  let bad := badScale || vs.any (fun v => match v with | .fin _ _ _ => false | _ => true)
  if bad then ⟨List.replicate 32 0, 0, true, 0⟩
  else
    let em := blockEmax t vs
    let h := em - off
    ⟨vs.map (fun v => match v with | .fin n m e => roundInt 0 n m (e - h) | _ => 0), h, false, em⟩

/-- 2v of an E2M1 code; −0 is 0. -/
def e2m1Twice (c : Nat) : Int :=
  match e2m1Ty.decode (c % 16) with
  | .fin n m e => roundInt 0 n m (e + 1)
  | _ => 0

/-- The aligned activation form (R144): formats 0 mxf4, 1 mxi8, 2 mxf8e4, 3 mxf8e5, 4 bf16. -/
def alignAct (afmt : Nat) (codes : List Nat) (sc : Nat) : Aligned :=
  match afmt with
  | 0 => if sc = 0xFF then ⟨List.replicate 32 0, 0, true, 0⟩ else ⟨codes.map e2m1Twice, -1, false, 0⟩
  | 1 => if sc = 0xFF then ⟨List.replicate 32 0, 0, true, 0⟩ else ⟨codes.map (sext 8), -6, false, 0⟩
  | 2 => alignBlock e4m3Ty 14 (sc = 0xFF) (codes.map e4m3Ty.decode)
  | 3 => alignBlock e5m2Ty 14 (sc = 0xFF) (codes.map e5m2Ty.decode)
  | _ => alignBlock bf16Ty 14 false (codes.map bf16Ty.decode)

/-- The aligned weight form of 32 codes of one column under its scale (R142, R143): formats of Table 7.1. -/
def alignWeight (fmt : Nat) (codes : List Nat) (sc : Nat) : Aligned :=
  match fmt with
  | 2 => alignBlock e4m3Ty 6 (sc = 0xFF) (codes.map e4m3Ty.decode)
  | 3 => alignBlock e5m2Ty 6 (sc = 0xFF) (codes.map e5m2Ty.decode)
  | _ => alignBlock bf16Ty 14 false (codes.map bf16Ty.decode)

end Sys2Proof.Machine
end

