-- ==== Sys2Proof/Config.lean ====
section
/-! DEFINITION. What the manual leaves to the module or leaves open: fused values and free values. None has a body,
so no proof can rest on a particular value (notes/assumptions/3.md, 17.md). -/

namespace Sys2Proof.Config

/-- The free values, drawn in the order of `State.freeCtr`: values read after a touch (R6, R123), L1 victims (R93),
results to which the manual gives no value. -/
opaque free (n : Nat) : BitVec 64

/-- Free values that are functions of the operands (R152), given as numbers. -/
opaque freeOf (operands : List Nat) : BitVec 64

/-- The fused ceiling of a die's operating point (R21). -/
opaque ceiling (die : Nat) : Fin 5

/-- The fused Ed25519 identity seed (R219). -/
opaque identitySeed : BitVec 256

/-- The four fused vendor keys (R218). -/
opaque vendorKey (i : Fin 4) : BitVec 256

/-- Whether a vendor key is revoked by fuse (R218). -/
opaque vendorRevoked (i : Fin 4) : Bool

/-- The fused rollback counter (R218). -/
opaque rollback : BitVec 32

/-- The silicon revision and the serial number (Tables 10.2 and 10.8). -/
opaque revision : BitVec 8
opaque serial : BitVec 64

/-- The failure code that the boot ROM reports (R218), which the manual does not list. -/
opaque bootFailure (n : Nat) : BitVec 8

/-- The skew of a die's copy of the reference timer behind the master, at most 2 ns (R15). -/
opaque skew (die : Nat) : Fin 3

/-- The requests toward a relocking die at which the crossing FIFOs' stop watermark stalls their senders (R16). -/
opaque fifoStop : Nat

end Sys2Proof.Config
end

