-- ==== Sys2Proof/Machine/State.lean ====
section
/-! DEFINITION. The state of the module as plain data, the reasons a step can stop, and the state after reset.

Sparse tables (`Tbl`) list what differs from reset. Addresses that a record of the spec holds are numbers below
2^64; the PC of an entry is a 64-bit word. INVENTORY.md names the rule behind every field. -/

namespace Sys2Proof.Machine

/-! ## Waves -/

/-- One instruction of a fetched clause: its slot, its code index in a packed slot (0 in a full slot), its word, and
whether it belongs to a packed slot (R224, R230). -/
structure SlotWord where
  slot : Nat
  code : Nat
  word : Dword
  packed : Bool
  deriving DecidableEq, Repr

/-- What a frontier entry may do (R30, R268, R332, R374, R400). -/
inductive EStat where
  /-- it may issue -/
  | ready
  /-- held at a WSYNC (R40) -/
  | wsync
  /-- its lanes wait in the context's serial FIFO (R332) -/
  | serial
  /-- some of its lanes wait on a translation fault (R400) -/
  | fault
  /-- a trapped entry with its trap code and TRAPADDR (R374) -/
  | trapped (code addr : Nat)
  deriving DecidableEq, Repr

/-- A frontier entry (R30), with the place inside its clause where it stands. -/
structure Entry where
  pc : Dword
  mask : LaneMask
  prio : Nat := 0
  demoted : Bool := false
  /-- slot and code index where the entry stands, 0 and 0 at a clause boundary -/
  slot : Nat := 0
  code : Nat := 0
  /-- the clause at `pc` has been fetched and `todo` holds what is left of it -/
  fetched : Bool := false
  hdr : Dword := 0
  todo : List SlotWord := []
  stat : EStat := .ready
  /-- stage and marks of an instruction that has begun and not ended -/
  stage : Nat := 0
  mark : Nat := 0
  /-- lanes of a begun LD, ST, ATOM and the like that are still to be performed, and its completion record -/
  left : Option LaneMask := none
  ret : Nat := 0
  /-- steps done of a resumable instruction (R46) -/
  done : Nat := 0
  /-- lanes whose transactions the instruction has aborted, and for which it does not act (R322, R326) -/
  cut : LaneMask := 0
  /-- the number of the event at which the instruction, or the fetch of the clause, first asked the walker (R90) -/
  asked : Option Nat := none
  /-- order in which a trapped entry was raised (R374) -/
  seq : Nat := 0
  deriving DecidableEq, Repr

/-- A value on its way to a register: vector or scalar register, lane, value. -/
structure RVal where
  vec : Bool
  reg : Nat
  lane : Nat
  val : Word
  deriving DecidableEq, Repr

/-- Where a location lies (R105): target, chip, alias op and real address. -/
structure Loc where
  tgt : Nat
  chip : Nat
  alop : Nat
  ra : Nat
  deriving DecidableEq, Repr

/-- A lane's load that waits at its home (R103, R128, R311, R388, R406): its place, the bytes that the core held of it at issue, and
the registers that it fills. -/
structure HeldLoad where
  id : Nat
  lane : Nat
  loc : Loc
  mxf : Nat
  /-- the cache policy in force -/
  pol : Nat
  have_ : List (Option Byte)
  out : List RVal
  /-- the virtual pages whose translation it used (R207) -/
  vps : List Nat
  deriving DecidableEq, Repr

/-- A load, atomic or status return not yet complete: the values that have arrived, the requests outstanding and the
counter it decrements (R239, R240). -/
structure Ret where
  id : Nat
  vals : List RVal
  pend : Nat
  ctr : Option Nat
  /-- the lanes whose instruction it is -/
  lanes : LaneMask := 0
  /-- the data of a load or atomic, and not a status or column return -/
  load : Bool := true
  /-- a TXSTAT that waits for the applies of the wave's earlier TXENDs: nothing is delivered before (R330) -/
  gate : Bool := false
  /-- loads of its lanes that wait at their homes -/
  held : List HeldLoad := []
  deriving DecidableEq, Repr

/-- A VTOS whose source was empty: it fills its destination when the source fills (R263). -/
structure VtosPend where
  src : Nat
  lane : Nat
  dst : Nat
  pair : Bool
  deriving DecidableEq, Repr

/-- What a wave waits for before it is ready again (R34). -/
inductive Wait where
  /-- vector registers full in the lanes given, and scalar registers full (R239) -/
  | full (vs : List (Nat × LaneMask)) (ss : List Nat)
  /-- each dependence counter listed at or below its limit (R240, R267) -/
  | counters (lim : List (Nat × Nat))
  /-- a barrier past a phase (R39) -/
  | barrier (key phase : Nat)
  /-- REFTIME at or past a time (R267, R328) -/
  | time (t : Nat)
  /-- fewer outstanding requests of the core than leave room for a number more among 512 (R13) -/
  | requests (n : Nat)
  /-- registers granted in the quadrant file (R37) -/
  | grow
  /-- every write of the core that entered the cellar before `mark` applied at its home (R70, R114) -/
  | applied (core mark : Nat)
  /-- room for a number of entries in the core's cellar (R381), and no write tagged 32,768 epochs back (R117) -/
  | room (n : Nat)
  /-- every operation on unit banks of `mask` that was issued before `seq` complete (R91, R162) -/
  | banks (mask : LaneMask) (seq : Nat)
  /-- a page walk (R90) -/
  | walk (asid page : Nat)
  /-- the context's faulting pages (R401), for an access of the whole entry -/
  | fault
  /-- no open or running round of a convergence name, or a free convergence register (R158, R164) -/
  | round (cv : Nat)
  | cvFree
  /-- transform requests below the kick index complete on every die the context owns (R195) -/
  | rings
  /-- no line locked among those listed (R128) -/
  | lines (ls : List Nat)
  /-- a scrub of a slice quadrant (R388), or the relock of the home's die (R16) -/
  | scrub (die quadrant : Nat)
  /-- every alias command of the core to the line left the cellar (R109) -/
  | alias24 (line : Nat)
  /-- every atomic of the core on the location's line performed at its home (R108) -/
  | atoms (l : Loc)
  /-- every load and atomic of these lanes returned (R114, acquire) -/
  | returns (m : LaneMask)
  /-- every store of the wave performed in the core, none waiting on a fault (R42) -/
  | stores
  /-- a port of the way to a chip UP, while one is RECOVERING, and its request channel not stopped (R209, R210, R406) -/
  | peer (chip ra : Nat)
  /-- every write of a die to TARGET 1 to 3 numbered below `mark` applied (R114, SYSTEM) -/
  | remote (die mark : Nat)
  /-- every write of a context below `mark` that has left a core applied at its home (R114, alias) -/
  | left (ctx mark : Nat)
  /-- the last wave of a round stopped part-way to resume (R164) -/
  | gather (cv : Nat)
  /-- the BHAD of the wave with this index complete (R349) -/
  | hadamard (idx : Nat)
  deriving DecidableEq, Repr

/-- A register that holds an upset its check will find at the next read (R395, R396): vector or scalar, its number, the lane;
`both` says that the mirror has it too, or, of a scalar, that two bits are wrong. -/
structure Upset where
  vec : Bool
  reg : Nat
  lane : Nat
  both : Bool
  deriving DecidableEq, Repr

/-- The registers and execution state of one wave slot (R13, R29). -/
structure Wave where
  live : Bool := false
  uid : Nat := 0
  idx : Nat := 0
  valloc : Nat := 0
  salloc : Nat := 0
  /-- v0 to v255, s0 to s383; a register not listed is zero -/
  v : Tbl Lanes := []
  s : Tbl Word := []
  /-- lanes of vector registers that are empty, and scalar registers that are empty (R239) -/
  vE : Tbl LaneMask := []
  sE : Tbl Bool := []
  /-- p0 to p6 and q0 to q6 (R231) -/
  p : Tbl LaneMask := []
  q : Tbl Bool := []
  /-- dc0 to dc5 (R240) -/
  dc : Tbl Nat := []
  frontier : List Entry := []
  upsets : List Upset := []
  deriving DecidableEq, Repr

/-- Handler mode (R272 to R275): the interrupted frontier as 32 positions, and the trapped entry being handled. -/
structure Handler where
  system : Bool
  intr : Tbl Entry
  trapped : Option Entry
  trapCode : Word := 0
  trapMask : LaneMask := 0
  trapPc : Dword := 0
  trapAddr : Dword := 0
  /-- the handler was entered for a pre-emption by save: at HRET the wave waits to be saved (R69) -/
  save : Bool := false
  /-- the arrival of a BAR that the handler interrupted (R50) -/
  barHeld : Option (Nat × Nat) := none
  deriving DecidableEq, Repr

/-- One lane's transaction beside its log (R325 to R328). -/
structure TxLane where
  target : Dword
  young : Nat
  serial : Bool
  deriving DecidableEq, Repr

/-- One written byte of a commit being applied (R328): line key of the lock, and the cell at its home. -/
structure Apply where
  id : Nat
  wid : Nat
  lines : List Nat
  cells : List Host.Cell
  /-- the serial lane of the commit, which passes its token when the writes are applied (R332) -/
  serial : Option Nat := none
  /-- the lanes whose logs hold the writes -/
  lanes : List Nat := []
  /-- the lines of pages with CPOL 2, which the L2 does not keep (R87) -/
  past : List Nat := []
  deriving DecidableEq, Repr

/-- The rest of a wave: what moves between it and the device. -/
structure WaveX where
  wait : Option Wait := none
  returns : List Ret := []
  vtos : List VtosPend := []
  handler : Option Handler := none
  progidx : Word := 0
  /-- the wave resumed inside a clause and clears PROGIDX when that instruction completes (R47) -/
  resumed : Bool := false
  txretry : Word := 8
  tx : Tbl TxLane := []
  /-- lanes whose transaction aborted in the current clause (R327) and where they go when it ends -/
  txGone : Tbl Dword := []
  applies : List Nat := []
  /-- rounds whose completion the wave has not observed: counter, banks, number of the round (R123, R345) -/
  unseen : List (Nat × LaneMask × Nat) := []
  /-- vector registers written while such rounds are unobserved, with the number that the module would have given next (R123) -/
  wrote : List (Nat × Nat) := []
  /-- issue choices passed over while ready (R34) -/
  passed : Nat := 0
  lastIssue : Nat := 0
  suspended : Option Nat := none
  /-- since when some lane waits on a translation fault (R405) -/
  faultAt : Option Nat := none
  mirrored : List Nat := []
  preempt : Bool := false
  halt : Bool := false
  trapSeq : Nat := 0
  /-- phases in which the wave last arrived, by barrier (R41) -/
  arrived : Tbl Nat := []
  /-- the barrier and phase that a BAR in progress has arrived at; kept over a pre-emption (R50) -/
  barHeld : Option (Nat × Nat) := none
  growWant : Nat := 0
  /-- lanes that a failed round traps when the clause they are in ends (R160) -/
  lateTraps : List (LaneMask × Entry) := []
  exited : LaneMask := 0
  /-- the wave has left the system handler of a pre-emption by save and waits to be saved (R69) -/
  parked : Bool := false
  deriving DecidableEq, Repr

/-! ## Units and rounds -/

/-- A continuation record (R25) with the context and card priority it is queued under. -/
structure ContRec where
  code : Nat
  frame : Nat
  join : Nat
  unit : Nat
  slot : Nat
  flags : Nat
  ctx : Nat
  lid : Nat
  prio : Nat
  /-- when it was queued, for R68 -/
  t : Nat := 0
  /-- die and cluster of a record of a launch share, for its barrier channel -/
  clu : Option Nat := none
  /-- die of a record that is held -/
  die : Nat := 0
  /-- pages whose TLBINV a record held after a fault waits for (R402) -/
  held : List Nat := []
  deriving DecidableEq, Repr

/-- What one wave signed with (R340, R343). -/
structure SignOp where
  wid : Nat
  /-- 0 register form, 1 storage form -/
  form : Nat
  base : Nat
  /-- scale: none, vector register, or the value of a scalar or constant -/
  scaleV : Option Nat
  scaleS : Nat
  off : Nat
  ctr : Nat
  signed : LaneMask
  /-- the entry as it stood at each signing BMAC, with the lanes that signed there (R160) -/
  places : List (LaneMask × Entry)
  /-- the code of srcB, for R343; and DONE of a resumed wave (R164) -/
  srcB : Nat := 0
  done : Nat := 0
  deriving DecidableEq, Repr

/-- A round of a convergence name (R159 to R163). -/
structure Round where
  id : Nat
  ops : List SignOp
  /-- rows accumulated before a pre-emption -/
  rows : Nat := 0
  issued : Bool := false
  /-- taken from the declaration at joint issue: bank mask, unit banks that hold chunks, configuration, and the word 0
  of each bank's descriptor -/
  banks : LaneMask := 0
  chunks : LaneMask := 0
  cfg : Nat := 0
  btd : Tbl Dword := []
  /-- operand bytes of each wave in set order at joint issue -/
  snap : List (List Byte) := []
  /-- accumulators touched after joint issue (R123): the round accumulates free values -/
  touched : Bool := false
  /-- a round stopped part-way that its waves resume without new signatures (R164) -/
  resumed : Bool := false
  deriving DecidableEq, Repr

/-- A convergence name (R158, R164). -/
structure Cv where
  declared : Bool
  list : Dword
  mask : LaneMask
  cfg : Nat
  rounds : List Round
  deriving DecidableEq, Repr

/-- A barrier: its members, how many arrived, and the phase (R39, R41). -/
structure Barrier where
  key : Nat
  arrived : List Nat
  phase : Nat
  deriving DecidableEq, Repr

/-- A transition of banks that has issued and not completed (R91, R336). -/
structure ModeCh where
  id : Nat
  wid : Nat
  mask : LaneMask
  mode : Nat
  deriving DecidableEq, Repr

/-- A bank instruction that has taken its place in its banks' order and has not been performed (R162). -/
structure BankOp where
  seq : Nat
  wid : Nat
  mask : LaneMask
  deriving DecidableEq, Repr

/-- The region of a storage bank that a BHAD transforms in place (R349): the number at its issue, its wave's index, where it stands,
and its bytes. -/
structure HadRegion where
  seq : Nat
  idx : Nat
  pc : Dword
  slot : Nat
  bank : Nat
  off : Nat
  len : Nat
  deriving DecidableEq, Repr

/-- An entry of a bank's recorded fill source (R385): the unit bank and the descriptor of an ACOPY into its slots. -/
structure FillSource where
  bank : Nat
  desc : List Byte
  deriving DecidableEq, Repr

/-- The life of a unit on its core (R69). -/
inductive UStat where
  | resident | saved | completing
  deriving DecidableEq, Repr

/-- A resident or saved unit (R28, R69). -/
structure WorkUnit where
  crec : ContRec
  core : Nat
  /-- wave slots within the core of waves 0 to wpu - 1 -/
  slots : List Nat
  alive : List Nat
  sbanks : Nat
  cbanks : Nat
  txlog : Nat
  args : Nat
  bankMap : List Nat
  bars : List Barrier := []
  /-- cluster channel key and grid channel keys allotted (R43) -/
  cluster : Option Nat := none
  grid : List Nat := []
  cvs : Tbl Cv := []
  /-- recorded fill sources (R385) -/
  fills : List FillSource := []
  /-- rounds issued jointly whose completion some wave of their sets has not observed (R123) -/
  ran : List Round := []
  modeCh : List ModeCh := []
  bankOps : List BankOp := []
  /-- regions of the BHADs that its waves issued last -/
  hads : List HadRegion := []
  stat : UStat := .resident
  /-- release mark of the completion (R27) -/
  mark : Nat := 0
  /-- commands and copies it has outstanding are found by its number in the engines' queues -/
  dict : Option Nat := none
  deriving DecidableEq, Repr

/-! ## Cores -/

/-- The mode of a bank (R91). -/
inductive BMode where
  | cache | storage | compute
  deriving DecidableEq, Repr

/-- A bank of a core (R79, R153, R156). Bytes and accumulators not listed are zero. -/
structure Bank where
  mode : BMode := .cache
  owner : Nat := 0
  bytes : Tbl Byte := []
  acc : Tbl Word := []
  btd0 : Dword := 0x400000
  satf : Dword := 0
  invf : Dword := 0
  poisf : Dword := 0
  /-- bytes holding an uncorrectable error (R408, R414) -/
  bad : List Nat := []
  deriving DecidableEq, Repr

/-- A line of the L1 (R93): its tag, and its valid bytes by offset, each with its dirty bit. -/
structure L1Line where
  loc : Loc
  asid : Nat
  uid : Nat
  ctx : Nat
  bytes : Tbl (Byte × Bool)
  /-- the virtual pages under which dirty bytes were stored (R207) -/
  vps : List Nat
  deriving DecidableEq, Repr

/-- An atomic request of one lane (R320). -/
structure AtomReq where
  wid : Nat
  ret : Nat
  /-- destination register, or none for RED -/
  reg : Option Nat
  lane : Nat
  n : Nat
  op : Nat
  cas : Bool
  cmp : Nat
  b : Nat
  scope : Nat
  deriving DecidableEq, Repr

/-- What a request that leaves a core asks for (R111, R380). -/
inductive Req where
  /-- bytes written at their home, by offset from the location -/
  | write (loc : Loc) (bytes : List Byte) (mask : List Bool)
  /-- an alias 2 to 4 store: element type and elements of 32 bits (R83) -/
  | alop (loc : Loc) (mxf : Nat) (elems : List Word)
  /-- an atomic at its home (R321) -/
  | atomic (loc : Loc) (a : AtomReq)
  /-- commit data of a survivor (R328) -/
  | apply (a : Apply)
  /-- a join-counter decrement (R27): address, and the die it is made for -/
  | join (addr : Nat) (die : Nat)
  /-- a decrement of a card's PREDS (R62): address, die, and the lane that a fault record names -/
  | preds (addr : Nat) (die : Nat) (lane : Nat)
  /-- a SPAWN on its way to a dispatcher: card, and the destination, or none where no such neighbour exists (R70) -/
  | spawn (addr : Nat) (dest : Option Nat)
  /-- a CONT on its way to a dispatcher: the record's 32 bytes (R70) -/
  | cont (bytes : List Byte)
  deriving DecidableEq, Repr

/-- One entry of the cellar, or a request on its way from the cellar to its home: its number, entry time, origin, and
the release mark of its core when it entered; entries of that core below the mark are applied before it (R118). -/
structure CellarEntry where
  id : Nat
  t : Nat
  core : Nat
  uid : Nat
  ctx : Nat
  lid : Nat
  dep : Nat
  epoch : Nat := 0
  /-- the page of the translation fault that its decrement waits on (R62) -/
  held : Option Nat := none
  /-- its line is not to be kept in the L2: CPOL 2 (R87, R310) -/
  past : Bool := false
  /-- the virtual pages whose translation it used (R207) -/
  vps : List Nat := []
  /-- the copy or the engine's command whose write it is, 0 for others (R388) -/
  cmd : Nat := 0
  req : Req
  deriving DecidableEq, Repr

/-- Bytes of a copy or an engine's command on their way to a place: its virtual page, location, MXF, and the bytes that are
written. -/
structure Piece where
  vp : Nat
  loc : Loc
  mxf : Nat
  past : Bool
  bytes : List Byte
  mask : List Bool
  deriving DecidableEq, Repr

/-- A copy of the copy unit (R200, R317). -/
structure Copy where
  id : Nat
  core : Nat
  ctx : Nat
  uid : Nat
  wid : Nat
  /-- the card of a copy card -/
  card : Option Nat
  desc : List Byte
  cardDec : Option Nat
  ctr : Option Nat
  scope : Nat
  /-- next iteration (i0, i1, i2, i3, i4) -/
  iter : List Nat
  /-- unit bank of a slot destination; and every unit bank that the copy names (R92) -/
  slots : LaneMask := 0
  names : LaneMask := 0
  waiting : Bool := false
  /-- the faulting page that it waits on -/
  page : Nat := 0
  /-- a copy card's descriptor address, until the descriptor is read -/
  descVa : Nat := 0
  /-- source sectors read, by virtual sector: each is read once (R121) -/
  rd : Tbl (List Byte) := []
  /-- destination sectors not yet written, by virtual sector: each is written at once (R122) -/
  wr : Tbl Piece := []
  /-- the walk has ended, and its writes are going out; those sent are numbered below `mark` -/
  walked : Bool := false
  mark : Option Nat := none
  /-- why it failed: the ROLE of its ENGINE record, 0 if it did not (R418) -/
  role : Nat := 0
  /-- it failed: its walk has ended before its time; the address at which it read poison -/
  failed : Bool := false
  badVa : Option Nat := none
  deriving DecidableEq, Repr

/-- One held store of the forwarding table (R110). -/
structure FwdEntry where
  wid : Nat
  core : Nat
  bank : Nat
  off : Nat
  bytes : List Byte
  ret : Nat
  /-- when it issued -/
  t : Nat
  deriving DecidableEq, Repr

/-- A quadrant (R34, R37, R110, R396). -/
structure Quad where
  holder : Option Nat := none
  /-- slot chosen last at each effective priority 0 to 4 -/
  last : Tbl Nat := []
  grows : List Nat := []
  fwd : List FwdEntry := []
  deriving DecidableEq, Repr

/-- A translation held by a TLB (R87, R90): ASID, first page, pages, leaf, and the number of the walk that gave it. -/
structure TlbEntry where
  asid : Nat
  page : Nat
  pages : Nat
  leaf : Dword
  id : Nat := 0
  deriving DecidableEq, Repr

/-- A dictionary place (R228). -/
structure DictPlace where
  addr : Nat
  ctx : Nat
  bad : Bool
  words : List Dword
  used : Nat
  deriving DecidableEq, Repr

/-- A core (R13). -/
structure CoreSt where
  banks : Tbl Bank := []
  l1 : List L1Line := []
  cellar : List CellarEntry := []
  frozen : Bool := false
  scrub : Option Nat := none
  copies : List Copy := []
  dicts : List DictPlace := []
  uq : List ContRec := []
  quads : Tbl Quad := []
  tlb : List TlbEntry := []
  chkTimes : List Nat := []
  retired : Bool := false
  /-- number below which this core's cellar entries come before its latest release (R118) -/
  relMark : Nat := 0
  deriving DecidableEq, Repr

/-! ## Dies -/

/-- A command for a merge engine, a reduction tree, a scan engine or a transform engine. -/
structure EngCmd where
  id : Nat
  /-- 0 MERGE, 1 UNMERGE, 2 MAPREL, 3 NMRED, 4 NMSCAN, 5 transform card -/
  kind : Nat
  die : Nat
  ctx : Nat
  job : Nat
  uid : Nat
  wid : Nat
  desc : List Byte
  /-- MAPREL: handle and status address; transform card: the kick index at its arrival -/
  handle : Nat := 0
  status : Nat := 0
  dst : Option Nat := none
  ret : Nat := 0
  ctr : Option Nat := none
  scope : Nat := 3
  card : Option Nat := none
  t : Nat := 0
  engine : Nat := 0xFF
  waiting : Bool := false
  /-- the faulting page that it waits on -/
  page : Nat := 0
  /-- a command fails at its next turn, with the ROLE of its ENGINE record (R418), 0 for none -/
  role : Nat := 0
  /-- a card's descriptor address -/
  descVa : Nat := 0
  /-- its status code and the value for `dst`, once its outputs and status are written -/
  result : Option (Nat × Nat) := none
  /-- output of a command of a wave that has not entered the core's cellar yet; what has is numbered below `mark` (R111) -/
  outs : List Piece := []
  mark : Nat := 0
  /-- the launch of the unit that issued it -/
  lid : Nat := 0
  deriving DecidableEq, Repr

/-- A map of the loft (R177, R178). -/
structure LoftMap where
  handle : Nat
  ctx : Nat
  job : Nat
  n0 : Nat
  nout : Nat
  entries : List Nat
  lost : Bool
  spilled : Bool
  deriving DecidableEq, Repr

/-- A page walk in flight (R90). -/
structure Walk where
  id : Nat
  asid : Nat
  page : Nat
  core : Nat
  /-- level of the next table, its real address -/
  level : Nat
  table : Nat
  deriving DecidableEq, Repr

/-- The last walk of a page that failed (R90, R401); `id` numbers its end. It answers the accesses that asked before the walk
ended, and no later one. -/
structure NegEntry where
  asid : Nat
  page : Nat
  cause : Nat
  id : Nat
  deriving DecidableEq, Repr

/-- A card queue place: a card, or a launch share (R63 to R65). -/
structure QCard where
  ctx : Nat
  addr : Nat
  prio : Nat
  /-- launch number and cluster range of a share -/
  lid : Nat
  c0 : Nat
  c1 : Nat
  deriving DecidableEq, Repr

/-- A launch slot in use (R66): launch, next unit to place, end, units not complete. -/
structure Share where
  lid : Nat
  ctx : Nat
  prio : Nat
  next : Nat
  last : Nat
  left : Nat
  home : Bool
  deriving DecidableEq, Repr

/-- A request of the transform ring in flight (R196). -/
structure XFly where
  i : Nat
  cmd : EngCmd
  deriving DecidableEq, Repr

/-- The transform side of a die for one context (R195, R196): kick index, next request to start, the applied XRING value; and
whether a value written while the die was not the context's waits to be applied. -/
structure XCtx where
  kick : Nat := 0
  next : Nat := 0
  ring : Dword := 0
  pend : Bool := false
  deriving DecidableEq, Repr

/-- The clocks of a die (R14 to R18, R22). -/
structure DieClock where
  op : Nat := 2
  /-- relock in progress: end time, index it leaves, SCYCLE when it began -/
  relock : Option (Nat × Nat × Nat) := none
  held : Option Nat := none
  cycBase : Nat := 0
  cycRef : Nat := 0
  scyBase : Nat := 0
  steplog : Dword := 0x12
  hotSince : Option Nat := none
  deriving DecidableEq, Repr

/-- A compute die. -/
structure Die where
  clk : DieClock := {}
  owner : Option Nat := none
  sliceEnd : Nat := 0
  /-- next owner, while an owner change runs (R75) -/
  change : Option (Option Nat) := none
  stkcfg : Dword := 0
  slots : Tbl Share := []
  cardQ : List QCard := []
  /-- cluster-barrier channels in use: launch and cluster (R43) -/
  chUse : List (Nat × Nat) := []
  clusterBars : List Barrier := []
  merge : List EngCmd := []
  loft : List LoftMap := []
  xctx : Tbl XCtx := []
  xfly : List XFly := []
  xcards : List EngCmd := []
  /-- vector clock, clocks announced and not merged, destinations of the closing epoch (R117) -/
  clock : Tbl Nat := []
  inbox : Tbl Nat := []
  sent : List Nat := []
  tlb : List TlbEntry := []
  walks : List Walk := []
  neg : List NegEntry := []
  /-- scrubs of slice quadrants: end time, time of the report, its estimate and detector (R388) -/
  scrubs : Tbl (Nat × Nat × Nat × Nat) := []
  deriving DecidableEq, Repr

/-! ## Scheduling -/

/-- The state of a card (R60), beside what is written into it. -/
inductive CStat where
  | held | posted | running | done
  deriving DecidableEq, Repr

/-- A registered card (R54 to R60). -/
structure Card where
  ctx : Nat
  addr : Nat
  stat : CStat
  kind : Nat
  flags : Nat
  prio : Nat
  graph : Nat
  phase : Nat
  job : Nat
  succ : Nat
  /-- die of a SPAWN, join or ring submission -/
  home : Nat
  /-- true when it came through the package queue -/
  pkg : Bool
  /-- it added to its own counters (R57) -/
  counted : Bool
  cancelled : Bool := false
  /-- final state to report (R61) -/
  final : Nat := 0
  /-- TARGET of a kind 2 to 5 card (R53) -/
  target : Nat := 0xFF
  lid : Nat := 0
  /-- the successor list, read when the card starts (R55), and whether it has been read -/
  succs : List Nat := []
  started : Bool := false
  /-- SLOT and HOME as written into DISPATCH (R54); HOME reads 0 before a home die is fixed, and in a refused card (DESIGN CHOICE,
  log entry 54) -/
  slotW : Nat := 0xFFFF
  /-- it waits to be posted again: its queue has no room (R63) -/
  again : Bool := false
  homeW : Nat := 0
  deriving DecidableEq, Repr

/-- An error record waiting to be posted (R368): the log (a context or none for the module log) and its 64 bytes
without SEQ and CRC. -/
structure ErrRec where
  ctx : Option Nat
  bytes : List Byte
  deriving DecidableEq, Repr

/-- A launch (R23, R65). -/
structure Launch where
  id : Nat
  ctx : Nat
  card : Nat
  home : Nat
  slot : Option Nat
  code : Nat
  args : Nat
  units : Nat
  cluster : Nat
  wpu : Nat
  vregs : Nat
  sregs : Nat
  sbanks : Nat
  cbanks : Nat
  txlog : Nat
  flags : Nat
  prio : Nat
  job : Nat
  shares : Nat
  /-- units not yet complete -/
  left : Nat
  running : Bool := false
  cancelled : Bool := false
  grid : List Nat := []
  gridBars : List Barrier := []
  /-- its write regions: address and size (R431) -/
  wregions : List (Nat × Nat) := []
  eligible : Bool := false
  reason : Nat := 0
  replays : Nat := 0
  /-- address of the replay state word (R432) -/
  wordAt : Nat := 0
  replaying : Option Nat := none
  pkg : Bool := true
  flush : Bool := false
  /-- page of a dictionary fetch that faulted: no unit starts before its TLBINV -/
  dictPage : Option Nat := none
  /-- records of errors that its replay contains, posted when the replay has restored (R433) -/
  errs : List ErrRec := []
  deriving DecidableEq, Repr

/-- A snapshot page (R431): launch, real page, and its copy once taken. -/
structure SnapPage where
  lid : Nat
  page : Nat
  copy : Option (List Byte × List Nat)
  deriving DecidableEq, Repr

/-- A graph, phase or job counter (R57 to R59). -/
structure Counter where
  ctx : Nat
  /-- 2 graph, 3 phase, 4 job, as the levels of R76 -/
  level : Nat
  id : Nat
  count : Nat
  die : Nat := 0
  marked : Bool := false
  job : Nat := 0
  /-- the first card of the graph came through the package queue (R62) -/
  pkg : Bool := false
  deriving DecidableEq, Repr

/-- A submission waiting to be checked and registered (R56 to R58). -/
structure Submission where
  ctx : Nat
  addr : Nat
  die : Nat
  /-- 0 host ring, 1 SPAWN, 2 join counter, 3 a cancel of the host ring: `die` is its level and `addr` its id -/
  src : Nat
  /-- its card could not be read: it waits for a TLBINV -/
  held : Bool := false
  deriving DecidableEq, Repr

/-- A cancel in effect (R71). -/
structure Cancel where
  level : Nat
  id : Nat
  deriving DecidableEq, Repr

/-- A context (R73, R449). -/
structure Ctx where
  on : Bool := false
  asid : Nat := 0
  ptroot : Nat := 0
  cprio : Nat := 0
  slice : Nat := 0
  dies : Nat := 0
  ring : Nat := 0
  ringlog : Nat := 0
  handler : Nat := 0
  spill : Nat := 0
  spilllog : Nat := 0
  /-- the ring index that is handled next, and the tail that the doorbell gave, until it is reached (R77) -/
  head : Nat := 0
  tail : Option Nat := none
  stopped : Bool := false
  pq : List QCard := []
  mapspill : Dword := 0
  xring : Dword := 0
  /-- serial token holder and the FIFO of lanes as wave × 32 + lane (R332) -/
  token : Option Nat := none
  fifo : List Nat := []
  cancels : List Cancel := []
  deriving DecidableEq, Repr

/-! ## Records, host side and hubs -/

/-- A fault record waiting to be posted (R369). -/
structure FaultRec where
  ctx : Nat
  bytes : List Byte
  deriving DecidableEq, Repr

/-- A Kalpafer link port (R208 to R211, R440). -/
structure Port where
  state : Nat := 0
  cmpok : Bool := false
  peer : Nat := 0
  recov : Nat := 0
  stopped : List Nat := []
  resends : Nat := 0
  fec : List Nat := []
  rxSeq : Nat := 0
  since : Nat := 0
  /-- channels on which this side has sent STOP (R210) -/
  stopSent : List Nat := []
  deriving DecidableEq, Repr

/-- A flit held by the egress quarantine (R391): production time and what it writes. -/
structure Flit where
  t : Nat
  hub : Nat
  loc : Loc
  bytes : List Byte
  mxf : Nat := 0
  /-- the command, the launch, the context and the die that it belongs to, its number, its virtual page -/
  cmd : Nat := 0
  lid : Nat := 0
  ctx : Nat := 0
  die : Nat := 0
  id : Nat := 0
  vp : Nat := 0
  deriving DecidableEq, Repr

/-- A host-signal card being performed (R61). -/
structure HostSig where
  ctx : Nat
  card : Nat
  addr : Nat
  val : Dword
  vec : Nat
  t : Nat
  deriving DecidableEq, Repr

/-- The scheduler (R12, R436 to R438). -/
structure Sched where
  hub : Nat := 0
  standby : Bool := true
  heartbeat : Nat := 0
  takeover : Option Nat := none
  /-- journal entries written (R436) -/
  journal : Nat := 0
  /-- phase and job counter changes that wait for a takeover to end: context, phase, job (R438) -/
  pend : List (Nat × Nat × Nat) := []
  /-- contexts whose pending-kick bit is set (R436) -/
  kicks : List Nat := []
  restarting : List (Nat × Nat × Nat) := []
  deriving DecidableEq, Repr

/-- A request of a peer that waits in the buffer of a port's request channel (R210). -/
structure PeerReq where
  port : Nat
  peer : Nat
  addr : Nat
  op : Nat
  data : List Byte
  deriving DecidableEq, Repr

/-- An entry of the MSI-X table of BAR4 (R203): address, data and mask, as PCI Express lays it out. -/
structure MsixEntry where
  addr : Dword := 0
  data : Word := 0
  mask : Bool := true
  deriving DecidableEq, Repr

/-- The firmware image in the boot flash (R218): its body, the signature of its header, its security version. -/
structure BootImage where
  body : List Byte
  sig : List Byte
  svn : Nat
  deriving DecidableEq, Repr

/-- The mailbox command in progress (R207). -/
structure Mbox where
  busy : Bool := false
  op : Nat := 0
  args : List Byte := []
  /-- commands whose first step is done and that wait for the rest -/
  stage : Nat := 0
  n : Nat := 0
  deriving DecidableEq, Repr

/-- FLASHXFER and CCILOAD in progress (R213, R217). -/
structure Flash where
  out : List Nat := []
  issued : Nat := 0
  count : Nat := 0
  list : Nat := 0
  bad : Nat := 0
  cci : Nat := 0
  head : List Byte := []
  failed : List Nat := []
  deriving DecidableEq, Repr

/-- Compression state (R99, R412). -/
structure Comp where
  made : Bool := false
  pinned : List (Nat × Nat) := []
  pinSlices : List Nat := []
  stalled : List (Nat × Nat) := []
  deriving DecidableEq, Repr

/-- Migration state (R103, R104): window number, accesses counted by (page, chip), moves and frozen pages. -/
structure Mig where
  window : Nat := 0
  counts : List (Nat × Nat × Nat) := []
  moves : Tbl Nat := []
  /-- frames that moved away: frame, chip, frame there -/
  fwd : List (Nat × Nat × Nat) := []
  deriving DecidableEq, Repr

/-- A line lock of a commit or a serial holder (R328, R332): line, and the wave and lane that hold it. -/
structure Lock where
  line : Nat
  wid : Nat
  lane : Nat
  serial : Bool
  deriving DecidableEq, Repr

/-- What happens next by the choice of the outside or among the device's agents. -/
inductive Act where
  /-- a step of the device -/
  | ev (i : Instr)
  /-- the wave that executes next -/
  | pick (w : Nat)
  /-- the wave executes next, and a resumable instruction of its takes up to `n` of its progress steps (R46) -/
  | part (w n : Nat)
  /-- a round whose waves are all to be stopped takes up to `n` rows more and stops (R163) -/
  | roundPart (uid cv n : Nat)
  /-- a commit of the wave applies its next line and no more (R128) -/
  | applyLine (w : Nat)
  /-- the host writes its own memory -/
  | hostStore (addr : Nat) (bytes : List Byte)
  /-- the host writes an entry of the MSI-X table (R203) -/
  | msixEntry (vec : Nat) (e : MsixEntry)
  /-- the hardware limit block steps a die down at its current ceiling (R21) -/
  | limitStep (die index : Nat)
  /-- a port that is down starts to train (R211) -/
  | linkTrain (port : Nat)
  /-- a namespace with blocks of 4,096 bytes, or of 512, is attached (R212) -/
  | attach (ctrl nsid : Nat) (big : Bool)
  /-- a peer or a pool writes its own memory -/
  | peerStore (tgt chip addr : Nat) (bytes : List Byte)
  /-- a register of a wave, a byte of a bank, a map of a loft suffers an error that its check will find -/
  | regError (w : Nat) (u : Upset)
  | bankError (core bank byte : Nat)
  | loftError (die handle : Nat)
  deriving DecidableEq, Repr

/-- An item of the agenda: it happens at REFTIME `t`, or at once where that has passed. -/
structure Item where
  t : Nat
  act : Act
  deriving DecidableEq, Repr

/-- What the homes hold. -/
structure Homes where
  dram : List Host.Cell := []
  /-- lines of the L2 by real line: valid bytes by offset, each with its dirty bit (R94) -/
  l2 : Tbl (Tbl (Byte × Bool)) := []
  poison : List Nat := []
  locks : List Lock := []
  flight : List CellarEntry := []
  host : List Host.Cell := []
  peer : Tbl (List Host.Cell) := []
  snaps : List SnapPage := []
  /-- staged off-package writes of launches (R392) -/
  staged : List (Nat × CellarEntry) := []
  egress : List Flit := []
  deriving DecidableEq, Repr

/-- What the dispatchers and the command processor hold. -/
structure Queues where
  launches : Tbl Launch := []
  cards : List Card := []
  counters : List Counter := []
  subs : List Submission := []
  coopQ : List Nat := []
  coop : Option Nat := none
  /-- the cores reserved for the units of the launch being admitted, by place in the list of its units (R67) -/
  coopRes : Tbl Nat := []
  gridUse : List Nat := []
  signals : List HostSig := []
  held : List ContRec := []
  nmQ : List EngCmd := []
  deriving DecidableEq, Repr

/-- What the hubs hold. -/
structure Hubs where
  bar0 : Tbl Dword := []
  mbox : Mbox := {}
  /-- messages sent to the host; the vector table and the pending bits of BAR4 -/
  msix : List Nat := []
  msixTab : Tbl MsixEntry := []
  msixPend : List Nat := []
  ports : Tbl Port := []
  errQ : List ErrRec := []
  faultQ : List FaultRec := []
  seqs : Tbl Nat := []
  sched : Sched := {}
  limit : List Nat := [0, 0, 0, 0]
  fatal : Option Nat := none
  flash : Flash := {}
  meas : List Byte := []
  svn : Nat := 0
  comp : Comp := {}
  mig : Mig := {}
  frames : List (Nat × Tbl Nat) := []
  /-- the clock components of the ports, 98 to 115 (R117) -/
  portClock : Tbl Nat := []
  /-- requests of peers that wait in the ports' buffers -/
  peerQ : List PeerReq := []
  /-- the ports in use for a chip while its writes are on their way (R209) -/
  ways : Tbl (List Nat) := []
  /-- namespaces of 4,096-byte blocks, by controller and namespace; the others have 512 (R212) -/
  bigBlocks : List (Nat × Nat) := []
  boot : Option BootImage := none
  timerHub : Nat := 0
  deriving DecidableEq, Repr

/-- The state of the module. -/
structure State where
  time : Nat
  waves : Tbl Wave
  wavex : Tbl WaveX
  units : Tbl WorkUnit
  cores : Tbl CoreSt
  dies : Tbl Die
  ctxs : Tbl Ctx
  homes : Homes
  queues : Queues
  hubs : Hubs
  /-- the wave whose instruction executes now: which agent steps is the model's own choice (log 4) -/
  cur : Nat
  agenda : List Item
  /-- numbers given to requests, units, launches and the like -/
  nextId : Nat
  /-- free values drawn (log 3) -/
  freeCtr : Nat
  deriving DecidableEq, Repr

/-- The state right after reset (R20): REFTIME 0, every die at operating point 2, BAR0 at the Reset column of
Table 10.2, and nothing resident. Registers of a wave, core, die or context are those of the records' defaults. -/
def State.reset : State where
  time := 0
  waves := []
  wavex := []
  units := []
  cores := []
  dies := []
  ctxs := []
  homes := {}
  queues := {}
  hubs := {}
  cur := 0
  agenda := []
  nextId := 1
  freeCtr := 0

/-- Why the machine stops with a fault. -/
inductive Fault where
  /-- An instruction is given to a wave slot that holds no wave with an issuing entry: raised by the meanings of
  instructions (shared operation `issue`). No step of the device leads to it, since `step` runs only the
  instruction that the current wave's issuing entry has come to. Safe: the spec gives an instruction no effect
  outside a wave. -/
  | noWave
  deriving DecidableEq, Repr

/-- Why an instruction has no meaning. -/
inductive Refusal where
  /-- The meaning of this mnemonic is not written: raised by `exec`'s refused arms only. Safe: nothing follows. -/
  | notModelled (mnemonic : String)
  deriving DecidableEq, Repr

end Sys2Proof.Machine
end

