-- ==== Sys2Proof/Machine/Access.lean ====
section
/-! DEFINITION. Reading and replacing the parts of the state, and the numbering of the module's parts (R8, R13, R80). -/

namespace Sys2Proof.Machine

/-- The outcome of a step. -/
abbrev Out := Host.Outcome State Fault Refusal

/-- The core, die, quadrant and slot of a wave slot ((die × 16 + core) × 96 + quadrant × 24 + slot, R80). -/
def coreOf (w : Nat) : Nat := w / 96
def dieOfCore (c : Nat) : Nat := c / 16
def dieOf (w : Nat) : Nat := dieOfCore (coreOf w)
def quadOf (w : Nat) : Nat := w % 96 / 24
def slotOf (w : Nat) : Nat := w % 24

def State.wave (s : State) (w : Nat) : Wave := Tbl.get {} s.waves w
def State.wx (s : State) (w : Nat) : WaveX := Tbl.get {} s.wavex w
def State.core (s : State) (c : Nat) : CoreSt := Tbl.get {} s.cores c
def State.die (s : State) (d : Nat) : Die := Tbl.get {} s.dies d
def State.ctx (s : State) (n : Nat) : Ctx := Tbl.get {} s.ctxs n
def State.unit (s : State) (u : Nat) : Option WorkUnit := Tbl.find s.units u
def State.launch (s : State) (l : Nat) : Option Launch := Tbl.find s.queues.launches l
def CoreSt.quad (c : CoreSt) (q : Nat) : Quad := Tbl.get {} c.quads q
def CoreSt.bank (c : CoreSt) (b : Nat) : Bank := Tbl.get {} c.banks b
def Die.x (d : Die) (n : Nat) : XCtx := Tbl.get {} d.xctx n

def State.setWave (s : State) (w : Nat) (x : Wave) : State := { s with waves := Tbl.set s.waves w x }
def State.setWx (s : State) (w : Nat) (x : WaveX) : State := { s with wavex := Tbl.set s.wavex w x }
def State.setCore (s : State) (c : Nat) (x : CoreSt) : State := { s with cores := Tbl.set s.cores c x }
def State.setDie (s : State) (d : Nat) (x : Die) : State := { s with dies := Tbl.set s.dies d x }
def State.setCtx (s : State) (n : Nat) (x : Ctx) : State := { s with ctxs := Tbl.set s.ctxs n x }
def State.setUnit (s : State) (u : Nat) (x : WorkUnit) : State := { s with units := Tbl.set s.units u x }
def State.setLaunch (s : State) (l : Nat) (x : Launch) : State :=
  { s with queues := { s.queues with launches := Tbl.set s.queues.launches l x } }

def State.updWave (s : State) (w : Nat) (f : Wave → Wave) : State := s.setWave w (f (s.wave w))
def State.updWx (s : State) (w : Nat) (f : WaveX → WaveX) : State := s.setWx w (f (s.wx w))
def State.updCore (s : State) (c : Nat) (f : CoreSt → CoreSt) : State := s.setCore c (f (s.core c))
def State.updDie (s : State) (d : Nat) (f : Die → Die) : State := s.setDie d (f (s.die d))
def State.updCtx (s : State) (n : Nat) (f : Ctx → Ctx) : State := s.setCtx n (f (s.ctx n))
def State.updUnit (s : State) (u : Nat) (f : WorkUnit → WorkUnit) : State :=
  match s.unit u with
  | some x => s.setUnit u (f x)
  | none => s
def State.updLaunch (s : State) (l : Nat) (f : Launch → Launch) : State :=
  match s.launch l with
  | some x => s.setLaunch l (f x)
  | none => s
def State.updQuad (s : State) (c q : Nat) (f : Quad → Quad) : State :=
  s.updCore c fun x => { x with quads := Tbl.set x.quads q (f (x.quad q)) }
def State.updBank (s : State) (c b : Nat) (f : Bank → Bank) : State :=
  s.updCore c fun x => { x with banks := Tbl.set x.banks b (f (x.bank b)) }
def State.updHomes (s : State) (f : Homes → Homes) : State := { s with homes := f s.homes }
def State.updQueues (s : State) (f : Queues → Queues) : State := { s with queues := f s.queues }
def State.updHubs (s : State) (f : Hubs → Hubs) : State := { s with hubs := f s.hubs }

/-- A number not given before. -/
def State.fresh (s : State) : Nat × State := (s.nextId, { s with nextId := s.nextId + 1 })

/-- A free value (notes/assumptions/3.md). -/
def State.drawFree (s : State) : Dword × State := (Config.free s.freeCtr, { s with freeCtr := s.freeCtr + 1 })

/-- The unit, card share and context of a wave. -/
def State.unitOf (s : State) (w : Nat) : Option WorkUnit := s.unit (s.wave w).uid
def State.ctxOf (s : State) (w : Nat) : Nat := ((s.unitOf w).map (·.crec.ctx)).getD 0
def State.lidOf (s : State) (w : Nat) : Nat := ((s.unitOf w).map (·.crec.lid)).getD 0

/-- The wave slots of a unit's waves still alive. -/
def WorkUnit.wids (u : WorkUnit) : List Nat := u.slots.map (fun k => u.core * 96 + k)
def WorkUnit.aliveWids (u : WorkUnit) : List Nat := u.alive.map (fun k => u.core * 96 + k)
/-- The unit's bank count (R79). -/
def WorkUnit.nbanks (u : WorkUnit) : Nat := u.sbanks + u.cbanks
/-- The physical bank of a unit bank (R79). -/
def WorkUnit.phys (u : WorkUnit) (b : Nat) : Nat := u.bankMap.getD b 0

/-- A module register of Table 10.2 by its BAR0 offset. -/
def State.reg (s : State) (off : Nat) : Nat := (Tbl.get 0 s.hubs.bar0 off).toNat

/-- The local copy of the reference timer (R15). -/
def State.refTime (s : State) (d : Nat) : Nat := s.time - (Config.skew d).val

end Sys2Proof.Machine
end

