-- ==== Sys2Proof/Machine/Digest.lean ====
section
/-! DEFINITION. CRC-32C (R100, R208, R368), SHA-512 of FIPS 180-4 (R198, R215, R218) and Ed25519 of RFC 8032
(R215, R218, R221). The manual names the standards; their constants are those of the standards
(notes/assumptions/18.md). -/

namespace Sys2Proof.Machine

/-! ## CRC-32C -/

/-- One bit of the reflected division by the Castagnoli polynomial. -/
def crcStep (c : Nat) : Nat := if c % 2 = 1 then (c / 2) ^^^ 0x82F63B78 else c / 2

/-- One byte. -/
def crcByte (c : Nat) (b : Byte) : Nat :=
  let x := c ^^^ b.toNat
  crcStep (crcStep (crcStep (crcStep (crcStep (crcStep (crcStep (crcStep x)))))))

/-- CRC-32C of a list of bytes. -/
def crc32c (l : List Byte) : Nat := (l.foldl crcByte 0xFFFFFFFF) ^^^ 0xFFFFFFFF

/-! ## SHA-512 -/

def shaK : List (BitVec 64) :=
  [0x428A2F98D728AE22, 0x7137449123EF65CD, 0xB5C0FBCFEC4D3B2F, 0xE9B5DBA58189DBBC, 0x3956C25BF348B538, 0x59F111F1B605D019, 0x923F82A4AF194F9B, 0xAB1C5ED5DA6D8118, 0xD807AA98A3030242, 0x12835B0145706FBE, 0x243185BE4EE4B28C, 0x550C7DC3D5FFB4E2, 0x72BE5D74F27B896F, 0x80DEB1FE3B1696B1, 0x9BDC06A725C71235, 0xC19BF174CF692694, 0xE49B69C19EF14AD2, 0xEFBE4786384F25E3, 0x0FC19DC68B8CD5B5, 0x240CA1CC77AC9C65]
  ++ [0x2DE92C6F592B0275, 0x4A7484AA6EA6E483, 0x5CB0A9DCBD41FBD4, 0x76F988DA831153B5, 0x983E5152EE66DFAB, 0xA831C66D2DB43210, 0xB00327C898FB213F, 0xBF597FC7BEEF0EE4, 0xC6E00BF33DA88FC2, 0xD5A79147930AA725, 0x06CA6351E003826F, 0x142929670A0E6E70, 0x27B70A8546D22FFC, 0x2E1B21385C26C926, 0x4D2C6DFC5AC42AED, 0x53380D139D95B3DF, 0x650A73548BAF63DE, 0x766A0ABB3C77B2A8, 0x81C2C92E47EDAEE6, 0x92722C851482353B]
  ++ [0xA2BFE8A14CF10364, 0xA81A664BBC423001, 0xC24B8B70D0F89791, 0xC76C51A30654BE30, 0xD192E819D6EF5218, 0xD69906245565A910, 0xF40E35855771202A, 0x106AA07032BBD1B8, 0x19A4C116B8D2D0C8, 0x1E376C085141AB53, 0x2748774CDF8EEB99, 0x34B0BCB5E19B48A8, 0x391C0CB3C5C95A63, 0x4ED8AA4AE3418ACB, 0x5B9CCA4F7763E373, 0x682E6FF3D6B2B8A3, 0x748F82EE5DEFB2FC, 0x78A5636F43172F60, 0x84C87814A1F0AB72, 0x8CC702081A6439EC]
  ++ [0x90BEFFFA23631E28, 0xA4506CEBDE82BDE9, 0xBEF9A3F7B2C67915, 0xC67178F2E372532B, 0xCA273ECEEA26619C, 0xD186B8C721C0C207, 0xEADA7DD6CDE0EB1E, 0xF57D4F7FEE6ED178, 0x06F067AA72176FBA, 0x0A637DC5A2C898A6, 0x113F9804BEF90DAE, 0x1B710B35131C471B, 0x28DB77F523047D84, 0x32CAAB7B40C72493, 0x3C9EBE0A15C9BEBC, 0x431D67C49C100D4C, 0x4CC5D4BECB3E42B6, 0x597F299CFC657E2A, 0x5FCB6FAB3AD6FAEC, 0x6C44198C4A475817]

def shaH : List (BitVec 64) :=
  [0x6A09E667F3BCC908, 0xBB67AE8584CAA73B, 0x3C6EF372FE94F82B, 0xA54FF53A5F1D36F1, 0x510E527FADE682D1, 0x9B05688C2B3E6C1F, 0x1F83D9ABFB41BD6B, 0x5BE0CD19137E2179]

/-- The message schedule, newest word first. -/
def shaSchedule : Nat → List (BitVec 64) → List (BitVec 64)
  | 0, w => w
  | n + 1, w =>
    let w2 := w.getD 1 0
    let w7 := w.getD 6 0
    let w15 := w.getD 14 0
    let w16 := w.getD 15 0
    let s0 := w15.rotateRight 1 ^^^ w15.rotateRight 8 ^^^ (w15 >>> 7)
    let s1 := w2.rotateRight 19 ^^^ w2.rotateRight 61 ^^^ (w2 >>> 6)
    shaSchedule n ((w16 + s0 + w7 + s1) :: w)

/-- The working variables a to h. -/
structure Sha8 where
  a : BitVec 64
  b : BitVec 64
  c : BitVec 64
  d : BitVec 64
  e : BitVec 64
  f : BitVec 64
  g : BitVec 64
  h : BitVec 64

def shaRound (x : Sha8) (k : BitVec 64 × BitVec 64) : Sha8 :=
  let s1 := x.e.rotateRight 14 ^^^ x.e.rotateRight 18 ^^^ x.e.rotateRight 41
  let ch := (x.e &&& x.f) ^^^ (~~~ x.e &&& x.g)
  let t1 := x.h + s1 + ch + k.1 + k.2
  let s0 := x.a.rotateRight 28 ^^^ x.a.rotateRight 34 ^^^ x.a.rotateRight 39
  let maj := (x.a &&& x.b) ^^^ (x.a &&& x.c) ^^^ (x.b &&& x.c)
  { a := t1 + (s0 + maj), b := x.a, c := x.b, d := x.c, e := x.d + t1, f := x.e, g := x.f, h := x.g }

/-- A 64-bit word from eight bytes, highest first. -/
def beWord (l : List Byte) : BitVec 64 := BitVec.ofNat 64 (l.foldl (fun n b => n * 256 + b.toNat) 0)

/-- The words of a block of 128 bytes. -/
def beWords : Nat → List Byte → List (BitVec 64)
  | 0, _ => []
  | n + 1, l => beWord (l.take 8) :: beWords n (l.drop 8)

def shaBlock (h : List (BitVec 64)) (blk : List Byte) : List (BitVec 64) :=
  let ws := (shaSchedule 64 (beWords 16 blk).reverse).reverse
  let x0 : Sha8 := ⟨h.getD 0 0, h.getD 1 0, h.getD 2 0, h.getD 3 0, h.getD 4 0, h.getD 5 0, h.getD 6 0, h.getD 7 0⟩
  let x := (shaK.zip ws).foldl shaRound x0
  (h.zip [x.a, x.b, x.c, x.d, x.e, x.f, x.g, x.h]).map (fun p => p.1 + p.2)

def shaBlocks : Nat → List (BitVec 64) → List Byte → List (BitVec 64)
  | 0, h, _ => h
  | n + 1, h, l => shaBlocks n (shaBlock h (l.take 128)) (l.drop 128)

/-- SHA-512 of a list of bytes. -/
def sha512 (m : List Byte) : List Byte :=
  let n := m.length
  let pad := (128 - (n + 17) % 128) % 128
  let msg := m ++ [0x80#8] ++ List.replicate pad 0#8 ++ (toBytes 16 (n * 8)).reverse
  (shaBlocks (msg.length / 128) shaH msg).flatMap (fun w => (toBytes 8 w.toNat).reverse)

/-! ## Ed25519 -/

def edP : Nat := 2 ^ 255 - 19
def edL : Nat := 2 ^ 252 + 27742317777372353535851937790883648493
def edD : Nat := 37095705934669439343138083508754565189542113879843219016388785533085940283555

/-- b^e mod m, the bits of the exponent taken `n` at a time from the lowest. -/
def powMod (m : Nat) : Nat → Nat → Nat → Nat
  | 0, _, _ => 1 % m
  | n + 1, b, e =>
    let r := powMod m n (b * b % m) (e / 2)
    if e % 2 = 1 then b * r % m else r

def edInv (x : Nat) : Nat := powMod edP 256 x (edP - 2)

/-- A point in extended coordinates. -/
structure EdPt where
  x : Nat
  y : Nat
  z : Nat
  t : Nat

def edAdd (p q : EdPt) : EdPt :=
  let a := (p.y + edP - p.x) * (q.y + edP - q.x) % edP
  let b := (p.y + p.x) * (q.y + q.x) % edP
  let c := p.t * 2 * edD * q.t % edP
  let d := p.z * 2 * q.z % edP
  let e := b + edP - a
  let f := d + edP - c
  let g := d + c
  let h := b + a
  { x := e * f % edP, y := g * h % edP, z := f * g % edP, t := e * h % edP }

def edMul : Nat → Nat → EdPt → EdPt
  | 0, _, _ => ⟨0, 1, 1, 0⟩
  | n + 1, k, p =>
    let r := edMul n (k / 2) (edAdd p p)
    if k % 2 = 1 then edAdd p r else r

def edBase : EdPt :=
  let x := 15112221349535400772501151409588531511454012693041857206046113283949847762202
  let y := 46316835694926478169428394003475163141307993866256225615783033603165251855960
  ⟨x, y, 1, x * y % edP⟩

def edEncode (p : EdPt) : List Byte :=
  let zi := edInv p.z
  let x := p.x * zi % edP
  let y := p.y * zi % edP
  toBytes 32 (y + 2 ^ 255 * (x % 2))

/-- The point that 32 bytes encode, if any. -/
def edDecode (l : List Byte) : Option EdPt :=
  let n := ofBytes l
  let y := n % 2 ^ 255
  let sign := n / 2 ^ 255 % 2
  if y ≥ edP then none
  else
    let x2 := (y * y + edP - 1) * edInv ((edD * y % edP * y + 1) % edP) % edP
    let x0 := powMod edP 256 x2 ((edP + 3) / 8)
    let x1 := if x0 * x0 % edP = x2 then x0 else x0 * powMod edP 256 2 ((edP - 1) / 4) % edP
    if x1 * x1 % edP ≠ x2 then none
    else if x1 = 0 ∧ sign = 1 then none
    else
      let x := if x1 % 2 = sign then x1 else edP - x1
      some ⟨x, y, 1, x * y % edP⟩

/-- The clamped scalar and the prefix half of a seed's digest. -/
def edSecret (seed : List Byte) : Nat × List Byte :=
  let h := sha512 seed
  let a := ofBytes (h.take 32)
  (a % 2 ^ 254 / 8 * 8 + 2 ^ 254, h.drop 32)

def edPublic (seed : List Byte) : List Byte := edEncode (edMul 256 (edSecret seed).1 edBase)

def edSign (seed msg : List Byte) : List Byte :=
  let (a, pre) := edSecret seed
  let pub := edEncode (edMul 256 a edBase)
  let r := ofBytes (sha512 (pre ++ msg)) % edL
  let rp := edEncode (edMul 256 r edBase)
  let k := ofBytes (sha512 (rp ++ pub ++ msg)) % edL
  rp ++ toBytes 32 ((r + k * a) % edL)

/-- Verification of a 64-byte signature (RFC 8032, pure form). -/
def edVerify (pub msg sig : List Byte) : Bool :=
  match edDecode (pub.take 32), edDecode (sig.take 32) with
  | some a, some r =>
    let sc := ofBytes ((sig.drop 32).take 32)
    if sc ≥ edL then false
    else
      let k := ofBytes (sha512 (sig.take 32 ++ pub.take 32 ++ msg)) % edL
      edEncode (edMul 256 sc edBase) = edEncode (edAdd r (edMul 256 k a))
  | _, _ => false

end Sys2Proof.Machine
end

