-- ==== Sys2Proof/Machine/Records.lean ====
section
/-! DEFINITION. Error and fault records (R366 to R370, R399, R421, R443): their bytes, queued until the command
processor posts them (ERROR_RECORD_POST, FAULT_RECORD_POST). -/

namespace Sys2Proof.Machine

/-- The fields of Table 18.3 that a mechanism fills; TIME, SEQ and CRC are added. -/
structure ErrFields where
  cls : Nat
  sev : Nat := 0
  trap : Nat := 0
  flags : Nat := 0
  ctx : Option Nat := none
  slot : Nat := 0xFFFF
  unit : Nat := 0xFFFFFFFF
  die : Nat := 96
  site : Nat := 9
  index : Nat := 0
  sub : Nat := 0
  addr : Nat := 0
  pc : Nat := 0
  time : Option Nat := none
  detail : List Byte := []
  deriving DecidableEq, Repr

/-- BOOTST reads recovery: the module takes only a new image (R218). -/
def State.inRecovery (s : State) : Bool := s.reg 0x0008 % 16 = 2

/-- A message of an MSI-X vector: sent, or kept in the pending bits while its entry is masked (R203). -/
def State.sendMsix (s : State) (v : Nat) : State :=
  s.updHubs fun h =>
    if (Tbl.get {} h.msixTab v : MsixEntry).mask then { h with msixPend := if h.msixPend.contains v then h.msixPend else h.msixPend ++ [v] }
    else { h with msix := h.msix ++ [v] }

/-- The host writes an entry of the MSI-X table; a message that waited for its mask to clear is sent. -/
def State.writeMsix (s : State) (v : Nat) (e : MsixEntry) : State :=
  if 2048 ≤ v then s
  else
    let s := s.updHubs fun h => { h with msixTab := Tbl.set h.msixTab v e }
    if s.hubs.msixPend.contains v && !e.mask then
      (s.updHubs fun h => { h with msixPend := h.msixPend.filter (· ≠ v) }).sendMsix v
    else s

/-- A list of bytes cut or padded with zeros to a length. -/
def padTo (n : Nat) (l : List Byte) : List Byte := (l ++ List.replicate n 0#8).take n

/-- Bytes 0 to 55 of an error record (Table 18.3). -/
def ErrFields.bytes (e : ErrFields) (t : Nat) : List Byte :=
  toBytes 1 e.cls ++ toBytes 1 e.sev ++ toBytes 1 e.trap ++ toBytes 1 e.flags ++ toBytes 2 (e.ctx.getD 0xFFFF)
    ++ toBytes 2 e.slot ++ toBytes 4 e.unit ++ toBytes 1 e.die ++ toBytes 1 e.site ++ toBytes 1 e.index
    ++ toBytes 1 e.sub ++ toBytes 8 e.addr ++ toBytes 8 e.pc ++ toBytes 8 (e.time.getD t) ++ padTo 16 e.detail

/-- Queue an error record: to its context's log, or to the module log, and a copy of a CONTEXT-FATAL or DEVICE-FATAL
record to the module log (R370). -/
def State.postErr (s : State) (e : ErrFields) : State :=
  let b := e.bytes s.time
  let own : ErrRec := ⟨e.ctx, b⟩
  let copy : List ErrRec := if e.ctx.isSome ∧ 3 ≤ e.sev then [⟨none, b⟩] else []
  s.updHubs fun h => { h with errQ := h.errQ ++ own :: copy }

/-- Queue a record in the module log whatever its context (R378, R408 and the rules that name the module log). -/
def State.postModule (s : State) (e : ErrFields) : State :=
  s.updHubs fun h => { h with errQ := h.errQ ++ [⟨none, e.bytes s.time⟩] }

/-- A record of a rung that did not contain its error is posted again as CONTEXT-FATAL, with ESCALATED set (R366, R377). -/
def State.escalate (s : State) (e : ErrRec) : State :=
  let flags := byteAt e.bytes 3
  let b := e.bytes.take 1 ++ [3#8] ++ (e.bytes.drop 2).take 1 ++ toBytes 1 (flags - (if bitOf flags 1 then 2 else 0) + 4) ++ e.bytes.drop 4
  s.updHubs fun h => { h with errQ := h.errQ ++ [⟨e.ctx, b⟩, ⟨none, b⟩] }

/-- The DETAIL bytes with the pieces given at their offsets from byte 40. -/
def detailOf (ps : List (Nat × List Byte)) : List Byte :=
  ps.foldl (fun d p => (d.take p.1 ++ p.2 ++ d.drop (p.1 + p.2.length)).take 16) (List.replicate 16 0#8)

/-- A SCHED record (R420): code of Table 20.4, address, ring value, and the unit concerned where there is one. -/
def State.postSched (s : State) (ctx code addr value : Nat) (ids : Nat × Nat := (0xFFFF, 0xFFFFFFFF)) : State :=
  s.postErr { cls := 9, ctx := some ctx, slot := ids.1, unit := ids.2, addr := addr, die := 96 + s.hubs.sched.hub,
              detail := detailOf [(0, toBytes 1 code), (4, toBytes 4 value)] }

/-- Bytes of a fault record (Table 18.4); `group` counts the records of the group. -/
def faultBytes (va cause kind lane group : Nat) (first : Bool) (ctx slot unit pcit t : Nat) : List Byte :=
  toBytes 8 va ++ toBytes 1 cause ++ toBytes 1 kind ++ toBytes 1 lane
    ++ toBytes 1 (group % 64 + (if first then 128 else 0)) ++ toBytes 2 ctx ++ toBytes 2 slot ++ toBytes 4 unit
    ++ toBytes 8 pcit ++ toBytes 4 t

def State.postFault (s : State) (ctx : Nat) (b : List Byte) : State :=
  s.updHubs fun h => { h with faultQ := h.faultQ ++ [⟨ctx, b⟩] }

/-- The launch slot and unit index that a record of a wave's unit names. -/
def State.unitIds (s : State) (uid : Nat) : Nat × Nat :=
  match s.unit uid with
  | some u => (u.crec.slot, u.crec.unit)
  | none => (0xFFFF, 0xFFFFFFFF)

end Sys2Proof.Machine
end

