-- ==== Sys2Proof/Machine/Store.lean ====
section
/-! DEFINITION. What the homes hold: DRAM, the L2, compressed units, alias views, page tables (R81 to R90, R94 to
R102), snapshots taken at the first write (R431), poison (R409). -/

namespace Sys2Proof.Machine

/-! ## Memory as a list of cells

Addresses rise strictly, and no cell holds zero, which is what an unlisted address reads as
(notes/assumptions/1.md). -/

def Mem.read (m : List Host.Cell) (a : Nat) : Byte :=
  match m with
  | [] => 0#8
  | (k, b) :: t => if k = a then b else if a < k then 0#8 else Mem.read t a

def Mem.write (m : List Host.Cell) (a : Nat) (b : Byte) : List Host.Cell :=
  match m with
  | [] => if b = 0#8 then [] else [(a, b)]
  | (k, c) :: t =>
    if k = a then (if b = 0#8 then t else (a, b) :: t)
    else if a < k then (if b = 0#8 then (k, c) :: t else (a, b) :: (k, c) :: t)
    else (k, c) :: Mem.write t a b

/-- The canonical form: every address above `lo`, rising, no zero. -/
def Mem.wfFrom (lo : Nat) (m : List Host.Cell) : Bool :=
  match m with
  | [] => true
  | (k, b) :: t => lo ≤ k && b != 0#8 && Mem.wfFrom (k + 1) t

def Mem.wf (m : List Host.Cell) : Bool := Mem.wfFrom 0 m

def Mem.readN (m : List Host.Cell) (a n : Nat) : List Byte := (List.range n).map fun i => Mem.read m (a + i)

def Mem.writeN (m : List Host.Cell) (a : Nat) (l : List Byte) : List Host.Cell :=
  match l with
  | [] => m
  | b :: t => Mem.writeN (Mem.write m a b) (a + 1) t

/-- Write the bytes whose mask bit is set. -/
def Mem.writeMasked (m : List Host.Cell) (a : Nat) (l : List Byte) (mask : List Bool) : List Host.Cell :=
  match l, mask with
  | b :: t, k :: r => Mem.writeMasked (if k then Mem.write m a b else m) (a + 1) t r
  | _, _ => m

/-! ## Compressed units (R99 to R101) -/

/-- Bits [lo + n - 1 : lo] of a payload. -/
def payBits (p : Nat) (lo n : Nat) : Nat := bitsOf p lo n

/-- Elements of w bits of a unit. -/
def unitElems (w : Nat) (u : Nat) : List Nat := (List.range (2048 / w)).map fun i => bitsOf u (w * i) w

/-- The differences from element 0, when each fits `d` signed bits. -/
def deltas (w d : Nat) (es : List Nat) : Option (List Nat) :=
  let e0 := es.headD 0
  let ds := es.map fun e => sext w (e + 2 ^ w - e0)
  if ds.all (fun x => -(2 ^ (d - 1) : Int) ≤ x && x < 2 ^ (d - 1)) then some (ds.map (wrapN d)) else none

/-- Fields of a common width packed from bit 0. -/
def packBits (w : Nat) (l : List Nat) : Nat := l.foldr (fun x a => a * 2 ^ w + x % 2 ^ w) 0

/-- One group of mxsq: E, then 32 fields of 12 bits with the mantissa in [6:0], the difference in [10:7] and the sign
in [11] (notes/assumptions/25.md). -/
def mxsqGroup (es : List Nat) : Option Nat :=
  let ex := es.map (fun e => e / 128 % 256)
  let top := ex.foldl max 0
  let ok := es.all fun e => e % 2 ^ 15 = 0 || top ≤ e / 128 % 256 + 14
  if ok then
    some (top + 256 * packBits 12 (es.map fun e =>
      (if e % 2 ^ 15 = 0 then 15 * 128 else (top - e / 128 % 256) * 128 + e % 128) + e / 2 ^ 15 * 2048))
  else none

/-- Codec, chunk count and payload of 256 bytes: the fewest chunks, ties to the lower codec (R101). -/
def compressUnit (bytes : List Byte) : Nat × Nat × Nat :=
  let u := ofBytes bytes
  if u = 0 then (1, 0, 0)
  else
    match deltas 32 8 (unitElems 32 u) with
    | some ds => (4, 3, u % 2 ^ 32 + 2 ^ 32 * packBits 8 ds)
    | none =>
      match deltas 8 4 (unitElems 8 u) with
      | some ds => (2, 5, u % 2 ^ 8 + 2 ^ 8 * packBits 4 ds)
      | none =>
        match deltas 16 8 (unitElems 16 u) with
        | some ds => (3, 5, u % 2 ^ 16 + 2 ^ 16 * packBits 8 ds)
        | none =>
          let es := unitElems 16 u
          match mxsqGroup (es.take 32), mxsqGroup ((es.drop 32).take 32), mxsqGroup ((es.drop 64).take 32),
              mxsqGroup (es.drop 96) with
          | some a, some b, some c, some d => (5, 7, a + 2 ^ 392 * (b + 2 ^ 392 * (c + 2 ^ 392 * d)))
          | _, _, _, _ => (0, 8, u)

/-- The chunks of a codec: `none` where the codec is reserved. -/
def codecChunks (codec : Nat) : Option Nat :=
  match codec with
  | 0 => some 8 | 1 => some 0 | 2 => some 5 | 3 => some 5 | 4 => some 3 | 5 => some 7 | _ => none

/-- The block header (Table 4.7). -/
def blockHeader (codec chunks : Nat) (poison : Bool) (crc : Nat) : Nat :=
  codec + 8 * (chunks - 1) + (if poison then 64 else 0) + 2 ^ 32 * crc

/-- Elements from a first element and stored differences. -/
def undelta (w d e0 : Nat) (p : Nat) : List Nat :=
  (List.range (2048 / w)).map fun i => wrapN w (e0 + sext d (payBits p (w + d * i) d))

/-- The 128 bf16 elements of an mxsq payload. -/
def unmxsq (p : Nat) : List Nat :=
  (List.range 128).map fun i =>
    let g := 392 * (i / 32)
    let f := payBits p (g + 8 + 12 * (i % 32)) 12
    let e := payBits p g 8
    let d := f / 128 % 16
    (f / 2048) * 2 ^ 15 + (if d = 15 then 0 else ((e + 256 - d) % 256) * 128 + f % 128)

/-- Expand a block (R101, R102): `none` where the header is bad or the CRC does not match. -/
def expandBlock (hdr : Nat) (payload : Nat) : Option (List Byte) :=
  let codec := hdr % 8
  match codecChunks codec with
  | none => none
  | some n =>
    if hdr / 8 % 8 ≠ n - 1 then none
    else
      let u := match codec with
        | 0 => payload
        | 1 => 0
        | 2 => packBits 8 (undelta 8 4 (payload % 2 ^ 8) payload)
        | 3 => packBits 16 (undelta 16 8 (payload % 2 ^ 16) payload)
        | 4 => packBits 32 (undelta 32 8 (payload % 2 ^ 32) payload)
        | _ => packBits 16 (unmxsq payload)
      let bytes := toBytes 256 u
      if crc32c bytes = hdr / 2 ^ 32 then some bytes else none

/-! ## Addresses -/

/-- The end of HBM, the start of the range kept from contexts, and the start of compressed frame space (R81). -/
def hbmEnd : Nat := 0x9000000000
def keptFrom : Nat := 0x8F00000000
def frameBase : Nat := 0x10000000000

/-- A real address below a frame in use (R81, R99). -/
def State.inFrames (s : State) (a : Nat) : Bool :=
  frameBase ≤ a && (a - frameBase) / 0x10000 < s.reg 0x0020

/-- A real address that Table 4.3 does not reserve. -/
def State.realOk (s : State) (a : Nat) : Bool := a < hbmEnd || s.inFrames a

/-- The home slice of a local real address (R94). -/
def homeSlice (a : Nat) : Nat :=
  let g := a % 2 ^ 52 / 4096
  (g ^^^ (g >>> 11) ^^^ (g >>> 23)) % 168

/-- The channel of an interleaved real address (R97). -/
def channelXor (q : Nat) : Nat := (q % 1024 ^^^ (q >>> 10) % 1024 ^^^ (q >>> 20) % 4) % 768

/-- Channel, DRAM bank with its group (group × 4 + bank), row and column of an interleaved real address (R97). -/
def dramPlace (a : Nat) : Nat × Nat × Nat × Nat :=
  let u := a / 256
  let q := u / 768
  let c := (u % 768 + channelXor q) % 768
  let o := q * 256 + a % 256
  (c, o / 4096 % 4 * 4 + o / 1024 % 4, o / 16384, o % 1024)

/-- The bank-linear address of a place (R98). -/
def linearOf (a : Nat) : Nat :=
  let (c, b, row, col) := dramPlace a
  c * 805306368 + b * 50331648 + row * 1024 + col

/-- The interleaved real address that a bank-linear address names (R98). -/
def interleavedOf (x : Nat) : Nat :=
  let c := x / 805306368
  let b := x % 805306368 / 50331648
  let row := x % 50331648 / 1024
  let o := row * 16384 + (b / 4) * 4096 + (b % 4) * 1024 + x % 1024
  let q := o / 256
  let m := (c + 768 - channelXor q) % 768
  (q * 768 + m) * 256 + o % 256

/-! ## Local bytes -/

/-- A byte of HBM at its home slice: the L2's, else DRAM's. -/
def State.hbmByte (s : State) (a : Nat) : Byte :=
  match Tbl.find (Tbl.get [] s.homes.l2 (a / 128)) (a % 128) with
  | some x => x.1
  | none => Mem.read s.homes.dram a

def State.hbmBytes (s : State) (a n : Nat) : List Byte := (List.range n).map fun i => s.hbmByte (a + i)

/-- The dirty bytes of an L2 line of HBM are written to DRAM; the line stays, clean. -/
def State.hbmClean (s : State) (line : Nat) : State :=
  match Tbl.find s.homes.l2 line with
  | none => s
  | some bs =>
    let put (m : List Host.Cell) (p : Nat × Byte × Bool) : List Host.Cell :=
      if p.2.2 then Mem.write m (line * 128 + p.1) p.2.1 else m
    let clean := bs.map fun p => (p.1, p.2.1, false)
    s.updHomes fun h => { h with dram := bs.foldl put h.dram, l2 := Tbl.set h.l2 line clean }

/-- The lines of a range of addresses. -/
def linesOf (a n : Nat) : List Nat := (List.range ((a + n - 1) / 128 + 1 - a / 128)).map (· + a / 128)

/-- The device's own write of HBM at rest: the lines that it meets leave the L2 first. -/
def State.hbmWrite (s : State) (a : Nat) (b : List Byte) : State :=
  let s := (linesOf a b.length).foldl (fun s k => (s.hbmClean k).updHomes fun h => { h with l2 := Tbl.del h.l2 k }) s
  s.updHomes fun h => { h with dram := Mem.writeN h.dram a b }

/-- Bytes at rest of unit `k` of the frame space: the metadata entry's block, expanded (R99). A unit that fails its
check reads as zero bytes and is poisoned where it is read (R408). -/
def State.unitAtRest (s : State) (k : Nat) : List Byte × Bool :=
  let e := s.hbmBytes (s.reg 0x0028 + k * 32) 32
  if ofBytes e = 0 then (List.replicate 256 0#8, false)
  else
    let hdr := leAt e 0 8
    let n := (codecChunks (hdr % 8)).getD 0
    let payload := (List.range n).flatMap fun i =>
      s.hbmBytes (s.reg 0x0030 + 32 * leAt e (8 + 3 * i) 3) 32
    match expandBlock hdr (ofBytes payload) with
    | some b => (b, bitOf hdr 6)
    | none => (List.replicate 256 0#8, true)

/-- Unit `k` at rest fails its check (R101, R102). -/
def State.unitFails (s : State) (k : Nat) : Bool :=
  let e := s.hbmBytes (s.reg 0x0028 + k * 32) 32
  let hdr := leAt e 0 8
  let payload := (List.range ((codecChunks (hdr % 8)).getD 0)).flatMap fun i =>
    s.hbmBytes (s.reg 0x0030 + 32 * leAt e (8 + 3 * i) 3) 32
  ofBytes e ≠ 0 && (expandBlock hdr (ofBytes payload)).isNone

/-- The byte at rest of a real address. -/
def State.restByte (s : State) (a : Nat) : Byte :=
  if a < hbmEnd then Mem.read s.homes.dram a
  else if s.inFrames a then ((s.unitAtRest ((a - frameBase) / 256)).1).getD ((a - frameBase) % 256) 0#8
  else 0#8

/-- The byte of a real address at its home: the L2's, else at rest (R94). -/
def State.homeByte (s : State) (a : Nat) : Byte :=
  match Tbl.find (Tbl.get [] s.homes.l2 (a / 128)) (a % 128) with
  | some x => x.1
  | none => s.restByte a

def State.homeBytes (s : State) (a n : Nat) : List Byte := (List.range n).map fun i => s.homeByte (a + i)

/-- A sector is poisoned (R409). -/
def State.poisoned (s : State) (a n : Nat) : Bool :=
  s.homes.poison.any fun x => a / 32 ≤ x && x ≤ (a + n - 1) / 32

/-- Poison the sectors of a range. -/
def State.poisonRange (s : State) (a n : Nat) : State :=
  let xs := (List.range ((a + n - 1) / 32 + 1 - a / 32)).map (· + a / 32)
  s.updHomes fun h => { h with poison := xs.foldl (fun p x => if p.contains x then p else p ++ [x]) h.poison }

/-- A write that covers every byte of a poisoned sector clears its poison (R409). -/
def clearPoison (p : List Nat) (a : Nat) (mask : List Bool) : List Nat :=
  p.filter fun x => !((List.range 32).all fun i =>
    x * 32 + i ≥ a && x * 32 + i < a + mask.length && mask.getD (x * 32 + i - a) false)

/-- The copy a protected page takes before its first write (R431), in expanded form with its poison. -/
def State.snapOnWrite (s : State) (a n : Nat) : State :=
  let hit (p : SnapPage) : Bool := p.copy.isNone && p.page * 65536 < a + n && a < p.page * 65536 + 65536
  if s.homes.snaps.any hit then
    let used := (s.homes.snaps.filter (fun p => p.copy.isSome)).length
    let take (p : SnapPage) : SnapPage :=
      let bad := s.homes.poison.filter fun x => p.page * 2048 ≤ x && x < p.page * 2048 + 2048
      if hit p && used < 61440 then { p with copy := some (s.homeBytes (p.page * 65536) 65536, bad) } else p
    s.updHomes fun h => { h with snaps := h.snaps.map take }
  else s

/-- Put bytes into the L2 line by line, dirty or clean (R94). -/
def l2Put (l2 : Tbl (Tbl (Byte × Bool))) (a : Nat) (dirty : Bool) : List Byte → List Bool →
    Tbl (Tbl (Byte × Bool))
  | b :: t, k :: r =>
    let line := Tbl.get [] l2 (a / 128)
    let old := Tbl.find line (a % 128)
    let put := k && (dirty || old.isNone)
    l2Put (if put then Tbl.set l2 (a / 128) (Tbl.set line (a % 128) (b, dirty)) else l2) (a + 1) dirty t r
  | _, _ => l2

/-! ## Compression at the home (R99, R412) -/

/-- The chunks in use: a bit of the bitmap kept in the pool's own first chunks. -/
def State.chunkUsed (s : State) (i : Nat) : Bool :=
  bitOf (s.hbmByte (s.reg 0x0030 + i / 8)).toNat (i % 8)

def State.setChunk (s : State) (i : Nat) (used : Bool) : State :=
  let a := s.reg 0x0030 + i / 8
  let b := (s.hbmByte a).toNat
  let b' := if used then b ||| 2 ^ (i % 8) else b - (if bitOf b (i % 8) then 2 ^ (i % 8) else 0)
  s.hbmWrite a [BitVec.ofNat 8 b']

def State.freeChunks (s : State) : Nat :=
  ((List.range (s.reg 0x0038)).filter fun i => !(s.chunkUsed i)).length

/-- The chunk bitmap of a fresh pool: its own chunks in use, every other free (R99). -/
def State.makePool (s : State) : State :=
  let n := s.reg 0x0038
  let b := ceilDiv n 256
  let bits := (List.range (b * 32)).map fun k =>
    BitVec.ofNat 8 ((List.range 8).foldl (fun x j => if k * 8 + j < b then x + 2 ^ j else x) 0)
  (s.hbmWrite (s.reg 0x0030) bits).updHubs fun h => { h with comp := { h.comp with made := true } }

/-- The first `n` free chunks, the lowest first. -/
def State.takeChunks (s : State) (n : Nat) : Option (List Nat × State) :=
  let free := ((List.range (s.reg 0x0038)).filter fun i => !(s.chunkUsed i)).take n
  if free.length = n then some (free, free.foldl (fun t i => t.setChunk i true) s) else none

/-- A COMPRESS record (Table 20.4). -/
def State.postCompress (s : State) (sev : Nat) (ctx : Option Nat) (event addr : Nat) : State :=
  s.postErr { cls := 8, sev := sev, ctx := ctx, addr := addr, die := homeSlice addr / 2, site := 2,
              index := homeSlice addr % 2 * 4 + addr / 128 % 4,
              detail := detailOf [(0, toBytes 1 event), (4, toBytes 4 s.freeChunks)] }

/-- Write the dirty unit `k` back (R102): new chunks are drawn before the old are freed, and the entry is rewritten
whole. `none` where the pool is empty, larder and all (R412). -/
def State.unitWriteback (s : State) (k : Nat) : Option State :=
  let a := frameBase + k * 256
  let bytes := s.homeBytes a 256
  let poison := s.poisoned a 256
  let (codec, n, payload) := compressUnit bytes
  let ent := s.reg 0x0028 + k * 32
  let old := s.hbmBytes ent 32
  let oldN := if ofBytes old = 0 then 0 else (codecChunks (leAt old 0 8 % 8)).getD 0
  let oldChunks := (List.range oldN).map fun i => leAt old (8 + 3 * i) 3
  let larder := s.reg 0x0038 / 64
  let low := s.freeChunks < larder + n
  match s.takeChunks n with
  | none => none
  | some (cs, s) =>
    let base := s.reg 0x0030
    let put (s : State) (p : Nat × Nat) : State := s.hbmWrite (base + 32 * p.1) (toBytes 32 (payload >>> (256 * p.2)))
    let s := (cs.zip (List.range n)).foldl put s
    let entry := toBytes 8 (blockHeader codec n poison (crc32c bytes))
      ++ padTo 24 (cs.flatMap fun c => toBytes 3 c)
    let s := s.hbmWrite ent entry
    let s := oldChunks.foldl (fun t i => t.setChunk i false) s
    let l0 := a / 128
    let clean (l2 : Tbl (Tbl (Byte × Bool))) (line : Nat) : Tbl (Tbl (Byte × Bool)) :=
      match Tbl.find l2 line with
      | some bs => Tbl.set l2 line (bs.map fun p => (p.1, p.2.1, false))
      | none => l2
    let s := s.updHomes fun h => { h with l2 := clean (clean h.l2 l0) (l0 + 1) }
    let s := s.updHubs fun h => { h with comp := { h.comp with pinned := h.comp.pinned.filter (·.1 != k) } }
    some (if low ∧ n ≠ 0 then s.postCompress 0 none 1 a else s)

/-- Pin a dirty unit whose write-back found no chunk (R412). -/
def State.pinUnit (s : State) (k : Nat) : State :=
  let a := frameBase + k * 256
  let sl := homeSlice a
  if s.hubs.comp.pinned.any (·.1 = k) then s
  else
    let first := !(s.hubs.comp.pinSlices.contains sl)
    let c := s.hubs.comp
    let slices := if first then c.pinSlices ++ [sl] else c.pinSlices
    let s := s.updHubs fun h => { h with comp := { c with pinned := c.pinned ++ [(k, s.time)], pinSlices := slices } }
    if first then s.postCompress 0 none 2 a else s

/-- Write the dirty bytes of the L2 line at `line` to where they rest; the line stays valid and clean. -/
def State.l2Clean (s : State) (line : Nat) : State :=
  match Tbl.find s.homes.l2 line with
  | none => s
  | some bs =>
    if bs.all (fun p => !p.2.2) then s
    else if line * 128 < hbmEnd then s.hbmClean line
    else
      let k := (line * 128 - frameBase) / 256
      (s.unitWriteback k).getD (s.pinUnit k)

/-- Write the line back and invalidate it. -/
def State.l2Drop (s : State) (line : Nat) : State :=
  let s := s.l2Clean line
  match Tbl.find s.homes.l2 line with
  | some bs => if bs.all (fun p => !p.2.2) then s.updHomes fun h => { h with l2 := Tbl.del h.l2 line } else s
  | none => s

/-- Every dirty line of the L2 is written to DRAM (R114, FENCE.alias). -/
def State.l2Flush (s : State) : State := (Tbl.keys s.homes.l2).foldl State.l2Clean s

/-! ## Room in the L2, and units that come into it (R13, R94, R102) -/

/-- A line that the L2 does not hold finds room in its slice of 65,536 lines: where there is none, a line that is not pinned
leaves; which one is not promised. -/
def State.l2Room (s : State) (line : Nat) : State :=
  let sl := homeSlice (line * 128)
  let mine := (Tbl.keys s.homes.l2).filter fun k => homeSlice (k * 128) = sl
  if (Tbl.find s.homes.l2 line).isSome || mine.length < 65536 then s
  else
    let pinned (k : Nat) : Bool := frameBase ≤ k * 128 && s.hubs.comp.pinned.any (·.1 = (k * 128 - frameBase) / 256)
    let free := mine.filter fun k => !(pinned k)
    let (f, s) := s.drawFree
    match free[f.toNat % free.length]? with
    | some k => s.l2Drop k
    | none => s

/-- A byte of unit `k` stands in the L2: the unit has been expanded there. -/
def State.unitHeld (s : State) (k : Nat) : Bool :=
  let l0 := (frameBase + k * 256) / 128
  !(Tbl.get [] s.homes.l2 l0).isEmpty || !(Tbl.get [] s.homes.l2 (l0 + 1)).isEmpty

/-- An access meets unit `k` at rest: the unit is expanded into the L2, both its lines together. One that fails its check there
has all its bytes poisoned (R102, R408, R412), and one whose header is marked holds poison. -/
def State.expandUnit (s : State) (k : Nat) : State :=
  if s.unitHeld k then s
  else
    let a := frameBase + k * 256
    let (b, bad) := s.unitAtRest k
    let s := if bad && !(s.poisoned a 256) then
        let s := s.poisonRange a 256
        if s.unitFails k then s.postCompress 0 none 4 a else s
      else s
    let s := (s.l2Room (a / 128)).l2Room (a / 128 + 1)
    s.updHomes fun h => { h with l2 := l2Put h.l2 a false b (List.replicate 256 true) }

/-- The units of compressed frame space that an access of `n` bytes meets. -/
def State.expandRange (s : State) (a n : Nat) : State :=
  if n = 0 || !(s.inFrames a) then s
  else
    let k := (a - frameBase) / 256
    ((List.range ((a + n - 1 - frameBase) / 256 + 1 - k)).map (· + k)).foldl State.expandUnit s

/-- A write applied at its home slice in the interleaved view. A write to a real address that Table 4.3 reserves is
dropped. -/
def State.localWrite (s : State) (a : Nat) (l : List Byte) (mask : List Bool) : State :=
  if s.realOk a then
    let s := (linesOf a l.length).foldl State.l2Room ((s.expandRange a l.length).snapOnWrite a l.length)
    s.updHomes fun h => { h with l2 := l2Put h.l2 a true l mask, poison := clearPoison h.poison a mask }
  else s

def State.localStore (s : State) (a : Nat) (l : List Byte) : State :=
  s.localWrite a l (List.replicate l.length true)

/-- Bytes read at the home for a core, and the clean copy that the L2 keeps (R94): alias 0 local reads only. -/
def State.fillL2 (s : State) (l : Loc) (b : List Byte) : State :=
  if l.tgt = 0 ∧ l.alop = 0 ∧ s.realOk l.ra then
    let s := (linesOf l.ra b.length).foldl State.l2Room s
    s.updHomes fun h => { h with l2 := l2Put h.l2 l.ra false b (List.replicate b.length true) }
  else s

/-! ## The BF16 view (R84, R194) -/

/-- The element format of a leaf's MXF under alias 1. -/
def mxfElem (mxf : Nat) : Elem :=
  match mxf with | 0 => .mxf4 | 1 => .mxi8 | 2 => .mxf8e4 | _ => .mxf8e5

/-- bf16 bits of element `i` of the view page whose backing storage starts at `base`. -/
def viewElem (m : List Host.Cell) (base mxf i : Nat) : Nat :=
  let rd (o : Nat) : Nat := (Mem.read m (base + o)).toNat
  if mxf = 0 then
    let b := rd (i / 2)
    Elem.decodeTo .mxf4 bf16Ty (if i % 2 = 0 then b % 16 else b / 16) (rd (16384 + i / 32))
  else (mxfElem mxf).decodeTo bf16Ty (rd i) (rd (32768 + i / 32))

/-- A byte of the view. -/
def viewByte (m : List Host.Cell) (mxf a : Nat) : Byte :=
  let v := a % 65536
  BitVec.ofNat 8 (viewElem m (a - v) mxf (v / 2) >>> (8 * (v % 2)))

/-! ## Locations of every target -/

/-- The memory of a peer chip or a pool, and host memory (R89, R95). -/
def peerKey (tgt chip : Nat) : Nat := tgt * 1024 + chip

/-- Bytes at the home of a location (R107). `mxf` matters under alias 1 only. The memory of a peer has no L2 of its own here:
its views are of the same bytes. -/
def State.readLoc (s : State) (l : Loc) (mxf n : Nat) : List Byte :=
  let under (m : List Host.Cell) : List Byte :=
    if l.alop = 1 then (List.range n).map fun i => viewByte m mxf (l.ra + i)
    else if l.alop = 5 then (List.range n).map fun i => Mem.read m (interleavedOf (l.ra + i))
    else Mem.readN m l.ra n
  if l.tgt = 0 then if l.alop = 1 ∨ l.alop = 5 then under s.homes.dram else s.homeBytes l.ra n
  else if l.tgt = 2 then Mem.readN s.homes.host l.ra n
  else under (Tbl.get [] s.homes.peer (peerKey l.tgt l.chip))

/-- The masked bytes of a write under alias 5 (R98). -/
def linearPut (m : List Host.Cell) (a : Nat) (b : List Byte) (mask : List Bool) : List Host.Cell :=
  ((List.range b.length).zip b).foldl (fun m p =>
    if mask.getD p.1 false then Mem.write m (interleavedOf (a + p.1)) p.2 else m) m

/-- A write applied at the home of a location. -/
def State.writeLoc (s : State) (l : Loc) (b : List Byte) (mask : List Bool) : State :=
  if l.tgt = 0 then
    if l.alop = 5 then
      let s := s.snapOnWrite (interleavedOf l.ra) b.length
      s.updHomes fun h =>
        { h with dram := linearPut h.dram l.ra b mask, poison := clearPoison h.poison (interleavedOf l.ra) mask }
    else s.localWrite l.ra b mask
  else if l.tgt = 2 then s.updHomes fun h => { h with host := Mem.writeMasked h.host l.ra b mask }
  else s.updHomes fun h =>
    let k := peerKey l.tgt l.chip
    let m := Tbl.get [] h.peer k
    { h with peer := Tbl.set h.peer k (if l.alop = 5 then linearPut m l.ra b mask else Mem.writeMasked m l.ra b mask) }

/-- A write under CPOL 2: the L2 keeps no line for it that it did not hold (R87, R310). -/
def State.writePast (s : State) (l : Loc) (b : List Byte) (mask : List Bool) : State :=
  if l.tgt = 0 ∧ l.alop ≠ 5 then
    let new := (linesOf l.ra b.length).filter fun k => (Tbl.find s.homes.l2 k).isNone
    new.foldl State.l2Drop (s.writeLoc l b mask)
  else s.writeLoc l b mask

/-- A write at its home as its page's policy says. -/
def State.writeAt (s : State) (past : Bool) (l : Loc) (b : List Byte) (mask : List Bool) : State :=
  if past then s.writePast l b mask else s.writeLoc l b mask

/-- One element of an alias 2 to 4 store (R83): add, max or min of the element type. -/
def alopElem (op mxf : Nat) (old new : Word) : Word :=
  let a := old.toNat
  let b := new.toNat
  BitVec.ofNat 32 <|
    if mxf = 1 then
      (if op = 2 then fAdd a b else f32Ty.totalMinmax (op = 3) a b)
    else if op = 2 then a + b
    else if mxf = 0 then (if (sext 32 a < sext 32 b) != (op = 3) then a else b)
    else if (a < b) != (op = 3) then a else b

/-- The elements of an alias 2 to 4 store applied to a memory in order. -/
def alopCells (op mxf : Nat) (m : List Host.Cell) (a : Nat) (elems : List Word) : List Host.Cell :=
  match elems with
  | [] => m
  | x :: t =>
    let old : Word := BitVec.ofNat 32 (ofBytes (Mem.readN m a 4))
    alopCells op mxf (Mem.writeN m a (toBytes 4 (alopElem op mxf old x).toNat)) (a + 4) t

/-- An alias 2 to 4 store applied: the home slices write back and drop the alias-0 lines, and each element is updated
at its DRAM bank (R83). -/
def State.alopStore (s : State) (l : Loc) (mxf : Nat) (elems : List Word) : State :=
  if l.tgt = 0 then
    let s := (linesOf l.ra (4 * elems.length)).foldl State.l2Drop (s.snapOnWrite l.ra (4 * elems.length))
    s.updHomes fun h => { h with dram := alopCells l.alop mxf h.dram l.ra elems }
  else
    let k := peerKey l.tgt l.chip
    let m := alopCells l.alop mxf (Tbl.get [] s.homes.peer k) l.ra elems
    s.updHomes fun h => { h with peer := Tbl.set h.peer k m }

/-- Loads under alias 2 to 4: the slice writes back and drops the alias-0 line first (R194). -/
def State.readyLoc (s : State) (l : Loc) : State :=
  if l.tgt = 0 ∧ 2 ≤ l.alop ∧ l.alop ≤ 4 then s.l2Drop (l.ra / 128) else s

/-- The sectors that a read of a location takes are poisoned, in whatever form they came (R398, R409); under alias 1 those of the backing bytes. -/
def State.locPoisoned (s : State) (l : Loc) (mxf n : Nat) : Bool :=
  if l.tgt ≠ 0 then false
  else if l.alop = 5 then s.poisoned (interleavedOf l.ra) n
  else if l.alop = 1 then
    let v := l.ra % 65536
    let base := l.ra - v
    let e := v / 2
    if mxf = 0 then s.poisoned (base + e / 2) (max 1 (n / 4)) || s.poisoned (base + 16384 + e / 32) 1
    else s.poisoned (base + e) (max 1 (n / 2)) || s.poisoned (base + 32768 + e / 32) 1
  else s.poisoned l.ra n

/-! ## Page tables (R86 to R88) -/

/-- The fields of a leaf (Table 4.5). -/
def leafR (x : Dword) : Bool := x.getLsbD 2
def leafW (x : Dword) : Bool := x.getLsbD 3
def leafX (x : Dword) : Bool := x.getLsbD 4
def leafTgt (x : Dword) : Nat := fieldN x 5 2
def leafChip (x : Dword) : Nat := fieldN x 7 10
def leafPa (x : Dword) : Nat := fieldN x 17 36 * 65536
def leafAlop (x : Dword) : Nat := fieldN x 53 4
def leafComp (x : Dword) : Bool := x.getLsbD 57
def leafMxf (x : Dword) : Nat := fieldN x 58 2
def leafCpol (x : Dword) : Nat := fieldN x 60 2
def leafMigr (x : Dword) : Bool := x.getLsbD 62

/-- The pages that a leaf at a level covers, in units of 64 KiB. -/
def levelPages (level : Nat) : Nat := 2 ^ (10 * level)

/-- A leaf refused with RESERVED_PTE (R88). -/
def leafReserved (level : Nat) (x : Dword) : Bool :=
  x.getLsbD 63 || level = 3 || fieldN x 17 36 % levelPages level ≠ 0 || 6 ≤ leafAlop x || leafCpol x = 3
    || (leafMxf x = 3 && 2 ≤ leafAlop x && leafAlop x ≤ 4)
    || ((leafAlop x ≠ 0 || leafComp x) && 2 ≤ leafTgt x)
    || (leafComp x && leafAlop x ≠ 0)
    || (leafMxf x ≠ 0 && (leafAlop x = 0 || leafAlop x = 5))
    || (leafMigr x && (2 ≤ leafTgt x || leafAlop x ≠ 0))
    || (leafChip x ≠ 0 && (leafTgt x = 0 || leafTgt x = 2))

/-- One step of a walk: the next table, a leaf, or the cause of a fault (Table 18.5). -/
inductive WalkStep where
  | table (real : Nat)
  | leaf (x : Dword)
  | cause (c : Nat)
  deriving DecidableEq, Repr

/-- Read the entry for `page` in the table at real address `t` of a level. A table in a reserved or kept range takes
PA_RANGE (R81); so does one in compressed frame space, of which the spec says nothing (DESIGN CHOICE, log entry 51). The
reserved bits of an entry that points to a table are ignored (R2); R88 refuses leaves, and a level-0 entry that is none. -/
def State.walkStep (s : State) (level t page : Nat) : WalkStep :=
  let a := t + 8 * (page / 2 ^ (10 * level) % 1024)
  if keptFrom ≤ a then .cause 5
  else
    let e : Dword := BitVec.ofNat 64 (ofBytes (s.homeBytes a 8))
    if !(e.getLsbD 0) then .cause 1
    else if e.getLsbD 1 then (if leafReserved level e then .cause 3 else .leaf e)
    else if level = 0 then .cause 3
    else .table (fieldN e 13 39 * 8192)

/-- A walk from a level down: the TLB entry, or the cause of the fault. -/
def State.walkFrom (s : State) (asid page : Nat) : Nat → Nat → Except Nat TlbEntry
  | 0, t =>
    match s.walkStep 0 t page with
    | .leaf x => .ok ⟨asid, page, 1, x, 0⟩
    | .cause c => .error c
    | .table _ => .error 3
  | n + 1, t =>
    match s.walkStep (n + 1) t page with
    | .leaf x => .ok ⟨asid, page / levelPages (n + 1) * levelPages (n + 1), levelPages (n + 1), x, 0⟩
    | .cause c => .error c
    | .table t' => s.walkFrom asid page n t'

def State.walk (s : State) (ctx page : Nat) : Except Nat TlbEntry :=
  let c := s.ctx ctx
  s.walkFrom c.asid page 3 c.ptroot

/-- What an access does, for the permission it needs. -/
inductive AccKind where
  | load | store | atomic | fetch
  deriving DecidableEq, Repr

/-- The KIND code of a fault record (Table 18.4) for a lane's access. -/
def AccKind.code : AccKind → Nat
  | .load => 0 | .store => 1 | .atomic => 2 | .fetch => 3

/-- A host bus address inside a GRANT window (R89). -/
def State.granted (s : State) (a n : Nat) : Bool :=
  (List.range 8).any fun i =>
    let b := s.reg (0x80 + 16 * i)
    let l := s.reg (0x88 + 16 * i)
    b ≤ a && a + n ≤ l

/-- A translated access: where it goes, its MXF and its cache policy. -/
structure Phys where
  loc : Loc
  mxf : Nat
  cpol : Nat
  migr : Bool
  /-- the virtual page -/
  vps : List Nat
  deriving DecidableEq, Repr

/-- Checks of a leaf on use (R81 to R83, R88, R89): the location, or the cause of the fault. -/
def State.useLeaf (s : State) (e : TlbEntry) (va n : Nat) (k : AccKind) : Except Nat Phys :=
  let x := e.leaf
  let ra := (leafPa x + (va - e.page * 65536)) % 2 ^ 52
  let al := leafAlop x
  if leafTgt x = 0 ∧ (!(s.realOk ra) ∨ (keptFrom ≤ ra ∧ ra < hbmEnd)) then .error 5
  else if leafTgt x = 0 ∧ leafComp x ≠ s.inFrames ra then .error 4
  else
    let perm := match k with
      | .load => leafR x | .store => leafW x | .atomic => leafR x && leafW x | .fetch => leafX x
    if !perm then .error 2
    else if leafTgt x = 2 ∧ !(s.granted ra n) then .error 2
    else if k = .atomic ∧ al ≠ 0 then .error 6
    else if k = .store ∧ al = 1 then .error 6
    else if k = .store ∧ 2 ≤ al ∧ al ≤ 4 ∧ n < 4 then .error 6
    else .ok ⟨⟨leafTgt x, leafChip x, al, ra⟩, leafMxf x, leafCpol x, leafMigr x, [va / 65536]⟩

/-- Translation without a TLB: an inline walk and the checks of the leaf. -/
def State.translate (s : State) (ctx va n : Nat) (k : AccKind) : Except Nat Phys :=
  match s.walk ctx (va / 65536) with
  | .error c => .error c
  | .ok e => s.useLeaf e va n k

/-- Bytes of the global window read by the device for a context (instruction fetch, descriptors, cards): the cause of
the fault where translation fails. Ranges lie within one page. -/
def State.deviceRead (s : State) (ctx va n : Nat) (k : AccKind) : Except Nat (List Byte) :=
  match s.translate ctx va n k with
  | .error c => .error c
  | .ok p => .ok (s.readLoc p.loc p.mxf n)

/-- Bytes of the global window written by the device for a context. -/
def State.deviceWrite (s : State) (ctx va : Nat) (b : List Byte) : Except Nat State :=
  match s.translate ctx va b.length .store with
  | .error c => .error c
  | .ok p => .ok (s.writeLoc p.loc b (List.replicate b.length true))

end Sys2Proof.Machine
end

