-- ==== Sys2Proof/Machine/Ops.lean ====
section
/-! DEFINITION. The named operations over a wave's registers, its frontier and its traps, and over the memory a core
reaches: L1, cellar, storage banks, forwarding table, TLB (R30 to R32, R78 to R80, R90, R93, R106 to R119, R239,
R240, R274, R372 to R374, R380). -/

namespace Sys2Proof.Machine

/-! ## Registers -/

def Wave.vl (w : Wave) (r : Nat) : Lanes := Tbl.get [] w.v r
def Wave.vGet (w : Wave) (r l : Nat) : Word := (w.vl r).at l
/-- Write the lanes of `m` of a vector register. -/
def Wave.vSet (w : Wave) (r : Nat) (m : LaneMask) (f : Nat → Word) : Wave :=
  { w with v := Tbl.set w.v r (Lanes.of fun l => if inMask m l then f l else w.vGet r l),
           upsets := w.upsets.filter fun u => !(u.vec && u.reg = r && inMask m u.lane) }
def Wave.sGet (w : Wave) (n : Nat) : Word := Tbl.get 0 w.s n
def Wave.sSet (w : Wave) (n : Nat) (x : Word) : Wave :=
  { w with s := Tbl.set w.s n x, upsets := w.upsets.filter fun u => u.vec || u.reg ≠ n }

/-- A p predicate; p7 is true in every lane (R231). -/
def Wave.pGet (w : Wave) (i : Nat) : LaneMask := if i = 7 then allLanes else Tbl.get 0 w.p i
/-- Write the lanes of `m` of a p predicate; a write to p7 is discarded (R235). -/
def Wave.pSet (w : Wave) (i : Nat) (m x : LaneMask) : Wave :=
  if i = 7 then w else { w with p := Tbl.set w.p i ((w.pGet i &&& ~~~ m) ||| (x &&& m)) }
/-- A q predicate; q7 is true. -/
def Wave.qGet (w : Wave) (i : Nat) : Bool := if i = 7 then true else Tbl.get false w.q i
def Wave.qSet (w : Wave) (i : Nat) (b : Bool) : Wave := if i = 7 then w else { w with q := Tbl.set w.q i b }

def Wave.dcGet (w : Wave) (n : Nat) : Nat := Tbl.get 0 w.dc n
def Wave.dcSet (w : Wave) (n x : Nat) : Wave := { w with dc := Tbl.set w.dc n x }

/-- The lanes in which a vector register is empty, and whether a scalar is (R239). -/
def Wave.vEmpty (w : Wave) (r : Nat) : LaneMask := Tbl.get 0 w.vE r
def Wave.sEmpty (w : Wave) (n : Nat) : Bool := Tbl.get false w.sE n
def Wave.markV (w : Wave) (r : Nat) (m : LaneMask) : Wave := { w with vE := Tbl.set w.vE r (w.vEmpty r ||| m) }
def Wave.fillV (w : Wave) (r : Nat) (m : LaneMask) : Wave := { w with vE := Tbl.set w.vE r (w.vEmpty r &&& ~~~ m) }
def Wave.markS (w : Wave) (n : Nat) : Wave := { w with sE := Tbl.set w.sE n true }
def Wave.fillS (w : Wave) (n : Nat) : Wave := { w with sE := Tbl.set w.sE n false }

/-- A 64-bit value of an even scalar pair, and of a vector pair in a lane (R238). -/
def Wave.sPair (w : Wave) (n : Nat) : Dword := pairOf (w.sGet n) (w.sGet (n + 1))
def Wave.vPair (w : Wave) (r l : Nat) : Dword := pairOf (w.vGet r l) (w.vGet (r + 1) l)
def Wave.sPairSet (w : Wave) (n : Nat) (x : Dword) : Wave := (w.sSet n (loHalf x)).sSet (n + 1) (hiHalf x)

/-- An increment of a dependence counter (R240). -/
def State.incDc (s : State) (w n : Nat) : State := s.updWave w fun x => x.dcSet n (x.dcGet n + 1)
/-- A decrement; at zero it leaves zero and is reported (R240, R420). -/
def State.decDc (s : State) (w n : Nat) : State :=
  if (s.wave w).dcGet n = 0 then s.postSched (s.ctxOf w) 0x22 0 0 (s.unitIds (s.wave w).uid)
  else s.updWave w fun x => x.dcSet n (x.dcGet n - 1)
def State.decDc? (s : State) (w : Nat) (n : Option Nat) : State :=
  match n with
  | some k => s.decDc w k
  | none => s

/-! ## The frontier -/

/-- a issues before b (R30 rule 3, R32). -/
def Entry.before (a b : Entry) : Bool :=
  if a.demoted != b.demoted then b.demoted
  else if a.prio ≠ b.prio then b.prio < a.prio
  else a.pc.toNat < b.pc.toNat

/-- The entry stands at its clause header with nothing begun. -/
def Entry.atHead (e : Entry) : Bool := e.slot = 0 && e.code = 0 && e.stage = 0 && e.left.isNone && e.done = 0

/-- An entry that may issue, or whose clause cannot be fetched yet (R400). -/
def Entry.open_ (e : Entry) : Bool := e.stat = .ready || (e.stat = .fault && !e.fetched)

/-- Rule 2 of R30: entries of equal PC merge, held entries of the serial FIFO only with each other (R332). -/
def Entry.merges (a b : Entry) : Bool :=
  a.pc = b.pc && a.atHead && b.atHead && ((a.open_ && b.open_) || (a.stat = .serial && b.stat = .serial))

/-- The merged entry: it waits on the fault of its clause that either waited on. -/
def Entry.merge (a b : Entry) : Entry :=
  { a with mask := a.mask ||| b.mask, demoted := a.demoted && b.demoted, fetched := false, todo := [],
           stat := if b.stat = .fault then .fault else a.stat, mark := max a.mark b.mark }

/-- Add an entry, merging it with the first it merges with. -/
def addEntry (e : Entry) : List Entry → List Entry
  | [] => [e]
  | x :: t => if Entry.merges x e then Entry.merge x e :: t else x :: addEntry e t

/-- Rules 1 to 3 of R30: no empty mask, merged, sorted. -/
def rebuild (l : List Entry) : List Entry :=
  sortBy Entry.before ((l.filter fun e => e.mask ≠ 0).foldl (fun acc e => addEntry e acc) [])

/-- The issuing entry: the first that is not held, waiting or trapped (R30 rule 4). -/
def Wave.issuing (w : Wave) : Option Entry := w.frontier.find? fun e => e.stat = .ready

/-- Replace the issuing entry, or remove it. -/
def setIssuing (l : List Entry) (e : Option Entry) : List Entry :=
  match l with
  | [] => []
  | x :: t => if x.stat = .ready then (match e with | some y => y :: t | none => t) else x :: setIssuing t e

def State.updIssuing (s : State) (w : Nat) (f : Entry → Entry) : State :=
  s.updWave w fun x =>
    match x.issuing with
    | some e => { x with frontier := setIssuing x.frontier (some (f e)) }
    | none => x

/-- The block priority of the clause header at a PC (R30); 0 where it cannot be fetched (notes/assumptions/26.md). -/
def State.prioAt (s : State) (ctx : Nat) (pc : Dword) : Nat :=
  match s.deviceRead ctx pc.toNat 8 .fetch with
  | .ok b => bitsOf (ofBytes b) 29 12
  | .error _ => 0

/-- A fresh entry at a PC. -/
def State.entryAt (s : State) (ctx : Nat) (pc : Dword) (m : LaneMask) : Entry :=
  { pc := pc, mask := m, prio := s.prioAt ctx pc }

/-- The fall-through address H + 8 × (NSLOT + 2) (R224). -/
def fallThrough (pc hdr : Dword) : Dword := pc + BitVec.ofNat 64 (8 * (fieldN hdr 0 4 + 2))

/-- The quadrant's issue slot is given up (R34). -/
def State.freeSlot (s : State) (w : Nat) : State :=
  s.updQuad (coreOf w) (quadOf w) fun q => if q.holder = some w then { q with holder := none } else q

/-- The wave waits and gives up its issue slot (R34). -/
def State.block (s : State) (w : Nat) (x : Wait) : State :=
  let s := match x with
    | .walk _ _ => s.updIssuing w fun e => { e with asked := some (e.asked.getD s.nextId) }
    | _ => s
  (s.updWx w fun y => { y with wait := some x }).freeSlot w

/-! ## Trapped entries and handler mode (R372 to R374, R274) -/

/-- The handler position of the instruction that the issuing entry has come to. -/
def Entry.trap (e : Entry) (m : LaneMask) (code addr seq : Nat) : Entry :=
  { e with mask := m, stat := .trapped code addr, seq := seq, left := none, stage := 0, mark := 0, done := 0,
           cut := 0, asked := none, demoted := false }

/-- The entry is trapped. -/
def Entry.isTrapped (e : Entry) : Bool := match e.stat with | .trapped _ _ => true | _ => false

/-- A trapped entry joins the one of its event that stands at the same instruction (R160). -/
def addTrapped (l : List Entry) (t : Entry) : List Entry :=
  let same (e : Entry) : Bool := e.stat = t.stat && e.seq = t.seq && e.pc = t.pc && e.slot = t.slot && e.code = t.code
  if t.mask = 0 then l
  else if l.any same then l.map fun e => if same e then { e with mask := e.mask ||| t.mask } else e
  else l ++ [t]

/-- The frontier consulted again where no clause has begun; an entry inside its clause goes on first (R30 rule 4). -/
def Wave.regroup (x : Wave) (f : Entry → List Entry) : Wave :=
  match x.issuing with
  | some e =>
    if e.fetched then { x with frontier := e :: rebuild ((setIssuing x.frontier none).flatMap f) }
    else { x with frontier := rebuild (x.frontier.flatMap f) }
  | none => { x with frontier := rebuild (x.frontier.flatMap f) }

def Wave.reorder (x : Wave) (f : Entry → Entry) : Wave := x.regroup fun e => [f e]

/-- A wave leaves the requests for registers of its quadrant. -/
def State.dropGrow (s : State) (w : Nat) : State :=
  s.updQuad (coreOf w) (quadOf w) fun q => { q with grows := q.grows.filter (· ≠ w) }

/-- Lanes whose transaction was aborted leave an entry for their abort targets (R327, R429). -/
def splitGone (gone : Tbl Dword) (mk : Dword → LaneMask → Entry) (e : Entry) : List Entry :=
  let out := gone.filter fun p => inMask e.mask p.1
  let m := maskOfList (out.map (·.1))
  { e with mask := e.mask &&& ~~~ m } :: out.map fun p => mk p.2 (laneBit p.1)

/-- Raise a program trap in lanes of the issuing entry: they leave it and form a trapped entry that holds the clause
header, slot and code index of the instruction (R374, rule 1). Lanes in a transaction have been aborted by the
caller (R429). -/
def State.raise (s : State) (w : Nat) (m : LaneMask) (code addr : Nat) : State :=
  let seq := (s.wx w).trapSeq
  let s := s.updWave w fun x =>
    match x.issuing with
    | none => x
    | some e =>
      let rest := { e with mask := e.mask &&& ~~~ m }
      if m = 0 then x else { x with frontier := setIssuing x.frontier (some rest) ++ [e.trap m code addr seq] }
  s.updWx w fun y => { y with trapSeq := seq + 1 }

/-- TAKING AN EXCEPTION (R374 rule 4, R45, R272): the frontier becomes the interrupted frontier, the trap registers
take the trapped entry's code, lanes, clause header and address, and one entry of all 32 lanes starts at the
context's handler kernel. The system handler is entered the same way with no trapped entry. -/
def State.enterHandler (s : State) (w : Nat) (trapped : Option Entry) (save : Bool) : State :=
  let x := s.wave w
  let ctx := s.ctxOf w
  let others := match trapped with
    | some t => x.frontier.filter fun (e : Entry) => !(e.seq = t.seq && e.stat = t.stat && e.mask = t.mask)
    | none => x.frontier
  let ordered := others.filter (fun e => !e.isTrapped) ++ others.filter Entry.isTrapped
  let h0 : Handler := { system := trapped.isNone, intr := (List.range ordered.length).zip ordered, trapped := trapped, save := save }
  let h : Handler := match trapped with
    | some t =>
      let (code, addr) := match t.stat with | .trapped c a => (c, a) | _ => (0, 0)
      { h0 with trapCode := BitVec.ofNat 32 (code + 256 * t.slot + 4096 * t.code), trapMask := t.mask,
                trapPc := t.pc, trapAddr := BitVec.ofNat 64 addr }
    | none => h0
  let pc : Dword := BitVec.ofNat 64 (s.ctx ctx).handler
  let s' := (s.updWave w fun y => { y with frontier := [s.entryAt ctx pc allLanes] }).dropGrow w
  (s'.updWx w fun y => { y with handler := some { h with barHeld := y.barHeld }, barHeld := none, wait := none }).freeSlot w

/-- Where a trapped entry goes when HRET ends handler mode (R374 rule 5): back to the instruction, past it, or out of
the frontier. Past a fetch trap is the fall-through address (R423), and past a control transfer too. -/
def Entry.resume (s : State) (ctx : Nat) (e : Entry) (mode : Nat) : Option Entry :=
  let e := { e with stat := .ready, seq := 0 }
  match mode with
  | 0 => some (if e.slot = 0 ∧ e.code = 0 then { e with fetched := false, todo := [] } else e)
  | 1 =>
    match e.fetched, e.todo with
    | true, _ :: n :: t => some { e with slot := n.slot, code := n.code, todo := n :: t }
    | _, _ => some (s.entryAt ctx (fallThrough e.pc e.hdr) e.mask)
  | _ => none

/-- Rule 1 of R30 over a list of entries: no mask empty, no lane in two entries, and every lane in one but those that have
exited. -/
def disjointMasks (l : List Entry) (exited : LaneMask) : Bool :=
  let r := l.foldl (fun (a : LaneMask × Bool) e => (a.1 ||| e.mask, a.2 && (a.1 &&& e.mask) = 0 && e.mask ≠ 0)) (0, true)
  r.2 && r.1 ||| exited = allLanes

/-- The frontier that HRET restores: the interrupted positions with the trapped entry's lanes, if rule 1 of R30
holds. -/
def State.leaveHandler (s : State) (w : Nat) (mode : Nat) : Option State :=
  match (s.wx w).handler with
  | none => none
  | some h =>
    let ctx := s.ctxOf w
    let back := match h.trapped with
      | some e => (Entry.resume s ctx e mode).toList
      | none => []
    let all := Tbl.vals h.intr ++ back
    let killed := match h.trapped, mode with | some e, 2 => e.mask | _, _ => 0
    if disjointMasks all ((s.wx w).exited ||| killed) then
      let gone := (s.wx w).txGone
      let moved := Tbl.vals h.intr ++ back.flatMap (splitGone gone (s.entryAt ctx))
      let left := gone.filter fun p => !(back.any fun e => inMask e.mask p.1)
      let s := s.updWave w fun x => { x with frontier := rebuild moved }
      let s := s.updWx w fun y => { y with txGone := left }
      some ((s.updWx w fun y =>
        { y with handler := none, exited := y.exited ||| killed, barHeld := h.barHeld }).freeSlot w)
    else none

/-! ## Translation for the waves of a core (R90) -/

def TlbEntry.covers (e : TlbEntry) (asid page : Nat) : Bool :=
  e.asid = asid && e.page ≤ page && page < e.page + e.pages

/-- What a core knows of a page: a translation, the cause of a failed walk, or nothing yet. -/
inductive Known where
  | entry (e : TlbEntry)
  | cause (c id : Nat)
  | miss
  deriving DecidableEq, Repr

/-- What the core of a wave knows of a page. A failed walk answers only an instruction that asked before the walk ended: a
later access walks again, since a change of an entry that is not valid needs no TLBINV. -/
def State.knows (s : State) (w page : Nat) : Known :=
  let core := coreOf w
  let asid := (s.ctx (s.ctxOf w)).asid
  match (s.core core).tlb.find? (fun e => e.covers asid page) with
  | some e => .entry e
  | none =>
    let d := s.die (dieOfCore core)
    match d.tlb.find? (fun e => e.covers asid page) with
    | some e => .entry e
    | none =>
      let asked := ((s.wave w).issuing.bind (·.asked))
      match d.neg.find? (fun e => e.asid = asid && e.page = page && (asked.map fun k => decide (k ≤ e.id)).getD false) with
      | some e => .cause e.cause e.id
      | none => .miss

/-- Keep a translation in a core's TLB: 128 entries, the newest first. -/
def State.keepTlb (s : State) (core : Nat) (e : TlbEntry) : State :=
  s.updCore core fun c => { c with tlb := (e :: c.tlb.filter (· ≠ e)).take 128 }

/-- Keep a translation in the die's TLB: 512 sets of 8 ways; which way leaves is not promised. -/
def Die.keepTlb (d : Die) (e : TlbEntry) : Die :=
  let mine (x : TlbEntry) : Bool := x.page % 512 = e.page % 512
  { d with tlb := e :: ((d.tlb.filter fun x => mine x && x ≠ e).take 7 ++ d.tlb.filter fun x => !(mine x)) }

/-- Ask the die's walker for a page, unless a walk of it is in flight; up to 32 walks (R90). -/
def State.askWalk (s : State) (core asid ptroot page : Nat) : State :=
  let d := dieOfCore core
  if (s.die d).walks.any (fun k => k.asid = asid && k.page = page) || 32 ≤ (s.die d).walks.length then s
  else
    let (id, s) := s.fresh
    s.updDie d fun x => { x with walks := x.walks ++ [⟨id, asid, page, core, 3, ptroot⟩] }

/-! ## The cellar (R380, R381) -/

/-- The 32-byte sectors of payload of a request. -/
def Req.sectors : Req → Nat
  | .write l b _ => (l.ra % 32 + b.length + 31) / 32
  | .alop _ _ e => (4 * e.length + 31) / 32
  | .atomic _ _ => 1
  | .apply a => ceilDiv a.cells.length 32
  | .join _ _ => 1
  | .preds _ _ _ => 1
  | .spawn _ _ => 1
  | .cont _ => 1

/-- Where a request goes: target, chip and real address. -/
def Req.loc : Req → Option Loc
  | .write l _ _ => some l
  | .alop l _ _ => some l
  | .atomic l _ => some l
  | _ => none

def CoreSt.room (c : CoreSt) (n : Nat) : Bool :=
  c.cellar.length + n ≤ 1024 && (c.cellar.foldl (fun a e => a + e.req.sectors) 0) + 4 * n ≤ 4096

/-- A request enters the cellar (R381); `past` for one whose line the L2 does not keep, `vps` the virtual pages that it used. -/
def State.push (s : State) (core uid ctx lid : Nat) (r : Req) (past : Bool := false) (vps : List Nat := []) (cmd : Nat := 0) : State :=
  let (id, s) := s.fresh
  s.updCore core fun c =>
    { c with cellar := c.cellar ++ [{ id := id, t := s.time, core := core, uid := uid, ctx := ctx, lid := lid,
                                      dep := c.relMark, past := past, vps := vps, cmd := cmd, req := r }] }

/-- Every request of the core that entered the cellar before `mark` has been applied at its home. -/
def State.applied (s : State) (core mark : Nat) : Bool :=
  (s.core core).cellar.all (fun e => mark ≤ e.id) && s.homes.flight.all (fun e => e.core ≠ core || mark ≤ e.id)

/-! ## The L1 (R93) -/

/-- Banks in CACHE mode: every bank but those owned by a unit in another mode. -/
def CoreSt.ways (c : CoreSt) : Nat := 32 - (c.banks.filter fun p => p.2.mode ≠ .cache).length

def lineLoc (l : Loc) : Loc := { l with ra := l.ra / 128 * 128 }

def CoreSt.line (c : CoreSt) (l : Loc) (asid : Nat) : Option L1Line :=
  c.l1.find? fun x => x.loc = lineLoc l && x.asid = asid

/-- The dirty bytes of a line as a write of its 128 bytes. -/
def L1Line.dirtyWrite (x : L1Line) : Req :=
  .write x.loc ((List.range 128).map fun i => ((Tbl.find x.bytes i).map (·.1)).getD 0#8)
    ((List.range 128).map fun i => ((Tbl.find x.bytes i).map (·.2)).getD false)

def L1Line.isDirty (x : L1Line) : Bool := x.bytes.any fun p => p.2.2

def L1Line.cleaned (x : L1Line) : L1Line := { x with bytes := x.bytes.map fun p => (p.1, p.2.1, false), vps := [] }

/-- Send a line's dirty bytes to the cellar; the line becomes clean. -/
def State.writeBack (s : State) (core : Nat) (x : L1Line) : State :=
  if x.isDirty then
    let lid := ((s.unit x.uid).map (·.crec.lid)).getD 0
    (s.push core x.uid x.ctx lid x.dirtyWrite false x.vps).updCore core fun c =>
      { c with l1 := c.l1.map fun y => if y.loc = x.loc && y.asid = x.asid then y.cleaned else y }
  else s

def State.dropLine (s : State) (core : Nat) (x : L1Line) : State :=
  s.updCore core fun c => { c with l1 := c.l1.filter fun y => !(y.loc = x.loc && y.asid = x.asid) }

/-- Make room for a line in its set: where every way holds another line, one leaves; which one is not promised
(R93). -/
def State.evictFor (s : State) (core : Nat) (l : Loc) : State :=
  let c := s.core core
  let set := l.ra / 128 % 512
  let inSet := c.l1.filter fun x => x.loc.ra / 128 % 512 = set
  if inSet.length < c.ways then s
  else
    let (f, s) := s.drawFree
    match inSet[f.toNat % inSet.length]? with
    | some x => (s.writeBack core x).dropLine core x
    | none => s

/-- Put bytes into the L1 line of a location: dirty, or clean where the line does not hold dirty ones (R93). -/
def State.l1Put (s : State) (core asid uid ctx : Nat) (l : Loc) (dirty : Bool) (b : List Byte) (vps : List Nat := []) : State :=
  let off := l.ra % 128
  let put (bs : Tbl (Byte × Bool)) : Tbl (Byte × Bool) :=
    ((List.range b.length).zip b).foldl (fun bs p =>
      let old := match Tbl.find bs (off + p.1) with | some (_, d) => d | none => false
      if dirty || !old then Tbl.set bs (off + p.1) (p.2, dirty) else bs) bs
  match (s.core core).line l asid with
  | some x =>
    let upd (y : L1Line) : L1Line :=
      if y.loc = x.loc && y.asid = x.asid then
        { y with bytes := put y.bytes, uid := if dirty then uid else y.uid, ctx := ctx,
                 vps := y.vps ++ vps.filter fun v => !(y.vps.contains v) } else y
    s.updCore core fun c => { c with l1 := c.l1.map upd }
  | none =>
    let s := s.evictFor core l
    s.updCore core fun c => { c with l1 := c.l1 ++ [⟨lineLoc l, asid, uid, ctx, put [], vps⟩] }

/-- The accesses that allocate in the L1 (R93, R310): policy 0, alias 0, a bank in CACHE mode. -/
def State.allocates (s : State) (core : Nat) (p : Phys) (pol : Nat) : Bool :=
  max pol p.cpol = 0 && p.loc.alop = 0 && 0 < (s.core core).ways

/-- The youngest byte of a location in requests on their way from a core to the home; commit data are none: a load waits for
their apply (R128). -/
def youngestByte (l : Loc) (a : Nat) (es : List CellarEntry) : Option Byte :=
  es.foldl (fun acc e => match e.req with
    | .write k b m =>
      if k.tgt = l.tgt ∧ k.chip = l.chip ∧ k.alop = l.alop ∧ k.ra ≤ a ∧ m.getD (a - k.ra) false then
        some (b.getD (a - k.ra) 0#8) else acc
    | _ => acc) none

/-- A byte as a load of the core reads it (R108, R109): the L1's dirty byte, else the youngest byte that has left the
L1 and is not yet applied, else the L1's clean byte, else the home's. -/
def State.coreByte (s : State) (core asid : Nat) (useL1 : Bool) (l : Loc) (home : Byte) : Byte :=
  let c := s.core core
  let inL1 := match c.line l asid with | some x => Tbl.find x.bytes (l.ra % 128) | none => none
  match inL1 with
  | some (b, true) => b
  | _ =>
    match youngestByte l l.ra (s.homes.flight.filter (fun e => e.core = core) ++ c.cellar) with
    | some b => b
    | none => match inL1, useL1 with
      | some (b, _), true => b
      | _, _ => home

/-- Staged off-package writes of a launch, the youngest last (R392). -/
def State.stagedByte (s : State) (lid : Nat) (l : Loc) : Option Byte :=
  youngestByte l l.ra ((s.homes.staged.filter fun p => p.1 = lid).map (·.2))

/-- Clean bytes that the L1 holds of a location leave it: a read at the home may have returned a later write (R107). -/
def State.dropClean (s : State) (core : Nat) (l : Loc) (n : Nat) : State :=
  let mine (x : L1Line) : Bool :=
    x.loc.tgt = l.tgt && x.loc.chip = l.chip && x.loc.alop = l.alop && x.loc.ra < l.ra + n && l.ra < x.loc.ra + 128
  let cut (x : L1Line) : L1Line :=
    if mine x then { x with bytes := x.bytes.filter fun q => q.2.2 || x.loc.ra + q.1 < l.ra || l.ra + n ≤ x.loc.ra + q.1 } else x
  if (s.core core).l1.any mine then s.updCore core fun c => { c with l1 := (c.l1.map cut).filter fun x => x.bytes ≠ [] } else s

/-- The L1 holds every byte of a range within a line. -/
def CoreSt.holds (c : CoreSt) (l : Loc) (asid n : Nat) : Bool :=
  match c.line l asid with
  | some x => (List.range n).all fun i => (Tbl.find x.bytes (l.ra % 128 + i)).isSome
  | none => false

/-- `n` bytes from the core, and beyond it from staged writes and the home. -/
def State.mergeLoad (s : State) (core asid uid : Nat) (useL1 : Bool) (l : Loc) (home : List Byte) : List Byte :=
  let lid := ((s.unit uid).map (·.crec.lid)).getD 0
  ((List.range home.length).zip home).map fun q =>
    let k := { l with ra := l.ra + q.1 }
    s.coreByte core asid useL1 k ((s.stagedByte lid k).getD q.2)

/-- A read fetches its line, of which the L1 takes the bytes that it does not hold dirty (R93); it takes no poisoned sector. -/
def State.l1Fetch (s : State) (core asid uid ctx : Nat) (l : Loc) (mxf : Nat) (b : List Byte) : State :=
  (List.range 4).foldl (fun s i =>
    let k := { l with ra := l.ra + 32 * i }
    if s.locPoisoned k mxf 32 then s else s.l1Put core asid uid ctx k false ((b.drop (32 * i)).take 32)) s

/-- Load bytes for a unit of a core: from its L1, or from the line as it is fetched, of which the L1 keeps a copy where it allocates. -/
def State.coreLoad (s : State) (core asid uid ctx : Nat) (p : Phys) (pol n : Nat) : List Byte × State :=
  let s := s.readyLoc p.loc
  let alloc := s.allocates core p pol && (s.core core).room 1
  if alloc && !((s.core core).holds p.loc asid n) then
    let l := lineLoc p.loc
    let home := s.readLoc l p.mxf 128
    let b := s.mergeLoad core asid uid false l home
    ((b.drop (p.loc.ra % 128)).take n, (s.fillL2 l home).l1Fetch core asid uid ctx l p.mxf b)
  else
    let home := s.readLoc p.loc p.mxf n
    let b := s.mergeLoad core asid uid alloc p.loc home
    let s := if max pol p.cpol ≤ 1 then s.fillL2 p.loc home else s
    (b, if alloc then s else s.dropClean core p.loc n)

/-- The element words of an alias 2 to 4 store. -/
def elemWords (b : List Byte) : List Word :=
  (List.range (b.length / 4)).map fun i => BitVec.ofNat 32 (leAt b (4 * i) 4)

/-- Store bytes for a unit of a core: into the L1, or through the cellar where the line does not allocate (R109,
R111). A store that goes past the L1 leaves a held line's other bytes and drops its own. -/
def State.coreStore (s : State) (core asid uid ctx : Nat) (p : Phys) (pol : Nat) (b : List Byte) : State :=
  let lid := ((s.unit uid).map (·.crec.lid)).getD 0
  if s.allocates core p pol then s.l1Put core asid uid ctx p.loc true b p.vps
  else if p.loc.alop = 2 ∨ p.loc.alop = 3 ∨ p.loc.alop = 4 then
    s.push core uid ctx lid (.alop p.loc p.mxf (elemWords b)) false p.vps
  else
    let s := match (s.core core).line p.loc asid with
      | some x =>
        let s := s.writeBack core x
        let off := p.loc.ra % 128
        let cut (y : L1Line) : L1Line :=
          if y.loc = x.loc && y.asid = x.asid then
            { y with bytes := y.bytes.filter fun q => q.1 < off || off + b.length ≤ q.1 } else y
        s.updCore core fun c => { c with l1 := c.l1.map cut }
      | none => s
    s.push core uid ctx lid (.write p.loc b (List.replicate b.length true)) (2 ≤ max pol p.cpol) p.vps

/-- A piece that the copy or the engine's command `cmd` writes for a core enters its cellar (R111), behind the core's dirty bytes of the lines that it
meets; the L1 keeps no clean byte of it (R107). -/
def State.emit (s : State) (cmd core uid ctx lid : Nat) (p : Piece) : State :=
  let meets (x : L1Line) : Bool :=
    x.isDirty && x.loc.tgt = p.loc.tgt && x.loc.chip = p.loc.chip && x.loc.alop = p.loc.alop
      && x.loc.ra < p.loc.ra + p.bytes.length && p.loc.ra < x.loc.ra + 128
  let s := ((s.core core).l1.filter meets).foldl (fun s x => s.writeBack core x) s
  let req : Req := if 2 ≤ p.loc.alop && p.loc.alop ≤ 4 then .alop p.loc p.mxf (elemWords p.bytes) else .write p.loc p.bytes p.mask
  (s.dropClean core p.loc p.bytes.length).push core uid ctx lid req p.past [p.vp] cmd

/-- Room for a piece, with what its lines hold dirty. -/
def State.emitRoom (s : State) (core : Nat) : Bool := (s.core core).room 6

/-! ## Releases and acquires (R114 to R118) -/

/-- The clock of a die advances its epoch, and its release frame starts for every destination of the closing epoch
(R117). -/
def State.advanceEpoch (s : State) (d : Nat) : State :=
  let x := s.die d
  let clock := Tbl.set x.clock d ((Tbl.get 0 x.clock d + 1) % 65536)
  let frames := x.sent.map fun t => (t, clock)
  (s.setDie d { x with clock := clock, sent := [] }).updHubs fun h => { h with frames := h.frames ++ frames }

/-- A write tagged 32,768 epochs back is not yet applied: the release waits (R117). -/
def State.epochHeld (s : State) (d : Nat) : Bool :=
  let e := Tbl.get 0 (s.die d).clock d + 1
  s.homes.flight.any fun f => dieOfCore f.core = d && 32768 ≤ (e + 65536 - f.epoch) % 65536

/-- A release of a core whose writes stand in the cellar: the core's mark and the die's epoch advance (R117, R118). -/
def State.markRelease (s : State) (core : Nat) : State :=
  (s.updCore core fun c => { c with relMark := s.nextId }).advanceEpoch (dieOfCore core)

/-- Dirty lines are sent to the cellar as its room allows; whether all were. -/
def State.pushLines (s : State) (core : Nat) : List L1Line → State × Bool
  | [] => (s, true)
  | x :: t => if (s.core core).room 1 then State.pushLines (s.writeBack core x) core t else (s, false)

/-- One pass of a release at CLUSTER scope or wider: dirty lines enter the cellar as room allows; when none is left the
core's mark and the die's epoch advance, the mark is the release's, and the answer is true. -/
def State.releasePass (s : State) (core : Nat) : State × Bool :=
  if s.epochHeld (dieOfCore core) then (s, false)
  else
    let (s, all) := s.pushLines core ((s.core core).l1.filter L1Line.isDirty)
    if all then (s.markRelease core, true) else (s, false)

/-- a is later than b as a 16-bit serial number (R117). -/
def serialLater (a b : Nat) : Bool :=
  let d := (a + 65536 - b) % 65536
  1 ≤ d && d ≤ 32767

def mergeClock (a b : Tbl Nat) : Tbl Nat :=
  b.foldl (fun c p => if serialLater p.2 (Tbl.get 0 c p.1) then Tbl.set c p.1 p.2 else c) a

/-- An acquire at SYSTEM scope merges the components of the ports too (R114). -/
def State.acquirePorts (s : State) (core : Nat) : State :=
  s.updDie (dieOfCore core) fun d => { d with clock := mergeClock d.clock s.hubs.portClock }

/-- A port advances its own component (R117). -/
def State.portAdvance (s : State) (k : Nat) : State :=
  s.updHubs fun h => { h with portClock := Tbl.set h.portClock k ((Tbl.get 0 h.portClock k + 1) % 65536) }

/-- An acquire at CLUSTER scope or wider: announced clocks are merged and the clean bytes of the L1 are invalidated. -/
def State.acquirePass (s : State) (core : Nat) : State :=
  let s := s.updDie (dieOfCore core) fun d => { d with clock := mergeClock d.clock d.inbox, inbox := [] }
  let keep (x : L1Line) : L1Line := { x with bytes := x.bytes.filter fun p => p.2.2 }
  s.updCore core fun c => { c with l1 := (c.l1.map keep).filter L1Line.isDirty }

/-! ## Storage banks (R79, R109, R110) -/

def Bank.readN (b : Bank) (off n : Nat) : List Byte := (List.range n).map fun i => Tbl.get 0#8 b.bytes (off + i)
def Bank.write (b : Bank) (off : Nat) (l : List Byte) : Bank :=
  { b with bytes := ((List.range l.length).zip l).foldl (fun t p => Tbl.set t (off + p.1) p.2) b.bytes,
           bad := b.bad.filter fun i => !(off ≤ i / 8 * 8 && i / 8 * 8 + 8 ≤ off + l.length) }

/-- A completion record with nothing outstanding and nothing to deliver ends: its counter is decremented. -/
def State.reap (s : State) (w id : Nat) : State :=
  match (s.wx w).returns.find? (fun r => r.id = id) with
  | some r =>
    if r.pend = 0 && r.vals.isEmpty && r.held.isEmpty then
      (s.updWx w fun x => { x with returns := x.returns.filter fun r => r.id ≠ id }).decDc? w r.ctr
    else s
  | none => s

/-- A request of a completion record is done. -/
def State.retLess (s : State) (w id : Nat) : State :=
  let less (r : Ret) : Ret := if r.id = id then { r with pend := r.pend - 1 } else r
  (s.updWx w fun x => { x with returns := x.returns.map less }).reap w id

/-- A completion record waits for one more request. -/
def State.retMore (s : State) (w id : Nat) : State :=
  let more (r : Ret) : Ret := if r.id = id then { r with pend := r.pend + 1 } else r
  s.updWx w fun x => { x with returns := x.returns.map more }

/-- A completion record waits for a load that waits at its home. -/
def State.retHold (s : State) (w id : Nat) (h : HeldLoad) : State :=
  let put (r : Ret) : Ret := if r.id = id then { r with held := r.held ++ [h] } else r
  s.updWx w fun x => { x with returns := x.returns.map put }

/-- Values for a completion record to deliver. -/
def State.retVals (s : State) (w id : Nat) (vs : List RVal) : State :=
  let put (r : Ret) : Ret := if r.id = id then { r with vals := r.vals ++ vs } else r
  s.updWx w fun x => { x with returns := x.returns.map put }

/-! ## Operands of rounds that are written (R123) -/

/-- The activation format of a configuration word (Table 15.2). -/
def cfgAfmt (c : Nat) : Nat := c / 512 % 8
/-- Element width of an activation format, bytes of a row, and registers of a group (R341). -/
def actBits (afmt : Nat) : Nat := match afmt with | 0 => 4 | 4 => 16 | _ => 8
def actRow (afmt : Nat) : Nat := 4 * actBits afmt
def actRegs (afmt : Nat) : Nat := actBits afmt

/-- Bytes of a storage chunk: 32 rows, and 32 scale bytes for the MX formats (R342). -/
def chunkSize (afmt : Nat) : Nat := 32 * actRow afmt + (if afmt = 4 then 0 else 32)

/-- A round reads some of `n` bytes of a storage bank of its unit's core. -/
def Round.readsStore (r : Round) (u : WorkUnit) (bank off n : Nat) : Bool :=
  r.ops.any fun o => o.form = 1 && u.phys (o.off / 65536) = bank
    && o.off % 65536 < off + n && off < o.off % 65536 + chunkSize (cfgAfmt r.cfg)

/-- A write to a storage bank: rounds issued jointly that read the bytes, and are not observed, have an operand written. -/
def State.touchStore (s : State) (core bank off n : Nat) : State :=
  let hit (u : WorkUnit) (r : Round) : Bool := r.issued && r.readsStore u bank off n
  let mine (p : Nat × WorkUnit) : Bool := p.2.core = core && p.2.ran.any (hit p.2)
  if s.units.any mine then
    let mark (u : WorkUnit) (r : Round) : Round := if hit u r then { r with touched := true } else r
    { s with units := s.units.map fun p => if mine p then
        (p.1, { p.2 with ran := p.2.ran.map (mark p.2),
                         cvs := p.2.cvs.map fun c => (c.1, { c.2 with rounds := c.2.rounds.map (mark p.2) }) }) else p }
  else s

/-- Several ranges of a bank written. -/
def State.touchSpans (s : State) (core bank : Nat) (spans : List (Nat × Nat)) : State :=
  spans.foldl (fun s p => s.touchStore core bank p.1 p.2) s

/-! ## Regions of BHADs (R349) -/

/-- The wave slot of a wave of the unit. -/
def WorkUnit.widAt (u : WorkUnit) (idx : Nat) : Nat := u.core * 96 + u.slots.getD idx 0

/-- The BHAD of a region has issued and has stages left: its wave holds at it, or was stopped at it part-way. -/
def State.hadOn (s : State) (u : WorkUnit) (h : HadRegion) : Bool :=
  let w := u.widAt h.idx
  let kept := match (s.wx w).handler with | some x => Tbl.vals x.intr | none => []
  ((s.wave w).frontier ++ kept).any fun e =>
    e.fetched && e.pc = h.pc && e.slot = h.slot && (e.stage = 1 || (e.stage = 2 && 0 < e.done))

/-- The wave of a region's BHAD stands in a handler. -/
def State.hadStopped (s : State) (u : WorkUnit) (h : HadRegion) : Bool := (s.wx (u.widAt h.idx)).handler.isSome

def HadRegion.meets (h : HadRegion) (bank off n : Nat) : Bool := h.bank = bank && h.off < off + n && off < h.off + h.len

/-- The BHAD, by its wave's index, that an access of a wave to `n` bytes of a unit bank waits for. A handler does not wait for a BHAD
that was stopped, since it saves the bank (DESIGN CHOICE, log entry 62). -/
def State.hadFor (s : State) (w bank off n : Nat) : Option Nat :=
  (s.unitOf w).bind fun u =>
    (u.hads.find? fun h => h.meets bank off n && s.hadOn u h && !((s.wx w).handler.isSome && s.hadStopped u h)).map (·.idx)

/-- The wave waits no longer for that BHAD. -/
def State.hadOver (s : State) (w idx : Nat) : Bool :=
  match s.unitOf w with
  | none => true
  | some u => !(u.hads.any fun h => h.idx = idx && s.hadOn u h && !((s.wx w).handler.isSome && s.hadStopped u h))

/-- Writes to vector registers of a wave, while it has rounds that it has not observed. -/
def State.noteWrites (s : State) (w : Nat) (regs : List Nat) : State :=
  if (s.wx w).unseen = [] ∨ regs = [] then s
  else
    let n := s.nextId
    s.updWx w fun y => { y with wrote := y.wrote ++ regs.map fun r => (r, n) }

/-- A held store is performed in its bank. -/
def State.performFwd (s : State) (e : FwdEntry) : State :=
  ((s.updBank e.core e.bank fun b => b.write e.off e.bytes).touchStore e.core e.bank e.off e.bytes.length).retLess e.wid e.ret

/-- Perform every store that the quadrant's forwarding table holds, oldest first; completion records lose a request
for each. -/
def State.drainFwd (s : State) (core q : Nat) : State :=
  let es := ((s.core core).quad q).fwd
  let s := if es = [] then s else s.updQuad core q fun x => { x with fwd := [] }
  es.foldl State.performFwd s

/-- The oldest store that the quadrant's forwarding table holds is performed. -/
def State.drainOne (s : State) (core q : Nat) : State :=
  match ((s.core core).quad q).fwd with
  | [] => s
  | e :: rest => (s.updQuad core q fun x => { x with fwd := rest }).performFwd e

/-- A byte of a storage bank as a load of a wave reads it: its own youngest held store, else the bank (R110). -/
def State.storageByte (s : State) (w core bank off : Nat) : Byte :=
  let es := (((s.core core).quad (quadOf w)).fwd.filter fun e =>
    e.wid = w && e.bank = bank && e.off ≤ off && off < e.off + e.bytes.length)
  match es.getLast? with
  | some e => e.bytes.getD (off - e.off) 0#8
  | none => Tbl.get 0#8 ((s.core core).bank bank).bytes off

end Sys2Proof.Machine
end

