-- ==== Sys2Proof/Machine/Reach.lean ====
section
/-! DEFINITION. What stands between a core and a home: locks, scrubs, moves, the ports toward other chips, and armed
errors (R103, R128, R209, R388, R406, R408, R442). -/

namespace Sys2Proof.Machine

/-! ## Ports toward other chips (R209, R211) -/

/-- The ports of PEERROUTE entry `chip`, in ascending order. -/
def State.routePorts (s : State) (chip : Nat) : List Nat :=
  let m := s.reg (0x2000 + chip / 4 * 8) / 2 ^ (16 * (chip % 4))
  (List.range 16).filter fun i => m.testBit i

def State.portState (s : State) (i : Nat) : Nat := (Tbl.get {} s.hubs.ports i : Port).state

/-- The way to a chip: some port UP; none UP but one RECOVERING; or none (R209). -/
inductive Way where
  | up | recovering | none
  deriving DecidableEq, Repr

def State.wayTo (s : State) (chip : Nat) : Way :=
  let ps := s.routePorts chip
  if ps.any (fun i => s.portState i = 2) then .up
  else if ps.any (fun i => s.portState i = 3) then .recovering
  else .none

/-- The way of a location: TARGET 1 and 3 go through the ports. -/
def State.wayOf (s : State) (l : Loc) : Way := if l.tgt = 1 ∨ l.tgt = 3 then s.wayTo l.chip else .up

/-- The ports of a chip's entry that are UP. -/
def State.upPorts (s : State) (chip : Nat) : List Nat := (s.routePorts chip).filter fun i => s.portState i = 2

/-- Writes sent to a chip that it has not acknowledged. -/
def State.farWrites (s : State) (chip : Nat) : Bool :=
  s.homes.flight.any fun e => (e.req.loc.map fun l => decide ((l.tgt = 1 ∨ l.tgt = 3) ∧ l.chip = chip)).getD false

/-- The UP set of a chip's entry has changed, and a write sent by the old choice is not acknowledged: the hub waits (R209). -/
def State.wayChange (s : State) (chip : Nat) : Bool :=
  s.farWrites chip && ((Tbl.find s.hubs.ways chip).getD (s.upPorts chip)) ≠ s.upPorts chip

/-- The choice of ports under which a write to a chip goes. -/
def State.takeWay (s : State) (l : Loc) : State :=
  if l.tgt = 1 ∨ l.tgt = 3 then s.updHubs fun h => { h with ways := Tbl.set h.ways l.chip (s.upPorts l.chip) } else s

/-- The port that a request for an address takes: the (A[51:12] mod k)-th of the k ports that are UP. -/
def State.portFor (s : State) (chip a : Nat) : Option Nat :=
  let ps := s.upPorts chip
  ps[a / 4096 % 2 ^ 40 % max 1 ps.length]?

/-- The port's request channel is stopped by its peer (R210). -/
def State.flowHeld (s : State) (chip a : Nat) : Bool :=
  match s.portFor chip a with
  | some i => (Tbl.get {} s.hubs.ports i : Port).stopped.contains 0
  | none => false

/-- A request to a location waits for its way: a port recovering, a channel stopped, or, toward the host, a takeover of the
scheduler (R438). -/
def State.wayHeld (s : State) (l : Loc) : Bool :=
  if l.tgt = 1 ∨ l.tgt = 3 then s.wayTo l.chip = .recovering || s.flowHeld l.chip l.ra
  else l.tgt = 2 && s.hubs.sched.takeover.isSome

/-- A new request to a location waits: for its way, or for a change of it. -/
def State.wayStops (s : State) (l : Loc) : Bool :=
  s.wayHeld l || ((l.tgt = 1 ∨ l.tgt = 3) && s.wayChange l.chip)

/-- A LINK record of an abandoned request (R406, Table 22.5): the port is the entry's lowest, PEER the chip of the request. -/
def State.postAbandoned (s : State) (chip : Nat) : State :=
  let port := (s.routePorts chip).headD 0
  s.postModule { cls := 7, die := 96 + port / 8, site := 6, index := port, detail := detailOf [(0, toBytes 1 4), (2, toBytes 2 chip)] }

/-! ## Slices and lines -/

/-- The slice quadrant of a line: 0 to 7 within its die (R388). -/
def lineQuadrant (a : Nat) : Nat := homeSlice a % 2 * 4 + a / 128 % 4

/-- A scrub of the quadrant that holds an address is running (R388), or its slice's die relocks (R16). -/
def State.homeStops (s : State) (l : Loc) : Bool :=
  let d := s.die (homeSlice l.ra / 2)
  l.tgt = 0 && ((Tbl.find d.scrubs (lineQuadrant l.ra)).isSome || d.clk.relock.isSome)

/-- A commit or a serial turn of another lane holds the line (R128). -/
def State.lockedBy (s : State) (w lane : Nat) (l : Loc) : Bool :=
  l.tgt = 0 && l.alop = 0 && s.homes.locks.any fun k => k.line = l.ra / 128 && !(k.wid = w && k.lane = lane)

/-- A lock that any holder has. -/
def State.locked (s : State) (l : Loc) : Bool :=
  l.tgt = 0 && l.alop = 0 && s.homes.locks.any fun k => k.line = l.ra / 128

/-- One access of a chip to a page that may migrate (R103). -/
def State.countPage (s : State) (page chip : Nat) : State :=
  let cs := s.hubs.mig.counts
  let n := ((cs.find? fun c => c.1 = page && c.2.1 = chip).map (·.2.2)).getD 0
  let rest := cs.filter fun c => !(c.1 = page && c.2.1 = chip)
  s.updHubs fun h => { h with mig := { h.mig with counts := rest ++ [(page, chip, n + 1)] } }

/-- An access of the module itself. -/
def State.countMig (s : State) (p : Phys) : State :=
  if p.migr && p.loc.tgt = 0 then s.countPage (p.loc.ra / 65536) (s.reg 0x0010) else s

/-! ## Memory errors (R408, R409) -/

/-- An SRAM_ECC or DRAM_ECC record about a local address (Table 20.4). -/
def eccFields (dram : Bool) (a kind : Nat) (poisoned : Bool) : ErrFields :=
  let c := (dramPlace a).1
  { cls := if dram then 5 else 4, die := if dram then 84 + c / 64 else homeSlice a / 2,
    site := if dram then 5 else 2, index := if dram then 0 else lineQuadrant a, sub := if dram then c % 64 else 0,
    addr := a, detail := detailOf [(0, toBytes 1 kind), (1, toBytes 1 (boolN poisoned)), (2, toBytes 1 (boolN (!dram))),
                                   (4, toBytes 4 1)] }

/-- The byte stands in the L2, and whether it is dirty there. -/
def State.inL2 (s : State) (a : Nat) : Option Bool :=
  (Tbl.find (Tbl.get [] s.homes.l2 (a / 128)) (a % 128)).map (·.2)

/-- Clean bytes of a line leave the L2. -/
def State.l2Forget (s : State) (a : Nat) : State :=
  s.updHomes fun h => { h with l2 := Tbl.set h.l2 (a / 128) ((Tbl.get [] h.l2 (a / 128)).filter fun p => p.2.2) }

/-! ## Armed errors (R442, Tables 22.3 and 22.4) -/

def injKind (c : Nat) : Nat := c / 16 % 16

/-- The record of an injected error. -/
def injected (e : ErrFields) : ErrFields := { e with cls := 15, flags := 1 }

/-- The error of a kind, delivered to a read of the sector at `a`. -/
def State.injectKind (s : State) (kind a : Nat) : State :=
  match kind with
  | 1 => s.postModule (injected (eccFields true a 0 false))
  | 2 => (s.poisonRange a 32).postModule (injected (eccFields true a 2 true))
  | 3 => s.postModule (injected (eccFields false a 0 false))
  | 4 =>
    if (List.range 32).any fun i => s.inL2 (a + i) = some true then
      (s.poisonRange a 32).postModule (injected (eccFields false a 2 true))
    else (s.l2Forget a).postModule (injected (eccFields false a 1 false))
  | 5 => s
  | _ =>
    let e : ErrFields :=
      { cls := 8, addr := a, die := homeSlice a / 2, site := 2, index := lineQuadrant a,
        detail := detailOf [(0, toBytes 1 4), (4, toBytes 4 s.freeChunks)] }
    (s.poisonRange (a / 256 * 256) 256).postModule (injected e)

/-- A read of `n` bytes at a real address meets the armed error, if its stage is the one that KIND names: kinds 1 and 2
a read that DRAM serves, 3 and 4 one that the L2 serves, 5 any that a response answers, 6 one of a compressed unit at
rest. -/
def State.inject (s : State) (l : Loc) (n : Nat) : State :=
  let c := s.reg 0x0F08
  let sector := s.reg 0x0F00 % 2 ^ 52 / 32
  let a := sector * 32
  let hit := l.tgt = 0 && l.ra / 32 ≤ sector && sector ≤ (l.ra + n - 1) / 32
  if c % 2 = 0 || !hit then s
  else
    let served : Bool := (s.inL2 (max a l.ra)).isSome && l.alop = 0
    let stage : Bool := match injKind c with
      | 1 => !served && a < hbmEnd | 2 => !served && a < hbmEnd | 3 => served | 4 => served | 5 => true
      | _ => !served && hbmEnd ≤ a
    if stage then
      let s := s.injectKind (injKind c) a
      s.updHubs fun h => { h with bar0 := Tbl.set h.bar0 0x0F08 (BitVec.ofNat 64 (c - 1 + (if bitOf c 1 then 0 else 2))) }
    else s

/-! ## A read on its way to the home -/

/-- What a read of a local location meets before its value is taken: an armed error, a unit of compressed frame space at rest. -/
def State.meet (s : State) (l : Loc) (n : Nat) : State :=
  let s := s.inject l n
  if l.tgt = 0 && l.alop = 0 then s.expandRange l.ra n else s

end Sys2Proof.Machine
end

