-- ==== Sys2Proof/Machine/Txn.lean ====
section
/-! DEFINITION. The transaction log in the storage banks and aborts (R323, R326, R327, R332, Tables 14.5 to 14.7). -/

namespace Sys2Proof.Machine

/-- The storage offset of a lane's part of its wave's log (R323), as unit bank and offset in the bank. -/
def logPlace (u : WorkUnit) (idx lane : Nat) : Nat × Nat :=
  let o := u.sbanks * 65536 - (idx + 1) * u.txlog * 256 + u.txlog * 8 * lane
  (o / 65536, o % 65536)

/-- Bytes of the log: a part never crosses a bank only by luck, so bytes are named one by one. -/
def State.logByte (s : State) (w lane i : Nat) : Byte :=
  match s.unitOf w with
  | none => 0
  | some u =>
    let (b, o) := logPlace u (s.wave w).idx lane
    let a := b * 65536 + o + i
    Tbl.get 0#8 ((s.core u.core).bank (u.phys (a / 65536))).bytes (a % 65536)

def State.logRead (s : State) (w lane i n : Nat) : Nat := ofBytes ((List.range n).map fun k => s.logByte w lane (i + k))

def State.logWrite (s : State) (w lane i n x : Nat) : State :=
  match s.unitOf w with
  | none => s
  | some u =>
    let (b, o) := logPlace u (s.wave w).idx lane
    ((List.range n).zip (toBytes n x)).foldl (fun s p =>
      let a := b * 65536 + o + i + p.1
      s.updBank u.core (u.phys (a / 65536)) fun k => { k with bytes := Tbl.set k.bytes (a % 65536) p.2 }) s

/-- LOGUNITS of the wave (R324). -/
def State.logUnits (s : State) (w : Nat) : Nat := ((s.unitOf w).map (·.txlog)).getD 0

def State.inTx (s : State) (w lane : Nat) : Bool := (Tbl.find (s.wx w).tx lane).isSome

/-- Lanes of a mask that are in a transaction. -/
def State.txLanes (s : State) (w : Nat) (m : LaneMask) : LaneMask := maskOf fun l => inMask m l && s.inTx w l

def fifoKey (w lane : Nat) : Nat := w * 32 + lane

/-- Remove the locks of a lane at their homes (R327, R384). -/
def State.unlock (s : State) (w lane : Nat) : State :=
  s.updHomes fun h => { h with locks := h.locks.filter fun k => !(k.wid = w && k.lane = lane) }

/-- A lane leaves the serial FIFO or gives the token up (R332); the next lane takes it by SERIAL_TOKEN_PASS. -/
def State.leaveFifo (s : State) (w lane : Nat) : State :=
  s.updCtx (s.ctxOf w) fun c =>
    { c with fifo := c.fifo.filter (· ≠ fifoKey w lane),
             token := if c.token = some (fifoKey w lane) then none else c.token }

/-- A counted cause (Table 14.7). -/
def counted (cause : Nat) : Bool := cause ∈ [1, 2, 3, 4, 6, 8]

/-- Abort a lane's transaction (R327). -/
def State.abortLane (s : State) (w lane cause code : Nat) : State :=
  match Tbl.find (s.wx w).tx lane with
  | none => s
  | some t =>
    let aborts := s.logRead w lane 8 1
    let state := s.logRead w lane 9 1
    let aborts' := if cause = 9 then 0 else if counted cause then min 255 (aborts + 1) else aborts
    let serial := if cause = 9 then 0 else state % 2
    let s := s.logWrite w lane 8 1 aborts'
    let s := s.logWrite w lane 9 1 serial
    let s := s.logWrite w lane 10 1 cause
    let s := if cause = 5 then s.logWrite w lane 11 1 code else s
    let s := s.logWrite w lane 12 2 0
    let s := (s.unlock w lane).leaveFifo w lane
    s.updWx w fun y => { y with tx := Tbl.del y.tx lane, txGone := Tbl.set y.txGone lane t.target }

def State.abortLanes (s : State) (w : Nat) (m : LaneMask) (cause code : Nat) : State :=
  (lanesOf m).foldl (fun s l => s.abortLane w l cause code) s

/-- Lanes that aborted outside the clause their entry is executing go to their targets at once (R327). -/
def State.moveGone (s : State) (w : Nat) : State :=
  let ctx := s.ctxOf w
  let gone := (s.wx w).txGone
  let free (e : Entry) : Bool := !e.fetched || e.stat = .serial
  let out (e : Entry) : List Entry := if free e then splitGone gone (s.entryAt ctx) e else [e]
  let left := gone.filter fun p => (s.wave w).frontier.any fun e => !(free e) && inMask e.mask p.1
  if gone = [] then s
  else (s.updWave w fun x => x.regroup out).updWx w fun y => { y with txGone := left }

/-- Traps of lanes of one instruction: a transaction aborts first with UNSUPPORTED (R429); lanes with one code form one
trapped entry, the lowest code first, each with its lowest lane's address (R374). -/
def groupTraps (l : List (Nat × Nat × Nat)) : List (LaneMask × Nat × Nat) :=
  (List.range 21).filterMap fun code =>
    let g := l.filter fun p => p.2.1 = code
    match g with
    | [] => none
    | p :: _ => some (maskOfList (g.map (·.1)), code, p.2.2)

def State.raiseAll (s : State) (w : Nat) (l : List (LaneMask × Nat × Nat)) : State :=
  l.foldl (fun s p =>
    let t := s.txLanes w p.1
    (s.abortLanes w t 6 0).raise w p.1 p.2.1 p.2.2) s

def State.trapLanes (s : State) (w : Nat) (l : List (Nat × Nat × Nat)) : State := s.raiseAll w (groupTraps l)

end Sys2Proof.Machine
end

