-- ==== Sys2Proof/Machine/Units.lean ====
section
/-! DEFINITION. Units on cores: the resources a start takes, the state a wave starts in, the unit queues, and the end
of a unit's run (R25 to R29, R36, R49, R66, R68, R69, R79, R384). -/

namespace Sys2Proof.Machine

/-! ## Records -/

/-- The 32 bytes of a continuation record (Table 2.2). -/
def contOfBytes (b : List Byte) (ctx lid prio t : Nat) : ContRec :=
  { code := leAt b 0 8, frame := leAt b 8 8, join := leAt b 16 8, unit := leAt b 24 4, slot := leAt b 28 2,
    flags := leAt b 30 2, ctx := ctx, lid := lid, prio := prio, t := t }

def ContRec.idemp (r : ContRec) : Bool := bitOf r.flags 0
def ContRec.abortOk (r : ContRec) : Bool := bitOf r.flags 0 && bitOf r.flags 1
def ContRec.mirrorOk (r : ContRec) : Bool := bitOf r.flags 2
/-- The record as it is queued again (R49). -/
def ContRec.again (r : ContRec) (t : Nat) : ContRec := { r with flags := if bitOf r.flags 3 then r.flags else r.flags + 8, t := t }

/-- Flags of a launch card (Table 3.2). -/
def cardIdemp (f : Nat) : Bool := bitOf f 0
def cardSnapshot (f : Nat) : Bool := bitOf f 1
def cardStage (f : Nat) : Bool := bitOf f 2
def cardCoop (f : Nat) : Bool := bitOf f 3
/-- The record flags that a launch card gives (R26). -/
def recFlags (f : Nat) : Nat :=
  boolN (bitOf f 0) + 2 * boolN (bitOf f 5) + 4 * boolN (bitOf f 4)

/-! ## What a core has free (R28) -/

def State.freeSlotsOf (s : State) (core q : Nat) : List Nat :=
  (List.range 24).filter fun k => !(s.wave (core * 96 + q * 24 + k)).live

/-- How many waves of a unit of `n` waves stand in quadrant `q`. -/
def wavesIn (n q : Nat) : Nat := (n + 3 - q) / 4

/-- The launch that is being admitted, and how many of its units have a core reserved (R67). -/
def State.reserver (s : State) : Option Launch := s.queues.coop.bind s.launch
def State.reservedOn (s : State) (core : Nat) : Nat := (s.queues.coopRes.filter fun p => p.2 = core).length
/-- What the reserved units take of a quadrant's wave slots and registers, and of a core's banks. -/
def State.reservedWaves (s : State) (core q : Nat) : Nat :=
  match s.reserver with | some l => s.reservedOn core * wavesIn l.wpu q | none => 0
def State.reservedRegs (s : State) (core q : Nat) : Nat :=
  match s.reserver with | some l => s.reservedOn core * wavesIn l.wpu q * l.vregs | none => 0
def State.reservedBanks (s : State) (core : Nat) : Nat :=
  match s.reserver with | some l => s.reservedOn core * (l.sbanks + l.cbanks) | none => 0

/-- Wave slots of a quadrant that nothing holds. -/
def State.freeCount (s : State) (core q : Nat) : Nat := (s.freeSlotsOf core q).length - s.reservedWaves core q

/-- Wave-registers of a quadrant file that the waves placed there hold. -/
def State.quadHeld (s : State) (core q : Nat) : Nat :=
  s.waves.foldl (fun n p =>
    if p.2.live && coreOf p.1 = core && quadOf p.1 = q then n + p.2.valloc else n) 0
/-- Wave-registers of a quadrant file that waves hold, and reserved units. -/
def State.quadUsed (s : State) (core q : Nat) : Nat := s.quadHeld core q + s.reservedRegs core q

/-- Banks allotted to no unit (R79). -/
def CoreSt.freeBanks (c : CoreSt) : List Nat := (List.range 32).filter fun b => (Tbl.find c.banks b).isNone

/-- The core has what a unit of the launch needs (R28); a quadrant where a REGGROW waits takes no wave (R37). -/
def State.coreFits (s : State) (core : Nat) (l : Launch) : Bool :=
  let c := s.core core
  (List.range 4).all (fun q =>
      let n := wavesIn l.wpu q
      n = 0 || (n ≤ s.freeCount core q && s.quadUsed core q + n * l.vregs ≤ 1024 && (c.quad q).grows = []))
    && l.sbanks + l.cbanks + s.reservedBanks core ≤ c.freeBanks.length

/-- A resident unit of the core uses a dictionary place. -/
def State.placeUsed (s : State) (core i : Nat) : Bool :=
  s.units.any fun p => p.2.core = core && p.2.stat = .resident && p.2.dict = some i

/-- The address of a kernel's head (R227), which names its dictionary. -/
def kernelHead (code : Nat) : Nat := wrapN 64 ((code : Int) - 16)

/-- The place for a launch's dictionary (R228): one that a resident unit uses it in, else the least recently used place
that no resident unit uses. -/
def State.dictPlace (s : State) (core : Nat) (l : Launch) : Option Nat :=
  let ds := (s.core core).dicts
  let here (i : Nat) : Bool :=
    match ds[i]? with | some d => d.ctx = l.ctx && d.addr = kernelHead l.code && s.placeUsed core i | none => false
  match (List.range 4).find? here with
  | some i => some i
  | none =>
    let age (i : Nat) : Nat := match ds[i]? with | some d => d.used + 1 | none => 0
    ((List.range (min 4 (ds.length + 1))).filter fun i => !(s.placeUsed core i)).foldl (fun b i =>
      match b with
      | none => some i
      | some j => if age i < age j then some i else b) none

/-- The core is able (R28): it takes part in work, belongs to the context's owner, and fits. -/
def State.able (s : State) (core : Nat) (l : Launch) : Bool :=
  let c := s.core core
  let d := s.die (dieOfCore core)
  l.dictPage.isNone && !c.retired && c.scrub.isNone && !c.frozen && d.owner = some l.ctx && d.change.isNone && d.clk.relock.isNone
    && !(s.ctx l.ctx).stopped && s.coreFits core l && (s.dictPlace core l).isSome

def State.coreFree (s : State) (core : Nat) : Nat :=
  (List.range 4).foldl (fun n q => n + s.freeCount core q) 0

/-- The cores of a die. -/
def coresOf (d : Nat) : List Nat := (List.range 16).map (d * 16 + ·)

/-! ## Starting a unit (R29, R79) -/

/-- Lines of the L1 beyond the ways that are left leave it (R93). -/
def State.shrinkL1 (s : State) (core : Nat) : State :=
  let c := s.core core
  let dropped := c.l1.filter fun x =>
    let set := x.loc.ra / 128 % 512
    let before := (c.l1.takeWhile fun y => !(y.loc = x.loc && y.asid = x.asid)).filter fun y => y.loc.ra / 128 % 512 = set
    c.ways ≤ before.length
  dropped.foldl (fun s x => (s.writeBack core x).dropLine core x) s

/-- A wave as it starts (R29). -/
def startWave (e : Entry) (uid idx : Nat) (l : Launch) (r : ContRec) : Wave :=
  let s0 : List (Nat × Word) :=
    [(0, BitVec.ofNat 32 r.frame), (1, BitVec.ofNat 32 (r.frame / 2 ^ 32)), (2, BitVec.ofNat 32 l.args),
     (3, BitVec.ofNat 32 (l.args / 2 ^ 32)), (4, BitVec.ofNat 32 r.unit), (5, BitVec.ofNat 32 idx)]
  { live := true, uid := uid, idx := idx, valloc := l.vregs, salloc := l.sregs, s := s0, frontier := [e] }

/-- Waves of `n` put into free slots: wave w in quadrant w mod 4. -/
def State.pickSlots (s : State) (core n : Nat) : List Nat :=
  (List.range n).map fun i => (i % 4) * 24 + (s.freeSlotsOf core (i % 4)).getD (i / 4) 0

/-- The unit starts on a core that fits it, all its waves at once. -/
def State.startUnit (s : State) (core : Nat) (l : Launch) (r : ContRec) (cluster : Option Nat) : Nat × State :=
  let (uid, s) := s.fresh
  let slots := s.pickSlots core l.wpu
  let n := l.sbanks + l.cbanks
  let bm := (s.core core).freeBanks.take n
  let u : WorkUnit :=
    { crec := { r with clu := cluster }, core := core, slots := slots, alive := slots, sbanks := l.sbanks, cbanks := l.cbanks,
      txlog := l.txlog, args := l.args, bankMap := bm, cluster := cluster, grid := l.grid }
  let s := s.setUnit uid u
  let mode (i : Nat) : BMode := if i < l.sbanks then .storage else .compute
  let s := ((List.range n).zip bm).foldl (fun s p =>
    s.updBank core p.2 fun _ => { mode := mode p.1, owner := uid }) s
  let s := s.shrinkL1 core
  let s := s.acquirePass core
  let e := s.entryAt r.ctx (BitVec.ofNat 64 r.code) allLanes
  let t := s.time
  (uid, ((List.range l.wpu).zip slots).foldl (fun s p =>
    let w := core * 96 + p.2
    (s.setWave w (startWave e uid p.1 l r)).setWx w { lastIssue := t }) s)

/-! ## Unit queues (R63, R68) -/

/-- The core of a die with the shortest unit queue, ties to the lowest number, and not retired. -/
def State.shortestQueue (s : State) (d : Nat) : Nat :=
  let cs := (coresOf d).filter fun c => !(s.core c).retired
  cs.foldl (fun best c => if (s.core c).uq.length < (s.core best).uq.length then c else best) (cs.headD (d * 16))

/-- A record put at the tail of its priority, or at the head when it is queued again. -/
def queueRec (r : ContRec) (front : Bool) (q : List ContRec) : List ContRec :=
  let above := q.filter fun x => if front then r.prio < x.prio else r.prio ≤ x.prio
  let below := q.filter fun x => if front then x.prio ≤ r.prio else x.prio < r.prio
  above ++ r :: below

/-- Entries of a queue, priority by priority, beyond the first `k` of each, which are held on chip (Table 3.7). -/
def beyond {α : Type} (k : Nat) (prio : α → Nat) (q : List α) : List α :=
  (List.range 4).flatMap fun p => (q.filter fun x => prio x = p).drop k
/-- A priority of a queue has no room on chip. -/
def headFull {α : Type} (k : Nat) (prio : α → Nat) (q : List α) (p : Nat) : Bool := k ≤ (q.filter fun x => prio x = p).length

/-- Bytes of a context's spill area that its queues take: 64 for a card or a launch share, 32 for a record (R63). -/
def State.spilled (s : State) (n : Nat) : Nat :=
  64 * (beyond 256 QCard.prio (s.ctx n).pq).length
    + s.dies.foldl (fun a p => a + 64 * ((beyond 32 QCard.prio p.2.cardQ).filter fun x => x.ctx = n).length) 0
    + s.cores.foldl (fun a p => a + 32 * ((beyond 64 ContRec.prio p.2.uq).filter fun r => r.ctx = n).length) 0
/-- Bytes more fit: the area is 2^SPILLLOG bytes, 2^24 where SPILLLOG is 0, and its first 128 KiB hold the logs. -/
def State.spillRoom (s : State) (n bytes : Nat) : Bool :=
  s.spilled n + bytes + 131072 ≤ 2 ^ (if (s.ctx n).spilllog = 0 then 24 else (s.ctx n).spilllog)

/-- The poster of a record to a die waits: its queue would spill into a full area. -/
def State.recWaits (s : State) (n d prio : Nat) : Bool :=
  headFull 64 ContRec.prio (s.core (s.shortestQueue d)).uq prio && !(s.spillRoom n 32)
/-- The poster of a card waits: to the package queue, or to a die's card queue. -/
def State.cardWaits (s : State) (n prio : Nat) (d : Option Nat) : Bool :=
  (match d with
    | none => headFull 256 QCard.prio (s.ctx n).pq prio
    | some d => headFull 32 QCard.prio (s.die d).cardQ prio) && !(s.spillRoom n 64)
/-- The poster of a launch's shares waits. -/
def State.sharesWait (s : State) (n prio : Nat) (ds : List Nat) : Bool :=
  let full := ds.filter fun d => headFull 32 QCard.prio (s.die d).cardQ prio
  full ≠ [] && !(s.spillRoom n (64 * full.length))

def State.postRec (s : State) (d : Nat) (r : ContRec) (front : Bool) : State :=
  s.updCore (s.shortestQueue d) fun c => { c with uq := queueRec { r with t := s.time } front c.uq }

/-! ## The end of a unit's run -/

/-- Every lane of a wave leaves the serial FIFO, and its locks go (R384). -/
def State.dropTx (s : State) (w : Nat) : State :=
  (List.range 32).foldl (fun s l => (s.unlock w l).leaveFifo w l) s

/-- A wave slot is emptied. -/
def State.dropWave (s : State) (w : Nat) : State :=
  let c := coreOf w
  let q := quadOf w
  let s := s.updQuad c q fun x =>
    { x with holder := if x.holder = some w then none else x.holder, grows := x.grows.filter (· ≠ w),
             fwd := x.fwd.filter (fun e => e.wid ≠ w) }
  (s.setWave w {}).setWx w {}

/-- The banks of a unit return to CACHE mode; what they hold is discarded (R79). -/
def State.freeUnitBanks (s : State) (u : WorkUnit) : State :=
  s.updCore u.core fun c => { c with banks := c.banks.filter fun p => !(u.bankMap.contains p.1) }

/-- The key of a cluster's barrier among those of its die. -/
def clusterKey (lid clu : Nat) : Nat := lid * 2 ^ 32 + clu

/-- A cluster of a launch has a unit on a die, or a record of one. -/
def State.clusterHeld (s : State) (d lid k : Nat) : Bool :=
  s.units.any (fun p => p.2.crec.lid = lid && p.2.cluster = some k && dieOfCore p.2.core = d && p.2.alive ≠ [])
    || (coresOf d).any (fun c => (s.core c).uq.any fun r => r.lid = lid && r.clu = some k)
    || s.queues.held.any fun r => r.lid = lid && r.clu = some k && r.die = d

/-- A die without the channels and the barriers of the clusters given. -/
def Die.dropChannels (x : Die) (gone : Nat → Nat → Bool) : Die :=
  { x with chUse := x.chUse.filter (fun p => !(gone p.1 p.2)),
           clusterBars := x.clusterBars.filter fun b => !(gone (b.key / 2 ^ 32) (b.key % 2 ^ 32)) }

/-- The cluster-barrier channels of a launch's clusters that have come to their end are given back (R43). -/
def State.tidyChannels (s : State) (d lid : Nat) : State :=
  s.updDie d fun x => x.dropChannels fun l k => l = lid && !(s.clusterHeld d l k)

/-- The cluster-barrier channel of a unit's cluster is given back once no unit of the cluster is left (R43). -/
def State.freeCluster (s : State) (u : WorkUnit) : State :=
  match u.cluster with
  | none => s
  | some _ => s.tidyChannels (dieOfCore u.core) u.crec.lid

/-- The resources of a unit are freed: its waves' slots and its banks. -/
def State.freeUnit (s : State) (uid : Nat) : State :=
  match s.unit uid with
  | none => s
  | some u =>
    let mine := u.wids.filter fun w => (s.wave w).live && (s.wave w).uid = uid
    let s := mine.foldl State.dropWave s
    let s := s.freeUnitBanks u
    s.setUnit uid { u with alive := [] }

/-- The holder that the locks of a prepared commit name until its writes are applied. -/
def applyLock (id : Nat) : Nat := 1000000 + id

/-- Commits whose apply is discarded unlock their lines (R384). -/
def State.unlockApplies (s : State) (es : List CellarEntry) : State :=
  let ids := es.filterMap fun e => match e.req with | .apply a => some (applyLock a.id) | _ => none
  s.updHomes fun h => { h with locks := h.locks.filter fun k => !(ids.contains k.wid) }

/-- The data of a unit still in its core go: cellar entries and dirty bytes of the L1 (R376). -/
def State.discardData (s : State) (uid : Nat) (core : Nat) : State :=
  let s := s.unlockApplies ((s.core core).cellar.filter fun e => e.uid = uid)
  s.updCore core fun c =>
    { c with cellar := c.cellar.filter (fun e => e.uid ≠ uid),
             l1 := c.l1.filter fun x => !(x.uid = uid && x.isDirty) }

/-- The key under which a SAVED wave is kept. -/
def savedKey (uid idx : Nat) : Nat := 1000000 + uid * 32 + idx

/-- The kept waves of a SAVED unit go. -/
def State.dropSaved (s : State) (uid : Nat) : State :=
  let keep (k : Nat) : Bool := k < savedKey uid 0 || savedKey uid 32 ≤ k
  { s with waves := s.waves.filter (fun p => keep p.1), wavex := s.wavex.filter fun p => keep p.1 }

/-- The arrivals of a unit's waves at its cluster's and its launch's barriers are not counted any more: a run that starts again
arrives again (R39, R49). -/
def State.dropArrivals (s : State) (uid : Nat) (u : WorkUnit) : State :=
  let cut (b : Barrier) : Barrier := { b with arrived := b.arrived.filter fun k => k / 32 ≠ uid }
  let s := if u.cluster.isSome then s.updDie (dieOfCore u.core) fun d => { d with clusterBars := d.clusterBars.map cut } else s
  s.updLaunch u.crec.lid fun l => { l with gridBars := l.gridBars.map cut }

/-- The run of a unit ends without completing: waves stop, transactions vanish, copies stop, banks are discarded, and
its data in the core are dropped where `discard`. The unit leaves every table; its record is given back. -/
def State.dropUnit (s : State) (uid : Nat) (discard : Bool) : State :=
  match s.unit uid with
  | none => s
  | some u =>
    let mine := u.wids.filter fun w => (s.wave w).live && (s.wave w).uid = uid
    let s := mine.foldl (fun s w => s.dropTx w) s
    let s := s.freeUnit uid
    let s := if discard then s.discardData uid u.core else s
    let s := s.updCore u.core fun c => { c with copies := c.copies.filter (fun k => k.uid ≠ uid) }
    let s := s.dropArrivals uid u
    let s := { s.dropSaved uid with units := Tbl.del s.units uid }
    s.freeCluster u

/-! ## Cancels (R24, R71) -/

/-- A cancel of a level of the context is in effect. -/
def State.cancelIn (s : State) (ctx level id : Nat) : Bool := (s.ctx ctx).cancels.any fun c => c.level = level && c.id = id

/-- A cancel of the card's graph, phase or job is in effect. -/
def State.cardCancelled (s : State) (c : Card) : Bool :=
  c.cancelled || (c.graph ≠ 0 && s.cancelIn c.ctx 2 c.graph) || (c.phase ≠ 0 && s.cancelIn c.ctx 3 c.phase)
    || s.cancelIn c.ctx 4 c.job

def State.card (s : State) (ctx addr : Nat) : Option Card := s.queues.cards.find? fun c => c.ctx = ctx && c.addr = addr
def State.setCard (s : State) (c : Card) : State :=
  s.updQueues fun q => { q with cards := q.cards.map fun x => if x.ctx = c.ctx && x.addr = c.addr then c else x }
def State.updCard (s : State) (ctx addr : Nat) (f : Card → Card) : State :=
  match s.card ctx addr with
  | some c => s.setCard (f c)
  | none => s

/-- A cancel that encloses a launch's units is in effect (R24). -/
def State.launchCancelled (s : State) (lid : Nat) : Bool :=
  match s.launch lid with
  | none => false
  | some l => l.cancelled || ((s.card l.ctx l.card).map s.cardCancelled).getD false

/-! ## Queued again -/

/-- The barrier channels of a COOP launch are given back and its records held until it is admitted again (R387). -/
def State.readmit (s : State) (lid : Nat) (rs : List ContRec) : State :=
  let s := s.updLaunch lid fun l => { l with grid := [], gridBars := [] }
  s.updQueues fun q =>
    { q with held := q.held ++ rs, gridUse := q.gridUse.filter (· ≠ lid),
             coopQ := if q.coopQ.contains lid then q.coopQ else q.coopQ ++ [lid] }

/-- A unit is discarded and its record queued again (R49, R387, R402); it is held until the pages listed are covered and its queue
has room for it (R63), or, under a cancel, until it is dropped (R69). A unit of a COOP launch takes the launch's other units with
it. -/
def State.requeue (s : State) (uid : Nat) (pages : List Nat) : State :=
  match s.unit uid with
  | none => s
  | some u =>
    let coop := ((s.launch u.crec.lid).map fun l => cardCoop l.flags).getD false
    if coop then
      let unsent (p : Nat × WorkUnit) : Bool := p.1 = uid || (s.core p.2.core).cellar.any fun e => e.uid = p.1
      let us := s.units.filter fun p => p.2.crec.lid = u.crec.lid && (p.2.stat ≠ .completing || unsent p)
      let s' := us.foldl (fun s p => s.dropUnit p.1 true) s
      let rec_ (p : Nat × WorkUnit) : ContRec :=
        { p.2.crec.again s.time with held := if p.1 = uid then pages else [], die := dieOfCore p.2.core }
      s'.readmit u.crec.lid (us.map rec_)
    else
      let s' := s.dropUnit uid true
      let r := u.crec.again s.time
      if pages = [] && !(s'.launchCancelled r.lid) && !(s'.recWaits r.ctx (dieOfCore u.core) r.prio) then
        s'.postRec (dieOfCore u.core) r true
      else s'.updQueues fun q => { q with held := q.held ++ [{ r with held := pages, die := dieOfCore u.core }] }

end Sys2Proof.Machine
end

