-- ==== Sys2Proof/Machine/Recovery.lean ====
section
/-! DEFINITION. The recovery ladder: re-queuing a unit, replaying a launch, stopping a context (R376, R383, R410, R431
to R434), and cancels in effect (R24, R71). -/

namespace Sys2Proof.Machine

/-! ## Replay state (R431, R432) -/

def State.snapPages (s : State) (lid : Nat) : Nat :=
  (s.homes.snaps.filter fun p => p.lid = lid && p.copy.isSome).length

/-- The replay state word (Table 22.2). -/
def State.replayWord (s : State) (l : Launch) : Nat :=
  boolN l.eligible + 2 * boolN (l.reason ≠ 0) + placeN l.replays 2 2 + placeN l.reason 8 8
    + placeN (s.snapPages l.id) 16 24

/-- The device writes the word at each change; a launch without SNAPSHOT has none. -/
def State.writeReplay (s : State) (lid : Nat) : State :=
  match s.launch lid with
  | some l =>
    if l.wordAt = 0 then s
    else match s.deviceWrite l.ctx l.wordAt (toBytes 8 (s.replayWord l)) with
      | .ok t => t
      | .error _ => s
  | none => s

/-- A launch loses its eligibility: its snapshot is freed, and a SCHED record is posted (R432). The record's CODE is not
among those of Table 20.4, and its bytes are zero (notes/assumptions/27.md). -/
def State.loseEligible (s : State) (lid reason : Nat) : State :=
  match s.launch lid with
  | none => s
  | some l =>
    if !l.eligible then s
    else
      let s := s.setLaunch lid { l with eligible := false, reason := reason }
      let s := s.updHomes fun h => { h with snaps := h.snaps.filter fun p => p.lid ≠ lid }
      (s.postSched l.ctx 0 l.card 0).writeReplay lid

/-- A write on its way to a protected page not yet copied: the copy is taken and the replay words tell of it, or, when the
snapshot pool is full, the page's launches lose their eligibility (R431, R432). -/
def State.snapRoom (s : State) (l : Loc) (n : Nat) : State :=
  let a := if l.alop = 5 then interleavedOf l.ra else l.ra
  let hit (p : SnapPage) : Bool := p.copy.isNone && p.page * 65536 < a + n && a < p.page * 65536 + 65536
  let ps := s.homes.snaps.filter hit
  if l.tgt ≠ 0 ∨ ps = [] then s
  else if (s.homes.snaps.filter fun p => p.copy.isSome).length < 61440 then
    ps.foldl (fun s p => s.writeReplay p.lid) (s.snapOnWrite a n)
  else ps.foldl (fun s p => s.loseEligible p.lid 3) s

/-- A write of the device, to a protected page too (R431), that is dropped where it cannot be translated. -/
def State.deviceWrite? (s : State) (ctx va : Nat) (b : List Byte) : State :=
  match s.translate ctx va b.length .store with
  | .ok p => (s.snapRoom p.loc b.length).writeLoc p.loc b (List.replicate b.length true)
  | .error _ => s

/-- The same change to every core and every die. -/
def State.mapParts (s : State) (f : CoreSt → CoreSt) (g : Die → Die) : State :=
  { s with cores := s.cores.map (fun p => (p.1, f p.2)), dies := s.dies.map (fun p => (p.1, g p.2)) }

/-- A launch may be replayed once more: a replay that has begun and not ended counts among the two (R376, R434). -/
def Launch.replayLeft (l : Launch) : Bool := l.replays + boolN l.replaying.isSome < 2

/-- Step 1 and 2 of a replay (R433, R435), begun, or begun again as a further one (R434): units, records, shares and staged writes of the launch go, and so does the
running command of a card. -/
def State.startReplay (s : State) (lid : Nat) : State :=
  let mine (ctx : Nat) (card : Option Nat) : Bool :=
    ((s.launch lid).map fun l => decide (l.ctx = ctx ∧ card = some l.card)).getD false
  let other (c : EngCmd) : Bool := !(mine c.ctx c.card)
  let us := (s.units.filter fun p => p.2.crec.lid = lid).map (·.1)
  let s := us.foldl (fun s u => s.dropUnit u true) s
  let fails (c : EngCmd) : EngCmd := if c.lid = lid && c.card.isNone && c.kind ≠ 5 then { c with role := 3, waiting := false } else c
  let noRec (q : List ContRec) : List ContRec := q.filter fun r => r.lid ≠ lid
  let coreF (c : CoreSt) : CoreSt :=
    { c with uq := noRec c.uq, copies := c.copies.filter fun k => !(mine k.ctx k.card) }
  let dieF (d : Die) : Die :=
    { d.dropChannels (fun l _ => l = lid) with
             slots := d.slots.filter (fun x => x.2.lid ≠ lid), cardQ := d.cardQ.filter (fun x => x.lid ≠ lid),
             merge := (d.merge.filter other).map fails, xcards := d.xcards.filter other, xfly := d.xfly.filter fun x => other x.cmd }
  let s := s.mapParts coreF dieF
  let s := s.updQueues fun q =>
    { q with nmQ := (q.nmQ.filter other).map fails, held := noRec q.held, coopQ := q.coopQ.filter (· ≠ lid), gridUse := q.gridUse.filter (· ≠ lid),
             coop := if q.coop = some lid then none else q.coop, coopRes := if q.coop = some lid then [] else q.coopRes }
  let s := s.updHomes fun h => { h with staged := h.staged.filter fun p => p.1 ≠ lid }
  let mark := s.nextId
  s.updLaunch lid fun l =>
    { l with replaying := some mark, replays := l.replays + boolN l.replaying.isSome, running := false, slot := none, grid := [], gridBars := [], flush := false }

/-! ## The rungs (R376) -/

/-- CONTEXT-FATAL: dispatch stops, and the context's units and queued work are discarded; what its cellars hold leaves
as usual. The records of a launch whose replay had not ended are posted for this rung (R377). -/
def State.stopContext (s : State) (ctx : Nat) : State :=
  let us := (s.units.filter fun p => p.2.crec.ctx = ctx).map (·.1)
  let s := us.foldl (fun s u => s.dropUnit u false) s
  let mineL (lid : Nat) : Bool := ((s.launch lid).map fun l => decide (l.ctx = ctx)).getD false
  let noRec (q : List ContRec) : List ContRec := q.filter fun r => r.ctx ≠ ctx
  let coreF (c : CoreSt) : CoreSt :=
    { c with uq := noRec c.uq, copies := c.copies.filter (fun k => k.ctx ≠ ctx) }
  let dieF (d : Die) : Die :=
    { d.dropChannels (fun l _ => mineL l) with
             slots := d.slots.filter (fun x => x.2.ctx ≠ ctx), cardQ := d.cardQ.filter (fun x => x.ctx ≠ ctx),
             merge := d.merge.filter (fun c => c.ctx ≠ ctx), xcards := d.xcards.filter (fun c => c.ctx ≠ ctx),
             xfly := d.xfly.filter (fun x => x.cmd.ctx ≠ ctx) }
  let s1 := s.mapParts coreF dieF
  let q1 (q : Queues) : Queues :=
    { q with launches := q.launches.filter (fun p => p.2.ctx ≠ ctx), cards := q.cards.filter (fun c => c.ctx ≠ ctx),
             counters := q.counters.filter (fun c => c.ctx ≠ ctx), subs := q.subs.filter (fun b => b.ctx ≠ ctx),
             coopQ := q.coopQ.filter (fun l => !(mineL l)), gridUse := q.gridUse.filter (fun l => !(mineL l)),
             coop := match q.coop with | some l => if mineL l then none else some l | none => none,
             coopRes := match q.coop with | some l => if mineL l then [] else q.coopRes | none => [],
             signals := q.signals.filter (fun h => h.ctx ≠ ctx), nmQ := q.nmQ.filter (fun c => c.ctx ≠ ctx), held := noRec q.held }
  let errs := s.queues.launches.flatMap fun p => if p.2.ctx = ctx && p.2.replaying.isSome then p.2.errs else []
  let s2 := errs.foldl State.escalate (s1.updQueues q1)
  s2.updCtx ctx fun c => { c with stopped := true, tail := none, pq := [], fifo := [], token := none, cancels := [] }

/-- The rung that contains an error of a unit (Table 19.1), and its severity: 1 re-queued, 2 its launch replayed, 3 its
context stopped. -/
def State.containUnit (s : State) (uid : Nat) : Nat × State :=
  match s.unit uid with
  | none => (0, s)
  | some u =>
    if u.crec.idemp then (1, s.requeue uid [])
    else
      match s.launch u.crec.lid with
      | some l =>
        if l.eligible && l.replayLeft then (2, s.startReplay l.id)
        else (3, ((if l.eligible then s.loseEligible l.id 5 else s).stopContext u.crec.ctx).discardData uid u.core)
      | none => (3, (s.stopContext u.crec.ctx).discardData uid u.core)

/-- The launch or context rung, for errors that re-running a unit does not mend (R410, R416). -/
def State.containLaunch (s : State) (ctx lid : Nat) (within : Bool) : Nat × State :=
  match s.launch lid with
  | some l =>
    if l.eligible && within && l.replayLeft then (2, s.startReplay lid)
    else (3, (if l.eligible && !l.replayLeft then s.loseEligible lid 5 else s).stopContext ctx)
  | none => (3, s.stopContext ctx)

/-- The fields of a record about a wave's unit. -/
def State.errOf (s : State) (w : Nat) (cls trap : Nat) (detail : List Byte) : ErrFields :=
  let (slot, unit) := s.unitIds (s.wave w).uid
  { cls := cls, trap := trap, ctx := some (s.ctxOf w), slot := slot, unit := unit, die := dieOf w, site := 1,
    index := coreOf w % 16, sub := quadOf w, pc := (match (s.wave w).issuing with | some e => e.pc.toNat | none => 0), detail := detail }

/-- REPLAYED of the FLAGS byte, for the launch rung. -/
def rungFlags (sev : Nat) : Nat := if sev = 2 then 2 else 0

/-- A record of the rung that contains an error: that of a launch being replayed is posted by the replay (R433). -/
def State.postRung (s : State) (lid : Nat) (e : ErrFields) : State :=
  match s.launch lid with
  | some l =>
    if e.sev = 2 ∧ l.replaying.isSome then s.setLaunch lid { l with errs := l.errs ++ [⟨e.ctx, e.bytes s.time⟩] }
    else s.postErr e
  | none => s.postErr e

/-- A machine trap of a wave's unit (R375): the ladder takes the unit, and its record names the rung. -/
def State.machineTrap (s : State) (w : Nat) (cls trap : Nat) (detail : List Byte) : State :=
  let e := s.errOf w cls trap detail
  let lid := s.lidOf w
  let (sev, s) := s.containUnit (s.wave w).uid
  s.postRung lid { e with sev := sev, flags := rungFlags sev }

/-- A lane consumed poison (R410). `within` says that every poisoned sector lies in the launch's write regions. -/
def State.poisonTrap (s : State) (w : Nat) (addr : Nat) (within : Bool) : State :=
  let e := s.errOf w 6 0x0C []
  let lid := s.lidOf w
  let uid := (s.wave w).uid
  let (sev, s) := s.containLaunch (s.ctxOf w) lid within
  let s := if sev = 3 then s.discardData uid (coreOf w) else s
  s.postRung lid { e with sev := sev, flags := rungFlags sev, addr := addr, detail := detailOf [(1, toBytes 1 sev)] }

/-- A virtual range lies in the write regions of a launch. -/
def State.inRegions (s : State) (lid va n : Nat) : Bool :=
  match s.launch lid with
  | some l => l.wregions.any fun r => r.1 ≤ va && va + n ≤ r.1 + r.2
  | none => false

end Sys2Proof.Machine
end

