-- ==== Sys2Proof/Machine/Scope.lean ====
section
/-! DEFINITION. What an error at a core takes with it: the scope of a strike, retirement, and registers whose check fails
(R382 to R384, R393 to R397, R399). -/

namespace Sys2Proof.Machine

/-! ## The scope of an event at a core -/

/-- A STRIKE record. -/
def strikeFields (die site index td ts det role entries lines : Nat) : ErrFields :=
  { cls := 1, die := die, site := site, index := index, time := some td,
    detail := detailOf [(0, toBytes 8 ts), (8, toBytes 1 det), (9, toBytes 1 role), (10, toBytes 2 entries), (12, toBytes 4 lines)] }

/-- A unit that an event took: its context, launch, and the record's numbers. -/
structure Taken where
  ctx : Nat
  lid : Nat
  slot : Nat
  unit : Nat
  sev : Nat
  deriving DecidableEq, Repr

/-- The units of a scope, each on its rung (Table 19.1). One that an earlier one took with it has that one's rung. -/
def State.takeScope (s : State) (us : List Nat) : State × List Taken :=
  us.foldl (fun a uid =>
    let s0 := a.1
    match s.unit uid with
    | none => a
    | some u =>
      let gone := (s0.unit uid).isNone
      let replay := ((s0.launch u.crec.lid).map fun l => l.replaying.isSome).getD false
      let (sev, s1) :=
        if gone then (if (s0.ctx u.crec.ctx).stopped then 3 else if replay then 2 else 1, s0) else s0.containUnit uid
      (s1, a.2 ++ [⟨u.crec.ctx, u.crec.lid, u.crec.slot, u.crec.unit, sev⟩])) (s, [])

/-- The record of a unit that was taken. -/
def State.postTaken (s : State) (e : ErrFields) (t : Taken) : State :=
  s.postRung t.lid { e with sev := t.sev, ctx := some t.ctx, slot := t.slot, unit := t.unit, flags := e.flags + rungFlags t.sev }

/-- The scope of an event at a core: its units, and those whose data its cellar holds; a unit that has completed, and whose last datum has
left, is sealed (R382). -/
def State.coreScope (s : State) (core : Nat) : List Nat :=
  let here := (s.units.filter fun p => p.2.core = core && p.2.stat = .resident).map (·.1)
  let held := ((s.core core).cellar.map (·.uid)).filter fun u => (s.unit u).isSome
  (here ++ held).eraseDups

/-- A copy is made to fail at its next turn; one whose walk is done fails with its writes still to be awaited. -/
def Copy.broken (k : Copy) : Copy :=
  if k.failed then k else { k with role := 1, waiting := false, failed := k.walked, mark := if k.walked then none else k.mark }

/-- The core's held data are discarded: cellar, L1, forwarding tables; locks of discarded applies open (R382, R384). Copies of
cards stop and fail, but for those whose last write has left. -/
def State.discardCore (s : State) (core : Nat) : State :=
  let s := s.unlockApplies (s.core core).cellar
  let c := s.core core
  let held (k : Copy) : Bool := !k.walked || k.wr ≠ [] || c.cellar.any fun e => e.cmd = k.id
  let fail (k : Copy) : Copy := if k.card.isSome && held k then k.broken else k
  s.updCore core fun c =>
    { c with cellar := [], l1 := [], copies := c.copies.map fail, quads := c.quads.map fun p => (p.1, { p.2 with fwd := [] }) }

/-- Dirty bytes that a core's L1 holds. -/
def CoreSt.dirtyBytes (c : CoreSt) : Nat := c.l1.foldl (fun n x => n + (x.bytes.filter fun p => p.2.2).length) 0

/-- A core is retired: its units are handled as a strike scope, and what it holds is discarded (R394). -/
def State.retireCore (s : State) (core : Nat) (e : ErrFields) : State :=
  let scope := s.coreScope core
  let (s, ts) := (s.discardCore core).takeScope scope
  let s := s.updCore core fun c => { c with retired := true }
  ts.foldl (fun s t => s.postTaken e t) s

/-- A PIPE_CHK or REG_PARITY event of a core: how many stand in the interval that ends now, and whether the core is to be
retired. -/
def State.coreEvent (s : State) (core : Nat) : Nat × Bool × State :=
  let ts := ((s.core core).chkTimes.filter fun t => s.time < t + 1000000000) ++ [s.time]
  (ts.length, 3 ≤ ts.length, s.updCore core fun c => { c with chkTimes := ts })

/-! ## Registers whose check fails (R395, R396) -/

/-- The upsets among the registers that an instruction reads: vector registers in lanes, scalar registers. -/
def Wave.struck (x : Wave) (vs : List (Nat × LaneMask)) (ss : List Nat) : List Upset :=
  x.upsets.filter fun u =>
    if u.vec then vs.any fun p => p.1 = u.reg && inMask p.2 u.lane else ss.contains u.reg

def Wave.mend (x : Wave) (u : Upset) : Wave := { x with upsets := x.upsets.filter (· ≠ u) }

/-- A REG_PARITY record of a wave's register. -/
def State.parityFields (s : State) (w : Nat) (u : Upset) (mirror : Nat) : ErrFields :=
  s.errOf w 3 (if mirror = 0 then 0 else 0x0C)
    (detailOf [(0, toBytes 2 u.reg), (2, toBytes 1 u.lane), (3, toBytes 1 mirror), (4, toBytes 1 (slotOf w))])

/-- A read of a vector register fails parity: repaired from the mirror, or POISON. The core's events are counted (R394). -/
def State.parityRead (s : State) (w : Nat) (u : Upset) : Bool × State :=
  let core := coreOf w
  let mirrored := (s.wx w).mirrored.contains u.reg
  let e := s.parityFields w u (if !mirrored then 1 else if u.both then 2 else 0)
  let uid := (s.wave w).uid
  let (_, retire, s) := s.coreEvent core
  let flags := if retire then 8 else 0
  if mirrored && !u.both then
    let s := (s.updWave w fun x => x.mend u).postErr { e with flags := flags }
    (retire, if retire then s.retireCore core { e with flags := flags } else s)
  else
    let (s, ts) := s.takeScope [uid]
    let s := ts.foldl (fun s t => s.postTaken { e with flags := flags } t) s
    (true, if retire then s.retireCore core { e with flags := flags, trap := 0 } else s)

/-- A read of a scalar register: a single bit is corrected, a double bit raises POISON. -/
def State.scalarRead (s : State) (w : Nat) (u : Upset) : Bool × State :=
  if u.both then
    let e := s.errOf w 4 0x0C (detailOf [(0, toBytes 1 2), (4, toBytes 4 1)])
    let (s, ts) := s.takeScope [(s.wave w).uid]
    (true, ts.foldl (fun s t => s.postTaken e t) s)
  else
    let s := (s.updWave w fun x => x.mend u).postModule
      { cls := 4, die := dieOf w, site := 1, index := coreOf w % 16, sub := quadOf w, detail := detailOf [(4, toBytes 4 1)] }
    (false, s)

/-- The reads of an instruction meet what the registers suffered: whether the wave's run has ended. -/
def State.checkReads (s : State) (w : Nat) (us : List Upset) : Bool × State :=
  us.foldl (fun a u => if a.1 then a else if u.vec then a.2.parityRead w u else a.2.scalarRead w u) (false, s)

end Sys2Proof.Machine
end

