-- ==== Sys2Proof/Machine/Operands.lean ====
section
/-! DEFINITION. Operands (R236 to R239, R280), the checks of decode (R424), and the course of one instruction from
issue to its end (R30, R231, R239, R425, R428). -/

namespace Sys2Proof.Machine

/-! ## Inline constants (R237) -/

/-- How an inline constant is read. -/
inductive CK where
  | int | f32 | f16 | bf16
  /-- a packed integer of element width `w` -/
  | packed (w : Nat)
  deriving DecidableEq, Repr

/-- The f32 constants of Table 11.7. -/
def conF32 : List Nat :=
  [0x3F000000, 0x3F800000, 0x40000000, 0x40800000, 0xBF000000, 0xBF800000, 0xC0000000, 0xC0800000, 0x3E800000,
   0x3E000000, 0x3FB8AA3B, 0x3F317218, 0x437F0000, 0x42FE0000, 0x7F800000, 0xFF800000]

/-- The integer that an integer code stands for, or the bits of an f32 code. -/
def conInt (c : Nat) : Int :=
  if c < 0x40 then c else if c < 0x60 then -((c : Int) - 0x3F) else (conF32.getD (c - 0x60) 0 : Nat)

/-- The f32 that a constant stands for. -/
def conFloat (c : Nat) : Nat := if c < 0x60 then f32Ty.ofInt 0 (conInt c) else conF32.getD (c - 0x60) 0

def conWord (k : CK) (c : Nat) : Word :=
  match k with
  | .int => BitVec.ofInt 32 (conInt c)
  | .f32 => BitVec.ofNat 32 (conFloat c)
  | .f16 => let h := convF f32Ty f16Ty 0 (conFloat c); BitVec.ofNat 32 (h + 65536 * h)
  | .bf16 => let h := convF f32Ty bf16Ty 0 (conFloat c); BitVec.ofNat 32 (h + 65536 * h)
  | .packed w =>
    let x := wrapN w (conInt c)
    BitVec.ofNat 32 (packBits w (List.replicate (32 / w) x))

/-- A constant in a 64-bit integer operand. -/
def conDword (c : Nat) : Dword :=
  if c < 0x60 then BitVec.ofInt 64 (conInt c) else BitVec.ofNat 64 (conF32.getD (c - 0x60) 0)

/-- A source of 32 bits in a lane: a scalar or a constant gives every lane the same value (R238). -/
def Wave.src (x : Wave) (k : CK) (o : Operand) (l : Nat) : Word :=
  match o with
  | .vec n => x.vGet n.toNat l
  | .sca n => x.sGet n
  | .con c => conWord k c
  | .resv _ => 0
  | .zero => 0

/-- A source of 64 bits in a lane. -/
def Wave.src64 (x : Wave) (o : Operand) (l : Nat) : Dword :=
  match o with
  | .vec n => x.vPair n.toNat l
  | .sca n => x.sPair n
  | .con c => conDword c
  | .resv _ => 0
  | .zero => 0

/-- Word `i` of a group of registers that an operand names; a constant is extended as a 64-bit one is (R237). -/
def Wave.srcN (x : Wave) (o : Operand) (i l : Nat) : Word :=
  match o with
  | .vec n => x.vGet (n.toNat + i) l
  | .sca n => x.sGet (n + i)
  | .con c =>
    let d := conDword c
    if i = 0 then loHalf d else if i = 1 then hiHalf d
    else if c < 0x60 ∧ conInt c < 0 then BitVec.allOnes 32 else 0
  | .resv _ => 0
  | .zero => 0

/-- A scalar source. -/
def Wave.sSrc (x : Wave) (k : CK) (o : Operand) : Word := x.src k o 0
def Wave.sSrc64 (x : Wave) (o : Operand) : Dword := x.src64 o 0

/-! ## What an instruction asks of its operands -/

/-- One operand field in use: how many registers it names from a base that must be a multiple of `align`, which kinds
of code it takes, its t bit, and whether it is read or written. -/
structure Use where
  o : Operand
  t : Bool := false
  n : Nat := 1
  align : Nat := 1
  vec : Bool := true
  sca : Bool := true
  con : Bool := true
  zero : Bool := true
  rd : Bool := true
  wr : Bool := false
  /-- every lane of a vector register is read, not only the ACTIVE ones -/
  whole : Bool := false
  /-- read in lanes that other operands name, which the instruction awaits itself -/
  far : Bool := false
  deriving DecidableEq, Repr

/-- Whether the code is one the field takes (R233, R237, R238, R280, R424). -/
def Use.legal (u : Use) : Bool :=
  match u.o with
  | .vec n => u.vec && n.toNat % u.align = 0 && n.toNat + u.n ≤ 256
  | .sca n => u.sca && n % u.align = 0 && n + u.n ≤ 384
  | .con _ => u.con
  | .resv _ => false
  | .zero => u.zero

/-- Whether every register lies below the wave's allotment (R36). -/
def Use.inRange (u : Use) (x : Wave) : Bool :=
  match u.o with
  | .vec n => n.toNat + u.n ≤ x.valloc
  | .sca n => n + u.n ≤ x.salloc
  | _ => true

def Use.vregs (u : Use) : List Nat := match u.o with | .vec n => (List.range u.n).map (· + n.toNat) | _ => []
def Use.sregs (u : Use) : List Nat := match u.o with | .sca n => (List.range u.n).map (· + n) | _ => []

/-- What a decoded instruction asks: its operand fields, whether a reserved field or value is present, and whether it
needs handler mode (R424). -/
structure Sig where
  uses : List Use := []
  bad : Bool := false
  handlerOnly : Bool := false
  notInHandler : Bool := false
  /-- lanes in a transaction abort with UNSUPPORTED, and the instruction acts for the others (R326, R429) -/
  noTx : Bool := false
  deriving DecidableEq, Repr

/-- A vector or scalar or constant source; a scalar-only source; destinations. -/
def uSrc (o : Operand) (t : Bool) (n : Nat := 1) : Use := { o := o, t := t, n := n, align := n }
def uSca (o : Operand) (t : Bool) (n : Nat := 1) : Use := { o := o, t := t, n := n, align := n, vec := false }
def uScaReg (o : Operand) (t : Bool) (n : Nat := 1) : Use :=
  { o := o, t := t, n := n, align := n, vec := false, con := false, zero := false }
def uVecReg (o : Operand) (t : Bool) (n : Nat := 1) : Use :=
  { o := o, t := t, n := n, align := n, sca := false, con := false, zero := false }
def uDstV (o : Operand) (n : Nat := 1) : Use :=
  { o := o, n := n, align := n, sca := false, con := false, rd := false, wr := true }
def uDstS (o : Operand) (n : Nat := 1) : Use :=
  { o := o, n := n, align := n, vec := false, con := false, rd := false, wr := true }
def uDst (o : Operand) (n : Nat := 1) : Use := { o := o, n := n, align := n, con := false, rd := false, wr := true }

/-- The trap of decode, if any (R424, R427). -/
def Sig.trap (g : Sig) (x : Wave) (handler : Bool) : Option Nat :=
  if g.bad || g.uses.any (fun u => !u.legal) then some 0x02
  else if g.uses.any (fun u => !(u.inRange x)) then some 0x03
  else if (g.handlerOnly && !handler) || (g.notInHandler && handler) then some 0x09
  else none

/-- Registers that must be full before the instruction is performed (R239): sources without the t bit, destinations. -/
def Sig.awaits (g : Sig) (act : LaneMask) : List (Nat × LaneMask) × List Nat :=
  let us := g.uses.filter fun u => u.wr || (u.rd && !u.t)
  (us.flatMap fun u => u.vregs.map fun r => (r, if u.whole then allLanes else act), us.flatMap Use.sregs)

/-- Registers that an instruction of a packed slot reads or writes (R230): its t bits do not matter there. -/
def Sig.names (g : Sig) (act : LaneMask) : List (Nat × LaneMask) × List Nat :=
  let us := g.uses.filter fun u => u.wr || u.rd || u.far
  (us.flatMap fun u => u.vregs.map fun r => (r, if u.whole || u.far then allLanes else act), us.flatMap Use.sregs)

def Wave.allFull (x : Wave) (vs : List (Nat × LaneMask)) (ss : List Nat) : Bool :=
  vs.all (fun p => x.vEmpty p.1 &&& p.2 = 0) && ss.all (fun n => !(x.sEmpty n))

/-- Registers that the instruction reads in its ACTIVE lanes. -/
def Sig.reads (g : Sig) (act : LaneMask) : List (Nat × LaneMask) × List Nat :=
  let us := g.uses.filter (·.rd)
  (us.flatMap fun u => u.vregs.map fun r => (r, if u.whole then allLanes else act), us.flatMap Use.sregs)

/-- Vector registers that the instruction writes. -/
def Sig.dests (g : Sig) : List Nat := (g.uses.filter (·.wr)).flatMap Use.vregs

/-- Lanes in which a source with its t bit is empty (R428). -/
def Sig.emptyLanes (g : Sig) (x : Wave) (act : LaneMask) : LaneMask :=
  (g.uses.filter fun u => u.rd && u.t).foldl (fun m u =>
    let v := u.vregs.foldl (fun a r => a ||| x.vEmpty r) 0
    let v := if u.whole ∧ v ≠ 0 then act else v
    let sc := if u.sregs.any x.sEmpty then act else 0
    m ||| ((v ||| sc) &&& act)) 0

/-! ## The end of an instruction and of a clause -/

/-- The clause ends (R30 rule 5): each lane of the issuing entry moves to the PC its last instruction gives it, lanes
of aborted transactions to their abort targets (R327), lanes waiting for the serial token into held entries (R332),
lanes that a failed round traps into their trapped entries (R160), and EXIT removes lanes. -/
def State.endClause (s : State) (w : Nat) (ts : List (LaneMask × Dword)) (exit : LaneMask) (yielded : Bool) : State :=
  match (s.wave w).issuing with
  | none => s
  | some e =>
    let ctx := s.ctxOf w
    let y := s.wx w
    let gone := y.txGone.filter fun p => inMask e.mask p.1
    let goneM := maskOfList (gone.map (·.1)) &&& ~~~ exit
    let due := if y.handler.isSome then 0 else e.mask
    let lateM := y.lateTraps.foldl (fun m p => m ||| (p.1 &&& due)) 0
    let c := s.ctx ctx
    let held := if y.handler.isSome then 0 else maskOf fun l => (c.fifo.contains (fifoKey w l)) && c.token ≠ some (fifoKey w l)
    let dem := yielded || e.hdr.getLsbD 41
    let stay := e.mask &&& ~~~ exit &&& ~~~ goneM &&& ~~~ lateM
    let moved := ts.flatMap fun p =>
      let m := p.1 &&& stay
      [{ s.entryAt ctx p.2 (m &&& ~~~ held) with demoted := dem },
       { s.entryAt ctx p.2 (m &&& held) with stat := .serial }]
    let goneE := gone.filterMap fun p =>
      if inMask exit p.1 then none else some { s.entryAt ctx p.2 (laneBit p.1) with demoted := dem }
    let lateE := y.lateTraps.map fun p => { p.2 with mask := p.1 &&& due &&& ~~~ exit }
    let rest := setIssuing (s.wave w).frontier none
    let s := s.updWave w fun x => { x with frontier := lateE.foldl addTrapped (rebuild (rest ++ moved ++ goneE)) }
    let s := s.updWx w fun y => { y with
      txGone := y.txGone.filter fun p => !(inMask e.mask p.1)
      lateTraps := (y.lateTraps.map fun p => (p.1 &&& ~~~ due, p.2)).filter fun p => p.1 ≠ 0
      exited := y.exited ||| (exit &&& e.mask) }
    s.freeSlot w

/-- The issuing entry is held at a WSYNC, and issues no more: lanes that a failed round traps leave it
(R160, R268; notes/assumptions/41.md). -/
def State.leaveHeld (s : State) (w : Nat) (m : LaneMask) : State :=
  let y := s.wx w
  let out := if y.handler.isSome then 0 else y.lateTraps.foldl (fun k p => k ||| (p.1 &&& m)) 0
  if out = 0 then s
  else
    let lateE := y.lateTraps.map fun p => { p.2 with mask := p.1 &&& out }
    let s := s.updWave w fun x =>
      { x with frontier := lateE.foldl addTrapped (rebuild (x.frontier.map fun e => { e with mask := e.mask &&& ~~~ out })) }
    s.updWx w fun y => { y with
      lateTraps := (y.lateTraps.map fun p => (p.1 &&& ~~~ out, p.2)).filter fun p => p.1 ≠ 0 }

/-- An entry that lost every lane leaves the frontier. -/
def State.settle (s : State) (w : Nat) : State :=
  match (s.wave w).issuing with
  | some e =>
    if e.mask = 0 then
      (s.updWave w fun x => { x with frontier := setIssuing x.frontier none }).freeSlot w
    else s
  | none => s

/-- Every entry of the wave is held at one WSYNC: they merge into one, which goes on past it (R40, R268). -/
def State.syncUp (s : State) (w : Nat) : State :=
  match (s.wave w).frontier with
  | [] => s
  | e :: t =>
    if e.stat = .wsync && t.all (fun x => x.stat = .wsync && x.pc = e.pc && x.slot = e.slot) then
      let m := t.foldl (fun m x => m ||| x.mask) e.mask
      s.updWave w fun x =>
        { x with frontier := [{ e with mask := m, stat := .ready, stage := 1,
                                       demoted := e.demoted && t.all (fun y => y.demoted) }] }
    else s

/-- The instruction at which a wave resumed is complete: PROGIDX is cleared (R47). -/
def State.clearProg (s : State) (w : Nat) : State :=
  if (s.wx w).resumed then
    s.updWx w fun y => { y with progidx := if y.handler.isNone then 0 else y.progidx, resumed := false }
  else s

/-- The entry goes on to its next instruction, or the clause ends. -/
def State.advance (s : State) (w : Nat) (yielded : Bool) : State :=
  match (s.wave w).issuing with
  | none => s
  | some e =>
    let s := s.clearProg w
    match e.todo with
    | _ :: n :: t =>
      s.updIssuing w fun e =>
        { e with todo := n :: t, slot := n.slot, code := n.code, stage := 0, mark := 0, left := none, ret := 0, done := 0, cut := 0, asked := none }
    | _ => s.endClause w [(allLanes, fallThrough e.pc e.hdr)] 0 yielded

/-- What performing an instruction comes to. -/
inductive Eff where
  /-- done: the entry goes on -/
  | next (s : State)
  /-- not yet performed, or not yet complete: the wave waits at this instruction -/
  | wait (x : Wait) (s : State)
  /-- a control transfer: the clause ends, lanes move as given -/
  | jump (s : State) (ts : List (LaneMask × Dword)) (exit : LaneMask)
  /-- the clause ends with its entry demoted if the instruction is its last -/
  | demote (s : State)
  /-- the entry stays at this instruction under a status of its own -/
  | stay (s : State)
  /-- the frontier has been replaced -/
  | gone (s : State)
  deriving DecidableEq, Repr

/-- The state that an effect leaves. -/
def Eff.finish (w : Nat) (e : Eff) : State :=
  match e with
  | .next s => ((s.advance w false).settle w).syncUp w
  | .wait x s => ((s.block w x).settle w).syncUp w
  | .jump s ts exit => (((s.clearProg w).endClause w ts exit false).settle w).syncUp w
  | .demote s => ((s.advance w true).settle w).syncUp w
  | .stay s => ((s.freeSlot w).settle w).syncUp w
  | .gone s => (s.freeSlot w).syncUp w

/-- What the performing of an instruction sees: the wave's number, registers, issuing entry, and ACTIVE lanes. -/
structure At where
  w : Nat
  x : Wave
  e : Entry
  act : LaneMask
  deriving DecidableEq, Repr

/-- The lanes of an entry in which a guard holds (R231): a p predicate lane by lane, a q predicate for all. -/
def Wave.guardP (x : Wave) (g : BitVec 3) (neg : Bool) : LaneMask :=
  if neg then ~~~ (x.pGet g.toNat) else x.pGet g.toNat
def Wave.guardQ (x : Wave) (g : BitVec 3) (neg : Bool) : LaneMask :=
  if x.qGet g.toNat != neg then allLanes else 0

/-- The checks after the guard, before those of the lanes (R422, R430): decode (R424), full registers (R239), EMPTY_READ (R428). `once` is set for an
instruction that is performed once per issue: a failure then takes every ACTIVE lane (R425). An instruction that has
begun is not checked again. -/
def issueChecked (a : At) (g : Sig) (once : Bool) (s : State) (body : At → State → Eff) : Eff :=
  if a.e.stage ≠ 0 || a.e.left.isSome || a.e.done ≠ 0 then body a s
  else
    match g.trap a.x (s.wx a.w).handler.isSome with
    | some code => .next (s.raiseAll a.w [(a.act, code, 0)])
    | none =>
      let (vs, ss) := g.awaits a.act
      if !(a.x.allFull vs ss) then .wait (.full vs ss) s
      else
        let t := if g.noTx then s.txLanes a.w a.act else 0
        let s := if t = 0 then s
          else (s.abortLanes a.w t 6 0).updIssuing a.w fun e => { e with cut := e.cut ||| t }
        let a := { a with act := a.act &&& ~~~ t }
        let em := g.emptyLanes a.x a.act
        let em := if once ∧ em ≠ 0 then a.act else em
        let rest := a.act &&& ~~~ em
        let s := if em = 0 then s else s.raiseAll a.w [(em, 0x04, 0)]
        if rest = 0 then .next s
        else
          let hit := a.x.struck (g.reads rest).1 (g.reads rest).2
          if hit = [] then body { a with act := rest } s
          else
            match s.checkReads a.w hit with
            | (true, s) => .gone s
            | (false, s) => body { a with act := rest, x := hit.foldl Wave.mend a.x } s

/-- ONE INSTRUCTION OF THE CURRENT WAVE: nothing happens where the guard holds in no ACTIVE lane (R231); otherwise the
checks, then the performing. The destinations count as written from then on (R123). -/
def issue (guard : Wave → LaneMask) (g : Sig) (once : Bool) (s : State) (body : At → State → Eff) : Out :=
  let x := s.wave s.cur
  match x.issuing with
  | none => .fault .noWave
  | some e =>
    let act := match e.left with | some m => m | none => e.mask &&& guard x &&& ~~~ e.cut
    if act = 0 then .next ((Eff.next s).finish s.cur)
    else .next (((issueChecked ⟨s.cur, x, e, act⟩ g once s body).finish s.cur).noteWrites s.cur g.dests)

/-- Group 0 and group 1 but BRX: guard on q, performed once. -/
def issueQ (f : BitVec 3) (neg : Bool) (g : Sig) (s : State) (body : At → State → Eff) : Out :=
  issue (fun x => x.guardQ f neg) g true s body

/-- Groups 2 to 6 and BRX: guard on p. -/
def issueP (f : BitVec 3) (neg : Bool) (g : Sig) (s : State) (body : At → State → Eff) : Out :=
  issue (fun x => x.guardP f neg) g false s body

/-- Guard on p, performed once. -/
def issueP1 (f : BitVec 3) (neg : Bool) (g : Sig) (s : State) (body : At → State → Eff) : Out :=
  issue (fun x => x.guardP f neg) g true s body

/-- The stage and mark of the instruction in progress. -/
def State.setStage (s : State) (w st mk : Nat) : State := s.updIssuing w fun e => { e with stage := st, mark := mk }

/-! ## Writing results -/

/-- A scalar result of 32 or 64 bits; 0x3FF discards it. -/
def Wave.putS (x : Wave) (o : Operand) (v : Word) : Wave := match o with | .sca n => x.sSet n v | _ => x
def Wave.putS64 (x : Wave) (o : Operand) (v : Dword) : Wave := match o with | .sca n => x.sPairSet n v | _ => x
/-- A vector result in the lanes of `m`. -/
def Wave.putV (x : Wave) (o : Operand) (m : LaneMask) (f : Nat → Word) : Wave :=
  match o with | .vec n => x.vSet n.toNat m f | _ => x
def Wave.putV64 (x : Wave) (o : Operand) (m : LaneMask) (f : Nat → Dword) : Wave :=
  match o with
  | .vec n => (x.vSet n.toNat m fun l => loHalf (f l)).vSet (n.toNat + 1) m fun l => hiHalf (f l)
  | _ => x
/-- A result of wave scope into a scalar, or into every ACTIVE lane of a vector register. -/
def Wave.putAny (x : Wave) (o : Operand) (m : LaneMask) (v : Word) : Wave :=
  match o with
  | .sca n => x.sSet n v
  | .vec n => x.vSet n.toNat m fun _ => v
  | _ => x

end Sys2Proof.Machine
end

