-- ==== Sys2Proof/Machine/Flags.lean ====
section
/-! DEFINITION. Conditions of compares and the writing of predicates (R235, Table 11.6, R258, R259, R288, R289, R298).
The predicates are the only flags of a wave. -/

namespace Sys2Proof.Machine

/-- The integer conditions of Table 11.6; codes 6 to 15 are reserved. -/
def condInt (cond : Nat) (a b : Int) : Bool :=
  match cond with
  | 0 => a = b
  | 1 => a ≠ b
  | 2 => a < b
  | 3 => a ≤ b
  | 4 => b < a
  | 5 => b ≤ a
  | _ => false

/-- The floating-point conditions of Table 11.6 over the outcome of a comparison, `none` where either operand is a
NaN; codes 8 to 15 are reserved. -/
def condOrd (cond : Nat) (o : Option Ordering) : Bool :=
  match cond with
  | 0 => o = some .eq
  | 1 => o ≠ some .eq
  | 2 => o = some .lt
  | 3 => o = some .lt || o = some .eq
  | 4 => o = some .gt
  | 5 => o = some .gt || o = some .eq
  | 6 => o.isNone
  | 7 => o.isSome
  | _ => false

/-- The logic functions of QLOG and PLOG on masks (R259, R289). -/
def condLogic (cond : Nat) (a b : LaneMask) : LaneMask :=
  match cond with
  | 0 => a &&& b
  | 1 => a ||| b
  | 2 => a ^^^ b
  | _ => a

/-- The combine field (R235): set, and, or. -/
def combineP (m : Nat) (old c : LaneMask) : LaneMask :=
  match m with
  | 0 => c
  | 1 => old &&& c
  | _ => old ||| c

def combineQ (m : Nat) (old c : Bool) : Bool :=
  match m with
  | 0 => c
  | 1 => old && c
  | _ => old || c

/-- pT and then pF take the condition of a format P instruction in the ACTIVE lanes (R235). Where both fields name one
register, the write of pF comes second (notes/assumptions/14.md). -/
def Wave.putCondP (x : Wave) (f : FmtP) (m c : LaneMask) : Wave :=
  let t := f.pT.toNat
  let e := f.pF.toNat
  let y := x.pSet t m (combineP f.combine.toNat (x.pGet t) c)
  y.pSet e m (combineP f.combine.toNat (x.pGet e) (~~~ c))

/-- The same for the q registers, once for the wave. -/
def Wave.putCondQ (x : Wave) (f : FmtP) (c : Bool) : Wave :=
  let t := f.pT.toNat
  let e := f.pF.toNat
  let y := x.qSet t (combineQ f.combine.toNat (x.qGet t) c)
  y.qSet e (combineQ f.combine.toNat (x.qGet e) (!c))

/-- A predicate selector in an operand field (R259): index in [2:0], invert in [3], upper bits zero. -/
def selOf (o : Operand) : Option (Nat × Bool) :=
  match o with
  | .vec n => if n.toNat < 16 then some (n.toNat % 8, 8 ≤ n.toNat) else none
  | _ => none

/-- The lanes of a p selector, and the value of a q selector as all lanes or none. -/
def Wave.selP (x : Wave) (o : Operand) : LaneMask :=
  match selOf o with
  | some (i, inv) => if inv then ~~~ (x.pGet i) else x.pGet i
  | none => 0

def Wave.selQ (x : Wave) (o : Operand) : LaneMask :=
  match selOf o with
  | some (i, inv) => if x.qGet i != inv then allLanes else 0
  | none => 0

/-- What a compare may hold: conditions below `conds`, types below `types`, no reserved combine, [23:22] zero. -/
def badCmp (f : FmtP) (conds types : Nat) : Bool :=
  conds ≤ f.cond.toNat || types ≤ f.ty.toNat || f.combine = 3 || f.mbz ≠ 0

/-- What QLOG and PLOG may hold (R259, R289): four functions, type 0, selectors with zero upper bits; srcB is ignored
by COPY. -/
def badLog (f : FmtP) : Bool :=
  badCmp f 4 1 || (selOf f.srcA).isNone || (f.cond ≠ 3 && (selOf f.srcB).isNone)

end Sys2Proof.Machine
end

