-- ==== Sys2Proof/Machine/Integer.lean ====
section
/-! DEFINITION. Integer arithmetic element by element (R131, R249 to R253, R282 to R285), over 64-bit words whose low
half holds a 32-bit operand. -/

namespace Sys2Proof.Machine

/-- TYPE 6 and 7 take pairs (R247). -/
def wide (ty : Nat) : Bool := 6 ≤ ty

/-- Registers that an operand of the TYPE names. -/
def regsOf (ty : Nat) : Nat := if wide ty then 2 else 1

/-- Element width and count, and signedness, of the integer TYPEs of Table 11.5. -/
def elemW (ty : Nat) : Nat := if ty ≤ 1 then 32 else if ty ≤ 3 then 16 else if ty ≤ 5 then 8 else 64
def elemN (ty : Nat) : Nat := if ty ≤ 1 then 1 else if ty ≤ 3 then 2 else if ty ≤ 5 then 4 else 1
def isSigned (ty : Nat) : Bool := ty % 2 = 0

/-- The constant kind of an operand of the TYPE (R237). -/
def intCK (ty : Nat) : CK := if ty ≤ 1 then .int else if ty ≤ 3 then .packed 16 else if ty ≤ 5 then .packed 8 else .int

/-- Element `i` by value. -/
def elemI (ty : Nat) (x : Dword) (i : Nat) : Int :=
  let w := elemW ty
  if isSigned ty then sext w (x.toNat >>> (w * i)) else bitsOf x.toNat (w * i) w

/-- Clamp to the range of the TYPE (R131). -/
def satI (ty : Nat) (x : Int) : Int :=
  let w := elemW ty
  if isSigned ty then clampI (-(2 ^ (w - 1))) (2 ^ (w - 1) - 1) x else clampI 0 (2 ^ w - 1) x

/-- The bits of an exact element result: clamped or wrapped. -/
def fitI (ty : Nat) (sat : Bool) (x : Int) : Nat := wrapN (elemW ty) (if sat then satI ty x else x)

/-- Pack element results. -/
def packI (ty : Nat) (sat : Bool) (f : Nat → Int) : Dword :=
  BitVec.ofNat 64 (packBits (elemW ty) ((List.range (elemN ty)).map fun i => fitI ty sat (f i)))

/-- An operation on the elements of three words. -/
def mapI (ty : Nat) (sat : Bool) (op : Int → Int → Int → Int) (a b c : Dword) : Dword :=
  packI ty sat fun i => op (elemI ty a i) (elemI ty b i) (elemI ty c i)

def minI (a b : Int) : Int := if b < a then b else a
def maxI (a b : Int) : Int := if a < b then b else a

/-- The high half of a product of 32-bit elements (R249, R282). -/
def mulHigh (w : Nat) (a b : Int) : Int := (a * b) / 2 ^ w

/-- Quotient and remainder (R250). -/
def divQ (ty : Nat) (sat : Bool) (a b : Int) : Int :=
  let w := elemW ty
  if b = 0 then (if isSigned ty then -1 else 2 ^ w - 1)
  else if isSigned ty ∧ a = -(2 ^ (w - 1)) ∧ b = -1 then (if sat then 2 ^ (w - 1) - 1 else -(2 ^ (w - 1)))
  else a.tdiv b
def divR (a b : Int) : Int := if b = 0 then a else a.tmod b

/-- Shifts of a w-bit element by k (R251, R284). -/
def shlN (w x k : Nat) : Nat := if w ≤ k then 0 else x * 2 ^ k % 2 ^ w
def shrN (w x k : Nat) : Nat := if w ≤ k then 0 else x % 2 ^ w / 2 ^ k
def sraN (w x k : Nat) : Nat := wrapN w (sext w x / 2 ^ (min k (w - 1)))

/-- The kinds of shift. -/
inductive ShK where
  | left | right | arith
  deriving DecidableEq, Repr

def ShK.apply (s : ShK) (w x k : Nat) : Nat :=
  match s with
  | .left => shlN w x k
  | .right => shrN w x k
  | .arith => sraN w x k

/-- Each element of `x` shifted by its own amount. -/
def shiftI (k : ShK) (ty : Nat) (x n : Dword) : Dword :=
  let w := elemW ty
  BitVec.ofNat 64 (packBits w ((List.range (elemN ty)).map fun i =>
    k.apply w (bitsOf x.toNat (w * i) w) (bitsOf n.toNat (w * i) w)))

/-- Offset and width of a field descriptor, clamped (R252). -/
def fieldOW (w : Nat) (d : Dword) : Nat × Nat :=
  let o := min (fieldN d 0 8) w
  (o, min (fieldN d 8 8) (w - o))

/-- Extract (R252). -/
def bfe (ty : Nat) (a d : Dword) : Dword :=
  let w := elemW ty
  let (o, n) := fieldOW w d
  let x := bitsOf a.toNat o n
  BitVec.ofNat 64 (if n = 0 then 0 else if isSigned ty then wrapN w (sext n x) else x)

/-- Insert (R252). -/
def bfi (ty : Nat) (a d c : Dword) : Dword :=
  let w := elemW ty
  let (o, n) := fieldOW w d
  let y := c.toNat % 2 ^ w
  BitVec.ofNat 64 (y - bitsOf y o n * 2 ^ o + a.toNat % 2 ^ n * 2 ^ o)

/-- Bit counts (R253). -/
def popc (ty : Nat) (a : Dword) : Word := BitVec.ofNat 32 (popN (elemW ty) (a.toNat % 2 ^ elemW ty))
def clz (ty : Nat) (a : Dword) : Word :=
  let w := elemW ty
  BitVec.ofNat 32 (w - bitLenN w (a.toNat % 2 ^ w))

/-- Sources and results at the width of a TYPE. -/
def Wave.srcT (x : Wave) (ty : Nat) (o : Operand) (l : Nat) : Dword :=
  if wide ty then x.src64 o l else (x.src (intCK ty) o l).setWidth 64
def Wave.putST (x : Wave) (ty : Nat) (o : Operand) (v : Dword) : Wave :=
  if wide ty then x.putS64 o v else x.putS o (loHalf v)
def Wave.putVT (x : Wave) (ty : Nat) (o : Operand) (m : LaneMask) (f : Nat → Dword) : Wave :=
  if wide ty then x.putV64 o m f else x.putV o m fun l => loHalf (f l)

/-- What the default mod7 layout may hold (Table 11.5): whether the TYPE is listed, and whether ROUND and SAT are
named. -/
def badMod (f : FmtA) (types : List Nat) (round sat : Bool) : Bool :=
  !(types.contains f.type) || (!round && f.round ≠ 0) || (!sat && f.sat) || f.mod7.getLsbD 6

/-- TYPEs of Tables 12.1 and 13.1. -/
def tyAll : List Nat := [0, 1, 2, 3, 4, 5, 6, 7]
def tyPlain : List Nat := [0, 1, 6, 7]
def tyWord : List Nat := [0, 1]

/-- The type code of an immediate or compare form: 32-bit or pair, signed or not. -/
def ty64 (b : Bool) : Nat := if b then 6 else 0

end Sys2Proof.Machine
end

