-- ==== Sys2Proof/Machine/Barrier.lean ====
section
/-! DEFINITION. Block, cluster and grid barriers (R39 to R43): membership, arrival, phases. -/

namespace Sys2Proof.Machine

/-- The units whose waves are members of the barrier that a name of BAR means to a unit (R39). -/
def State.barUnits (s : State) (u : Nat) (w : WorkUnit) (name : Nat) : List (Nat × WorkUnit) :=
  if name < 16 then [(u, w)]
  else
    s.units.filter fun p =>
      p.2.crec.lid = w.crec.lid &&
        (if name = 16 then p.2.cluster = w.cluster && p.2.cluster.isSome && dieOfCore p.2.core = dieOfCore w.core
         else true)

/-- Units of a cluster that are queued again, and units of the launch for a grid barrier (R49): their waves are members too. -/
def State.barQueued (s : State) (w : WorkUnit) (name : Nat) : Nat :=
  if name < 16 then 0
  else
    let d := dieOfCore w.core
    let mine (r : ContRec) : Bool := r.lid = w.crec.lid && (name ≠ 16 || (r.clu = w.cluster && r.clu.isSome))
    (s.cores.foldl (fun n p => if name ≠ 16 ∨ dieOfCore p.1 = d then n + (p.2.uq.filter mine).length else n) 0)
      + (s.queues.held.filter fun r => mine r && (name ≠ 16 || r.die = d)).length

/-- How many waves have not completed. -/
def State.barMembers (s : State) (u : Nat) (w : WorkUnit) (name : Nat) : Nat :=
  (s.barUnits u w name).foldl (fun n p => n + p.2.alive.length) 0
    + s.barQueued w name * ((s.launch w.crec.lid).map (·.wpu)).getD 1

def barFind (l : List Barrier) (key : Nat) : Barrier := (l.find? fun b => b.key = key).getD ⟨key, [], 0⟩
def barPut (l : List Barrier) (b : Barrier) : List Barrier := b :: l.filter fun x => x.key ≠ b.key

/-- The barrier that a name means to a unit, if it is allotted (R43). -/
def State.barOf (s : State) (w : WorkUnit) (name : Nat) : Option Barrier :=
  if name < 16 then some (barFind w.bars name)
  else if name = 16 then w.cluster.map fun k => barFind (s.die (dieOfCore w.core)).clusterBars (clusterKey w.crec.lid k)
  else if 32 ≤ name ∧ name < 36 then
    match s.launch w.crec.lid with
    | some l => if name - 32 < l.grid.length then some (barFind l.gridBars name) else none
    | none => none
  else none

def State.setBar (s : State) (u : Nat) (name : Nat) (b : Barrier) : State :=
  match s.unit u with
  | none => s
  | some w =>
    if name < 16 then s.setUnit u { w with bars := barPut w.bars b }
    else if name = 16 then
      s.updDie (dieOfCore w.core) fun d => { d with clusterBars := barPut d.clusterBars b }
    else s.updLaunch w.crec.lid fun l => { l with gridBars := barPut l.gridBars b }

/-- The number of a member: its unit and its index in it. -/
def memberKey (u idx : Nat) : Nat := u * 32 + idx

/-- A barrier all of whose members have arrived completes its phase (R39). -/
def State.barCheck (s : State) (u name : Nat) : State :=
  match s.unit u with
  | none => s
  | some w =>
    match s.barOf w name with
    | none => s
    | some b =>
      if b.arrived ≠ [] ∧ s.barMembers u w name ≤ b.arrived.length then
        s.setBar u name { b with arrived := [], phase := b.phase + 1 }
      else s

/-- The wave arrives (R41). -/
def State.arrive (s : State) (w name : Nat) (b : Barrier) : State :=
  let x := s.wave w
  let s := s.setBar x.uid name { b with arrived := b.arrived ++ [memberKey x.uid x.idx] }
  let s := s.updWx w fun y => { y with arrived := Tbl.set y.arrived name b.phase }
  s.barCheck x.uid name

/-- The barrier names of a unit that exist. -/
def barNames : List Nat := List.range 17 ++ [32, 33, 34, 35]

/-- A wave that completes leaves every barrier it belonged to (R41). -/
def State.leaveBars (s : State) (w : Nat) : State :=
  let x := s.wave w
  barNames.foldl (fun s name =>
    match s.unit x.uid with
    | none => s
    | some u =>
      match s.barOf u name with
      | none => s
      | some b =>
        let s := s.setBar x.uid name { b with arrived := b.arrived.filter (· ≠ memberKey x.uid x.idx) }
        s.barCheck x.uid name) s

/-- The phase of a barrier as a wave sees it. -/
def State.barPhase (s : State) (w name : Nat) : Nat :=
  match s.unitOf w with
  | some u => ((s.barOf u name).map (·.phase)).getD 0
  | none => 0

/-- Some lane of the wave waits on a translation fault. -/
def State.faultHeld (s : State) (w : Nat) : Bool := (s.wave w).frontier.any fun e => e.stat = .fault

/-- The instruction at which an entry stands within its clause. -/
def Entry.headInstr (e : Entry) : Option Instr := e.todo.head?.map fun k => decode k.word

/-- The stores, atomics and BFILL that a barrier's arrival waits for (R42). -/
def storing (i : Instr) : Bool :=
  match i with
  | .st _ | .sst _ | .sts _ | .stb _ | .atom _ | .red _ | .cas _ | .bfill _ => true
  | _ => false

/-- Some store, atomic or BFILL of the wave waits on a translation fault (R42). The lanes of a fence stand at the fence,
so no earlier write of theirs waits (R114). -/
def State.storesHeld (s : State) (w : Nat) : Bool :=
  (s.wave w).frontier.any fun e => e.stat = .fault && (e.headInstr.map storing).getD false

/-- Some load of these lanes of the wave has not returned (R114). -/
def State.loadsOut (s : State) (w : Nat) (m : LaneMask) : Bool :=
  (s.wx w).returns.any fun r => r.load && r.lanes &&& m ≠ 0

end Sys2Proof.Machine
end

