-- ==== Sys2Proof/Machine/Rounds.lean ====
section
/-! DEFINITION. Convergence names and their rounds: operands, joint issue, failure, accumulation (R153 to R165, R340 to
R343), and the order of a bank's work (R162). -/

namespace Sys2Proof.Machine

/-! ## The configuration word (Table 15.2) -/

def cfgFirst (c : Nat) : Nat := c % 64
def cfgWfmt (c : Nat) : Nat := c / 64 % 8
def cfgN (c : Nat) : Nat := c / 4096 % 8 + 1

/-- The waves of a declaration in the order of their chunks. -/
def Cv.waves (c : Cv) : List Nat := (List.range (cfgN c.cfg)).map fun j => fieldN c.list (8 * j) 8

/-- Slot size, slot count and planes of a slot format (Table 7.1). -/
def slotSize (fmt : Nat) : Nat := match fmt with | 0 => 1024 | 4 => 4096 | _ => 2048
/-- Bytes of a slot's scale entries. -/
def slotScales (fmt : Nat) : Nat := if fmt = 2 ∨ fmt = 3 then 128 else 64
def slotCount (fmt : Nat) : Nat := match fmt with | 0 => 60 | 4 => 15 | _ => 30
def slotPlanes (fmt : Nat) : Nat := match fmt with | 0 => 4 | 4 => 16 | _ => 8

/-- Fields of BTD word 0 (Table 7.3). -/
def btdFmt (x : Dword) : Nat := fieldN x 0 3
def btdSlots (x : Dword) : Nat := fieldN x 4 6
def btdCols (x : Dword) : Nat := fieldN x 16 7
def btdExp (x : Dword) : Int := sext 8 (fieldN x 24 8)

/-! ## Operands (R341, R342) -/

/-- The bytes of a chunk, 32 rows and then 32 scale bytes, as a wave's operands hold them. -/
def State.chunkBytes (s : State) (u : WorkUnit) (o : SignOp) (afmt : Nat) : List Byte :=
  let x := s.wave o.wid
  if o.form = 0 then
    let row (m : Nat) : List Byte :=
      (List.range (actRegs afmt)).flatMap fun r => toBytes 4 (x.vGet (o.base + r) m).toNat
    let scale (m : Nat) : Byte :=
      match o.scaleV with | some r => BitVec.ofNat 8 (x.vGet r m).toNat | none => BitVec.ofNat 8 o.scaleS
    (List.range 32).flatMap row ++ (List.range 32).map scale
  else
    padTo (32 * actRow afmt + 32) (((s.core u.core).bank (u.phys (o.off / 65536))).readN (o.off % 65536) (chunkSize afmt))

/-- Row `m` of a chunk as an aligned block, with its scale byte. -/
def chunkRow (b : List Byte) (afmt m : Nat) : Aligned × Nat :=
  let n := actRow afmt
  let v := leAt b (m * n) n
  let codes := (List.range 32).map fun k => bitsOf v (actBits afmt * k) (actBits afmt)
  let sc := if afmt = 4 then 127 else byteAt b (32 * n + m)
  (alignAct afmt codes sc, sc)

/-- The stored integers of column `c` of a slot (R154): 32 aligned integers, or twice an E2M1 value. -/
def slotColumn (k : Bank) (fmt slot c : Nat) : List Int :=
  let z := slotSize fmt
  let bit (p r : Nat) : Nat :=
    boolN (bitOf (Tbl.get 0#8 k.bytes (z * slot + 256 * p + 8 * r + c / 8)).toNat (c % 8))
  (List.range 32).map fun r =>
    let v := (List.range (slotPlanes fmt)).foldl (fun a p => a + bit p r * 2 ^ p) 0
    if fmt = 0 then e2m1Twice v else sext (slotPlanes fmt) v

/-- Scale exponent, alignment exponent, and invalidity of a weight block (Tables 6.5 and 7.1). -/
def slotScale (k : Bank) (fmt slot c : Nat) : Int × Int × Bool :=
  let rd (o : Nat) : Nat := (Tbl.get 0#8 k.bytes (61440 + o)).toNat
  match fmt with
  | 0 => ((rd (64 * slot + c) : Int) - 127, -1, rd (64 * slot + c) = 0xFF)
  | 1 => ((rd (64 * slot + c) : Int) - 127, -6, rd (64 * slot + c) = 0xFF)
  | 4 => (0, sext 8 (rd (64 * slot + c)) - 14, rd (64 * slot + c) = 0x80)
  | _ => ((rd (128 * slot + 2 * c) : Int) - 127, sext 8 (rd (128 * slot + 2 * c + 1)) - 6,
          rd (128 * slot + 2 * c) = 0xFF)

/-! ## Accumulation (R165) -/

def sat32 (x : Int) : Int := clampI (-2147483648) 2147483647 x

/-- p × 2^e rounded by RNI where e is negative. -/
def scaleInt (p e : Int) : Int := if 0 ≤ e then p * 2 ^ e.toNat else roundInt 0 (p < 0) p.natAbs e

def accKey (m c : Nat) : Nat := m * 64 + c
def Bank.accAt (k : Bank) (m c : Nat) : Word := Tbl.get 0 k.acc (accKey m c)
def setBit64 (x : Dword) (i : Nat) : Dword := x ||| BitVec.ofNat 64 (2 ^ i)

/-- One block's contribution to one column's accumulator of row `m`. -/
def Bank.accumulate (k : Bank) (btd : Dword) (fmt slot m c : Nat) (a : Aligned) (sc : Nat) : Bank :=
  let (ew, hw, badw) := slotScale k fmt slot c
  if a.bad || badw || sc = 0xFF then { k with invf := setBit64 k.invf c }
  else
    let p := ((a.a.zip (slotColumn k fmt slot c)).map fun q => q.1 * q.2).foldl (· + ·) 0
    let e := ((sc : Int) - 127) + ew + a.h + hw - btdExp btd
    let v := scaleInt p e
    let sum := sext 32 (k.accAt m c).toNat + sat32 v
    let sat := v ≠ sat32 v || sum ≠ sat32 sum
    { k with acc := Tbl.set k.acc (accKey m c) (BitVec.ofInt 32 (sat32 sum)),
             satf := if sat then setBit64 k.satf c else k.satf }

/-- A row of one bank: chunks in order, active columns in order but those of `skip`. -/
def Bank.roundRow (k : Bank) (btd : Dword) (cfg m : Nat) (skip : Dword) (rows : List (Aligned × Nat)) : Bank :=
  ((List.range rows.length).zip rows).foldl (fun k q =>
    ((List.range (btdCols btd)).filter fun c => !(skip.getLsbD c)).foldl (fun k c =>
      k.accumulate btd (cfgWfmt cfg) (cfgFirst cfg + q.1) m c q.2.1 q.2.2) k) k

/-- The columns that words of 8 bytes with uncorrectable errors affect (R414): every active column for a plane word, 8
for a scale word of FMT 0, 1 and 4, 4 for one of FMT 2 and 3. -/
def Bank.badCols (k : Bank) (btd : Dword) (cfg n : Nat) : Dword :=
  let fmt := cfgWfmt cfg
  let all : Dword := BitVec.ofNat 64 (2 ^ btdCols btd - 1)
  (List.range n).foldl (fun m j =>
    let s := cfgFirst cfg + j
    let z := slotSize fmt
    let plane := k.bad.any fun i => z * s ≤ i && i < z * (s + 1)
    let w := if fmt = 2 ∨ fmt = 3 then 128 else 64
    let per := if fmt = 2 ∨ fmt = 3 then 4 else 8
    let hit := k.bad.filterMap fun i =>
      if 61440 + w * s ≤ i ∧ i < 61440 + w * (s + 1) then some ((i - 61440 - w * s) / 8 * per) else none
    let cols := hit.foldl (fun m c => m ||| BitVec.ofNat 64 ((2 ^ per - 1) * 2 ^ c)) (0 : Dword)
    m ||| (if plane then all else cols &&& all)) 0

/-- Unit banks of a mask. -/
def banksOf (m : LaneMask) : List Nat := lanesOf m

/-- A chunk of a storage operand has an uncorrectable word (R414). -/
def State.badChunk (s : State) (u : WorkUnit) (r : Round) : Bool :=
  r.ops.any fun o => o.form = 1 &&
    (((s.core u.core).bank (u.phys (o.off / 65536))).bad.any fun i =>
      o.off % 65536 ≤ i && i < o.off % 65536 + chunkSize (cfgAfmt r.cfg))

/-- The SRAM_ECC record of affected columns (Table 20.4). -/
def State.postCols (s : State) (u : WorkUnit) (b : Nat) (cols : Dword) : State :=
  if cols = 0 then s
  else s.postErr { cls := 4, ctx := some u.crec.ctx, slot := u.crec.slot, unit := u.crec.unit, die := dieOfCore u.core,
                   site := 4, sub := u.phys b,
                   detail := detailOf [(0, toBytes 1 2), (1, toBytes 1 1), (2, toBytes 1 4), (8, toBytes 8 cols.toNat)] }

/-- Rows `lo` to `hi` - 1 of a round, accumulated in every bank of its mask from the operands read now. -/
def State.roundRows (s : State) (u : WorkUnit) (r : Round) (lo hi : Nat) : State :=
  let chunks := r.ops.map fun o => s.chunkBytes u o (cfgAfmt r.cfg)
  let bad := s.badChunk u r
  (banksOf r.banks).foldl (fun s b =>
    let btd := Tbl.get 0 r.btd b
    let k := (s.core u.core).bank (u.phys b)
    let skip : Dword := if bad then BitVec.ofNat 64 (2 ^ btdCols btd - 1) else k.badCols btd r.cfg r.ops.length
    (s.updBank u.core (u.phys b) fun k =>
      ((List.range (hi - lo)).map (· + lo)).foldl (fun k m =>
        k.roundRow btd r.cfg m skip (chunks.map fun c => chunkRow c (cfgAfmt r.cfg) m))
        { k with poisf := k.poisf ||| skip }).postCols u b skip) s

/-- The accumulators of the active columns take free values (R123); a sticky flag may be set, and none is cleared (R6). -/
def State.roundFree (s : State) (u : WorkUnit) (r : Round) : State :=
  (banksOf r.banks).foldl (fun s b =>
    let n := s.freeCtr
    let cols := btdCols (Tbl.get 0 r.btd b)
    let keys := (List.range 32).flatMap fun m => (List.range cols).map fun c => accKey m c
    let flags (i : Nat) (x : Dword) : Dword :=
      x ||| (Config.free (n + i) &&& BitVec.ofNat 64 (2 ^ cols - 1))
    let put (k : Bank) : Bank :=
      { k with acc := keys.foldl (fun t i => Tbl.set t i (loHalf (Config.free (n + i)))) k.acc,
               satf := flags 2048 k.satf, invf := flags 2049 k.invf }
    { (s.updBank u.core (u.phys b) put) with freeCtr := n + 2050 }) s

/-! ## The order of a bank's work (R92, R162, R337) -/

/-- Something of the unit that names a bank of the mask came before `seq` and has not completed. -/
def State.banksBusy (s : State) (uid : Nat) (mask : LaneMask) (seq : Nat) : Bool :=
  match s.unit uid with
  | none => false
  | some u =>
    let hit (m : LaneMask) : Bool := m &&& mask ≠ 0
    u.bankOps.any (fun o => o.seq < seq && hit o.mask)
      || u.cvs.any (fun p => p.2.rounds.any fun r => r.issued && r.id < seq && (hit r.banks || hit r.chunks))
      || u.modeCh.any (fun m => m.id < seq && hit m.mask)
      || (s.core u.core).copies.any fun k => k.uid = uid && k.id < seq && hit k.slots

/-- A BANKMODE that names a bank of the mask has not completed. -/
def State.modeBusy (s : State) (uid : Nat) (mask : LaneMask) : Bool :=
  match s.unit uid with
  | some u => u.modeCh.any fun m => m.mask &&& mask ≠ 0
  | none => false

/-! ## Convergence names -/

def WorkUnit.cv (u : WorkUnit) (c : Nat) : Cv := Tbl.get ⟨false, 0, 0, 0, []⟩ u.cvs c
def State.setCv (s : State) (uid c : Nat) (x : Cv) : State := s.updUnit uid fun u => { u with cvs := Tbl.set u.cvs c x }


/-- Lanes of a wave of a unit that have exited; a wave that has completed has none left. -/
def State.exitedLanes (s : State) (u : WorkUnit) (idx : Nat) : LaneMask :=
  if u.alive.contains (u.slots.getD idx 0) then (s.wx (u.widAt idx)).exited else allLanes

/-- Every wave of the set has a signed lane, and every lane of the set has signed or exited (R343). -/
def State.roundFull (s : State) (u : WorkUnit) (c : Cv) (r : Round) : Bool :=
  c.waves.all fun i =>
    match r.ops.find? fun o => o.wid = u.widAt i with
    | some o => r.resumed || o.signed ||| s.exitedLanes u i = allLanes
    | none => false

/-- A wave of the set has exited without signing (R160). -/
def State.roundDead (s : State) (u : WorkUnit) (c : Cv) (r : Round) : Bool :=
  c.waves.any fun i => !(r.ops.any fun o => o.wid = u.widAt i) && s.exitedLanes u i = allLanes

/-! ## Failure of a round (R160) -/

/-- In handler mode no entry of the interrupted frontier issues: the signed lanes leave theirs for the first free
position, which takes their trapped entry. -/
def Handler.trapSigned (h : Handler) (t : Entry) : Handler :=
  let own := (h.trapped.map (·.mask)).getD 0
  let m := t.mask &&& ~~~ own
  let cut := (h.intr.map fun p => (p.1, { p.2 with mask := p.2.mask &&& ~~~ m })).filter fun p => p.2.mask ≠ 0
  let same (e : Entry) : Bool := e.stat = t.stat && e.seq = t.seq && e.pc = t.pc && e.slot = t.slot && e.code = t.code
  if m = 0 then h
  else match cut.find? fun p => same p.2 with
  | some p => { h with intr := Tbl.set cut p.1 { p.2 with mask := p.2.mask ||| m } }
  | none =>
    match (List.range 32).find? fun k => (Tbl.find cut k).isNone with
    | some k => { h with intr := Tbl.set cut k { t with mask := m } }
    | none => h

/-- The signed lanes of one wave leave their entries for trapped entries at their own BMACs: at once where their entry
has no clause in progress, else when that clause ends. -/
def State.trapSigned (s : State) (w : Nat) (m : LaneMask) (place : Entry) (code : Nat) : State :=
  let seq := (s.wx w).trapSeq
  let t := place.trap m code 0 seq
  match (s.wx w).handler with
  | some h => s.updWx w fun y => { y with trapSeq := seq + 1, handler := some (h.trapSigned t) }
  | none =>
  let busy := match (s.wave w).issuing with | some e => if e.fetched then e.mask else 0 | none => 0
  let now := m &&& ~~~ busy
  let late := m &&& busy
  let leave (e : Entry) : Entry := { e with mask := e.mask &&& ~~~ now }
  let s := s.updWave w fun x =>
    { x with frontier := addTrapped ((x.frontier.map leave).filter fun e => e.mask ≠ 0) { t with mask := now } }
  s.updWx w fun y =>
    { y with trapSeq := seq + 1, lateTraps := y.lateTraps ++ (if late = 0 then [] else [(late, t)]) }

/-- Drop a round from its name. -/
def dropRound (c : Cv) (id : Nat) : Cv := { c with rounds := c.rounds.filter fun r => r.id ≠ id }

def State.failRound (s : State) (uid cv : Nat) (r : Round) (code : Nat) : State :=
  match s.unit uid with
  | none => s
  | some u =>
    let s := s.setCv uid cv (dropRound (u.cv cv) r.id)
    let s := r.ops.foldl (fun s o =>
      o.places.foldl (fun s p =>
        let m := p.1 &&& ~~~ (s.wx o.wid).exited
        if m = 0 then s else s.trapSigned o.wid m p.2 code) s) s
    r.ops.foldl (fun s o => s.decDc o.wid o.ctr) s

/-- A resumed round that fails: its waves stand at their BMACs, and their entries' lanes trap there (R164). -/
def State.failResumed (s : State) (uid cv : Nat) (r : Round) (code : Nat) : State :=
  match s.unit uid with
  | none => s
  | some u =>
    let s := s.setCv uid cv (dropRound (u.cv cv) r.id)
    r.ops.foldl (fun s o =>
      let s := (s.raiseAll o.wid [(o.signed, code, 0)]).settle o.wid
      (s.updWx o.wid fun y => { y with wait := none }).decDc o.wid o.ctr) s

/-! ## Joint issue (R160) -/

/-- Unit banks that hold the storage chunks of a round. -/
def chunkBanks (r : Round) : LaneMask := maskOfList ((r.ops.filter fun o => o.form = 1).map fun o => o.off / 65536)

/-- The trap of a round at joint issue, if any: BANK_MODE for a bank out of mode, CV_SET for the other checks. -/
def State.jointTrap (s : State) (u : WorkUnit) (c : Cv) (r : Round) : Option Nat :=
  let bank (b : Nat) : Bank := (s.core u.core).bank (u.phys b)
  let bs := banksOf c.mask
  if bs.any (fun b => (bank b).mode ≠ .compute) || (banksOf (chunkBanks r)).any (fun b => (bank b).mode ≠ .storage) then
    some 0x08
  else if bs.any (fun b => btdFmt (bank b).btd0 ≠ cfgWfmt c.cfg
      || btdSlots (bank b).btd0 ≤ cfgFirst c.cfg + cfgN c.cfg - 1) then some 0x10
  else none

/-- The operations of a round in set order. -/
def orderOps (u : WorkUnit) (c : Cv) (r : Round) : List SignOp :=
  c.waves.filterMap fun i => r.ops.find? fun o => o.wid = u.widAt i

/-- A name's open round issues jointly, or fails, where it can (R160). While a BANKMODE that names one of its banks has
not completed, it waits (R92). A round stopped part-way is checked again for mode, format and slots when its last wave resumes
(DESIGN CHOICE, log entry 56). -/
def State.tryJoint (s : State) (uid cv : Nat) : State :=
  match s.unit uid with
  | none => s
  | some u =>
    let c := u.cv cv
    match c.rounds.find? fun r => !r.issued with
    | none => s
    | some r =>
      if s.roundDead u c r then s.failRound uid cv r 0x10
      else if !(s.roundFull u c r) then s
      else if s.modeBusy uid (c.mask ||| chunkBanks r) then s
      else
        let dones := r.ops.map (·.done)
        match (if dones.any (fun d => d ≠ dones.headD 0) then some 0x02 else s.jointTrap u c r) with
        | some code => if r.resumed then s.failResumed uid cv r code else s.failRound uid cv r code
        | none =>
          let (id, s) := s.fresh
          let ops := orderOps u c r
          let words := (banksOf c.mask).map fun b => (b, ((s.core u.core).bank (u.phys b)).btd0)
          let r' : Round :=
            { r with id := id, ops := ops, issued := true, rows := dones.headD 0, banks := c.mask, chunks := chunkBanks r, cfg := c.cfg,
                     btd := words, snap := ops.map fun o => s.chunkBytes u o (cfgAfmt c.cfg) }
          let s := s.setCv uid cv { (dropRound c r.id) with rounds := (dropRound c r.id).rounds ++ [r'] }
          let s := s.updUnit uid fun u => { u with ran := u.ran ++ [r'] }
          ops.foldl (fun s o => s.updWx o.wid fun y => { y with unseen := y.unseen ++ [(o.ctr, c.mask, id)] }) s

/-- Every name of a wave's unit is looked at again after lanes exited. -/
def State.pokeRounds (s : State) (uid : Nat) : State :=
  match s.unit uid with
  | none => s
  | some u => (Tbl.keys u.cvs).foldl (fun s c => s.tryJoint uid c) s

/-- A round that the wave has not observed (R125, R345): one of its own set before its wait on the counter, or one of others that
no wave of the set has observed. -/
def State.unobserved (s : State) (w : Nat) (r : Round) : Bool :=
  let unseen (k : Nat) : Bool := (s.wx k).unseen.any fun p => p.2.2 = r.id
  if r.ops.any fun o => o.wid = w then unseen w else r.ops.all fun o => unseen o.wid

/-- A touch of banks' accumulators by a wave between a round's joint issue and the wave's wait (R123). What a handler does to save
and restore a wave is none for the rounds that are complete. -/
def State.touchBanks (s : State) (uid w : Nat) (mask : LaneMask) : State :=
  let hit (r : Round) : Bool := r.issued && r.banks &&& mask ≠ 0
  let mark (r : Round) : Round := if hit r then { r with touched := true } else r
  let late (r : Round) : Round := if hit r && (s.wx w).handler.isNone && s.unobserved w r then { r with touched := true } else r
  s.updUnit uid fun u =>
    { u with cvs := u.cvs.map fun p => (p.1, { p.2 with rounds := p.2.rounds.map mark }), ran := u.ran.map late }

/-- A wave wrote an operand register of a round after its joint issue. -/
def State.opWrote (s : State) (r : Round) (o : SignOp) : Bool :=
  o.form = 0 && (s.wx o.wid).wrote.any fun p =>
    r.id < p.2 && ((o.base ≤ p.1 && p.1 < o.base + actRegs (cfgAfmt r.cfg)) || o.scaleV = some p.1)

/-- The operands of a round as wave `w` left them differ from what they were at joint issue, or were written since. -/
def State.opsChanged (s : State) (u : WorkUnit) (r : Round) (w : Nat) : Bool :=
  r.touched || ((List.range r.ops.length).zip r.ops).any fun p =>
    (p.2.wid = w || p.2.form = 1) && (s.opWrote r p.2 || s.chunkBytes u p.2 (cfgAfmt r.cfg) ≠ r.snap.getD p.1 [])

/-- The wave has observed a round: if its operands or accumulators were touched before, its results are free values (R123). -/
def State.seeRound (s : State) (w id : Nat) : State :=
  match s.unitOf w with
  | none => s
  | some u =>
    match u.ran.find? fun r => r.id = id with
    | none => s
    | some r =>
      let s := if s.opsChanged u r w then s.roundFree u r else s
      let left := r.ops.any fun o => o.wid ≠ w && (s.wx o.wid).unseen.any fun p => p.2.2 = id
      s.updUnit (s.wave w).uid fun u => { u with ran := if left then u.ran else u.ran.filter fun r => r.id ≠ id }

/-- A wait on counters observes the completed rounds of those counters (R125). -/
def State.observe (s : State) (w : Nat) (lims : List (Nat × Nat)) : State :=
  let cvs := ((s.unitOf w).map (·.cvs)).getD []
  let running (id : Nat) : Bool := cvs.any fun p => p.2.rounds.any fun r => r.issued && r.id = id
  let keep (p : Nat × LaneMask × Nat) : Bool := !(lims.any fun q => q.1 = p.1) || running p.2.2
  if (s.wx w).unseen = [] then s
  else
    let s := ((s.wx w).unseen.filter fun p => !(keep p)).foldl (fun s p => s.seeRound w p.2.2) s
    s.updWx w fun y =>
      { y with unseen := y.unseen.filter keep, wrote := if y.unseen.all keep then y.wrote else y.wrote.filter fun q =>
          (y.unseen.filter keep).any fun p => p.2.2 < q.2 }

/-- ROUND_COMPLETE (R162, R163): the name's oldest issued round accumulates its remaining rows once earlier work on its
banks is complete; each wave's counter is decremented. -/
def execRoundComplete (uid cv : Nat) (s : State) : Out :=
  match s.unit uid with
  | none => .next s
  | some u =>
    match (u.cv cv).rounds.find? fun r => r.issued with
    | none => .next s
    | some r =>
      if s.banksBusy uid (r.banks ||| r.chunks) r.id then .next s
      else
        let s := if r.ops.any fun o => s.opsChanged u r o.wid then s.roundFree u r else s.roundRows u r r.rows 32
        let s := s.setCv uid cv (dropRound (u.cv cv) r.id)
        .next (r.ops.foldl (fun s o => s.decDc o.wid o.ctr) s)

/-- The wave stands at its signing BMAC, with the rows done of a round that stopped part-way (R45, R163). -/
def State.backAt (s : State) (o : SignOp) (rows : Option Nat) : State :=
  o.places.foldl (fun s p =>
    let m := p.1 &&& ~~~ (s.wx o.wid).exited
    let away (e : Entry) : Entry := { e with mask := e.mask &&& ~~~ m }
    let back : Entry := { p.2 with mask := m, stat := .ready, stage := if rows.isNone then 0 else 2, mark := 0, done := rows.getD 0 }
    s.updWave o.wid fun x =>
      { x with frontier := sortBy Entry.before ((x.frontier.map away ++ [back]).filter fun e => e.mask ≠ 0) }) s

/-- A ROUND STOPPED PART-WAY (R46, R163): every wave of its set has a stop pending, and signed at one BMAC; rows up to the one given
are accumulated, and each wave stands at its BMAC with as many rows done. The counters stay. -/
def State.stopRound (s : State) (uid cv n : Nat) : State :=
  match s.unit uid with
  | none => s
  | some u =>
    match (u.cv cv).rounds.find? fun r => r.issued with
    | none => s
    | some r =>
      let stops (o : SignOp) : Bool :=
        ((s.wx o.wid).preempt || (s.wx o.wid).halt) && (s.wx o.wid).handler.isNone && o.places.length = 1 && o.wid / 96 = u.core
          && !((s.wave o.wid).frontier.any Entry.isTrapped)
      let hi := r.rows + n
      if s.banksBusy uid (r.banks ||| r.chunks) r.id || !(r.ops.all stops) || 32 ≤ hi || hi = 0 then s
      else
        let s := if r.ops.any fun o => s.opsChanged u r o.wid then s.roundFree u r else s.roundRows u r r.rows hi
        let s := s.setCv uid cv (dropRound (u.cv cv) r.id)
        let s := s.updUnit uid fun u => { u with ran := u.ran.filter fun x => x.id ≠ r.id }
        r.ops.foldl (fun s o =>
          (s.updWx o.wid fun y => { y with wait := none, unseen := y.unseen.filter fun p => p.2.2 ≠ r.id }).backAt o (some hi)) s

/-- After an instruction that may have made lanes exit. -/
def Out.poke (uid : Nat) (o : Out) : Out :=
  match o with
  | .next s => .next (s.pokeRounds uid)
  | x => x

end Sys2Proof.Machine
end

