-- ==== Sys2Proof/Machine/Control.lean ====
section
/-! DEFINITION. Control transfers, waits, barriers, traps, handler mode and register allotment: group 1 but the
work-creating instructions (R264 to R269, R272 to R277). -/

namespace Sys2Proof.Machine

/-! ## What the instructions ask -/

def sigX (f : FmtX) (link : Bool) : Sig := { uses := if link then [uDst f.link 2] else [], bad := f.mod8 ≠ 0 }
/-- A register target: an even pair, scalar or vector (R264). -/
def uTarget (o : Operand) (t : Bool) : Use := { o := o, t := t, n := 2, align := 2, con := false, zero := false }
def sigJump (f : FmtA) (link : Bool) : Sig :=
  { uses := uTarget f.srcA f.tA :: (if link then [uDst f.dst 2] else []), bad := f.mod7 ≠ 0 }
def sigExit (f : FmtA) : Sig := { bad := f.mod7 ≠ 0, notInHandler := true }
def sigPlainA (f : FmtA) : Sig := { bad := f.mod7 ≠ 0 }
def sigPlainB (f : FmtB) : Sig := { bad := f.mod5 ≠ 0 }
/-- Names and modes of BAR (R269). -/
def barName (f : FmtB) : Nat := f.imm24.toNat % 64
def barMode (f : FmtB) : Nat := f.imm24.toNat / 64 % 4
def sigBar (f : FmtB) : Sig :=
  { bad := f.mod5 ≠ 0 || 256 ≤ f.imm24.toNat || barMode f = 3 || !(barNames.contains (barName f)), noTx := true }
def sigTrap (f : FmtB) : Sig := { bad := f.mod5 ≠ 0 || 65536 ≤ f.imm24.toNat }
/-- The mode of HRET (R274). -/
def hretMode (f : FmtA) : Option Nat := match f.srcA with | .con c => if c < 3 then some c else none | _ => none
def sigHret (f : FmtA) : Sig := { bad := f.mod7 ≠ 0 || (hretMode f).isNone, handlerOnly := true }
/-- Four scalars from an index that is a multiple of 4 (R275). -/
def sigFrget (f : FmtB) : Sig :=
  { uses := [{ uDstS f.dst 4 with zero := false }], bad := f.mod5 ≠ 0 || 32 ≤ f.imm24.toNat }
def sigFrset (f : FmtB) : Sig :=
  { uses := [uScaReg f.srcA f.tA 4], bad := f.mod5 ≠ 0 || 32 ≤ f.imm24.toNat, handlerOnly := true }
/-- A register whose bits are read or set, and which is not awaited (R276). -/
def uBits (o : Operand) : Use := { o := o, con := false, zero := false, rd := false }
def sigFeget (f : FmtB) : Sig := { uses := [uDstS f.dst, uBits f.srcA], bad := f.mod5 ≠ 0 || f.imm24 ≠ 0 }
def sigFeset (f : FmtB) : Sig :=
  { uses := [uBits f.dst, uSca f.srcA f.tA], bad := f.mod5 ≠ 0 || f.imm24 ≠ 0, handlerOnly := true }
/-- A count that is a multiple of 8 from 8 to 248 (R277). -/
def regCount (f : FmtB) : Nat := f.imm24.toNat
def sigReg (f : FmtB) : Sig :=
  { uses := [uDstS f.dst], bad := f.mod5 ≠ 0 || regCount f % 8 ≠ 0 || regCount f < 8 || 248 < regCount f }

/-! ## Control transfers (R264 to R266) -/

/-- The trap of a target: outside the global window first, then misaligned (R265, R425). -/
def targetTrap (a : Dword) : Option Nat :=
  if 2 ^ 56 ≤ a.toNat then some 0x07 else if a.toNat % 8 ≠ 0 then some 0x06 else none

/-- The link value in a pair. -/
def Wave.putLink (x : Wave) (o : Operand) (m : LaneMask) (v : Dword) : Wave :=
  match o with
  | .vec _ => x.putV64 o m fun _ => v
  | _ => x.putS64 o v

/-- A transfer of the ACTIVE lanes to one target; the other lanes fall through. -/
def goTo (a : At) (s : State) (tgt : Dword) (link : Option Operand) : Eff :=
  let next := fallThrough a.e.pc a.e.hdr
  match targetTrap tgt with
  | some c => .jump (s.raiseAll a.w [(a.act, c, tgt.toNat)]) [(a.e.mask &&& ~~~ a.act, next)] 0
  | none =>
    let s := match link with
      | some o => s.updWave a.w fun x => x.putLink o a.act next
      | none => s
    .jump s [(a.e.mask &&& ~~~ a.act, next), (a.act, tgt)] 0

/-- A transfer through a register pair: one target for a scalar pair, one for each lane for a vector pair. -/
def goReg (a : At) (s : State) (o : Operand) (link : Option Operand) : Eff :=
  match o with
  | .vec n =>
    let next := fallThrough a.e.pc a.e.hdr
    let tgt (l : Nat) : Dword := a.x.vPair n.toNat l
    let traps := (lanesOf a.act).filterMap fun l => (targetTrap (tgt l)).map fun c => (l, c, (tgt l).toNat)
    let ok := a.act &&& ~~~ (maskOfList (traps.map (·.1)))
    let s := s.trapLanes a.w traps
    let s := match link with
      | some q => if ok = 0 then s else s.updWave a.w fun x => x.putLink q ok next
      | none => s
    .jump s ((a.e.mask &&& ~~~ a.act, next) :: (lanesOf ok).map fun l => (laneBit l, tgt l)) 0
  | _ => goTo a s (a.x.sSrc64 o) link

/-- The target of format X: H + 8 × offset. -/
def xTarget (f : FmtX) (e : Entry) : Dword := e.pc + (f.off32.signExtend 64) * 8

/-- JMPI, CALLI and RET are performed once with a scalar pair, lane by lane with a vector pair (R246). -/
def issueReg (f : FmtA) (link : Bool) (s : State) : Out :=
  let once := match f.srcA with | .vec _ => false | _ => true
  issue (fun x => x.guardQ f.guard f.neg) (sigJump f link) once s fun a s =>
    goReg a s f.srcA (if link then some f.dst else none)

/-- BRA (R264). -/
def execBra (f : FmtX) (s : State) : Out :=
  issueQ f.guard f.neg (sigX f false) s fun a s => goTo a s (xTarget f a.e) none
/-- BRX (R264): lane by lane under a p guard. -/
def execBrx (f : FmtX) (s : State) : Out :=
  issueP f.guard f.neg (sigX f false) s fun a s => goTo a s (xTarget f a.e) none
/-- JMPI (R264). -/
def execJmpi (f : FmtA) (s : State) : Out := issueReg f false s
/-- CALL (R264). -/
def execCall (f : FmtX) (s : State) : Out :=
  issueQ f.guard f.neg (sigX f true) s fun a s => goTo a s (xTarget f a.e) (some f.link)
/-- CALLI (R264). -/
def execCalli (f : FmtA) (s : State) : Out := issueReg f true s
/-- RET (R264): acts as JMPI. -/
def execRet (f : FmtA) (s : State) : Out := issueReg f false s
/-- EXIT (R266): transactions of the lanes abort first; the lanes leave the frontier. -/
def execExit (f : FmtA) (s : State) : Out :=
  Out.poke (s.wave s.cur).uid <| issueQ f.guard f.neg (sigExit f) s fun a s =>
    .jump (s.abortLanes a.w (s.txLanes a.w a.act) 6 0) [(a.e.mask &&& ~~~ a.act, fallThrough a.e.pc a.e.hdr)] a.act

/-! ## Waiting and yielding (R267 to R269) -/

/-- YIELD (R267): demotes the entry where it is the last instruction of its clause. -/
def execYield (f : FmtA) (s : State) : Out :=
  issueQ f.guard f.neg (sigPlainA f) s fun _ s => .demote s
/-- SLEEP (R267). -/
def execSleep (f : FmtB) (s : State) : Out :=
  issueQ f.guard f.neg (sigPlainB f) s fun a s =>
    if a.e.stage ≠ 0 then (if a.e.mark ≤ s.time then .next s else .wait (.time a.e.mark) s)
    else
      let t := s.time + f.imm24.toNat
      .wait (.time t) (s.setStage a.w 1 t)

/-- The thresholds of WAITDC. -/
def waitdcLimits (f : FmtB) : List (Nat × Nat) :=
  ((List.range 6).map fun n => (n, fieldN f.imm24 (4 * n) 4)).filter fun p => p.2 ≠ 15

/-- Every counter listed is at or below its limit. -/
def Wave.counted (x : Wave) (l : List (Nat × Nat)) : Bool := l.all fun p => x.dcGet p.1 ≤ p.2

/-- WAITDC (R267). -/
def execWaitdc (f : FmtB) (s : State) : Out :=
  issueQ f.guard f.neg (sigPlainB f) s fun a s =>
    if a.x.counted (waitdcLimits f) then .next (s.observe a.w (waitdcLimits f)) else .wait (.counters (waitdcLimits f)) s

/-- WSYNC (R268): the entry is held until every entry of the wave is held at this WSYNC. -/
def execWsync (f : FmtA) (s : State) : Out :=
  issueQ f.guard f.neg (sigPlainA f) s fun a s =>
    if a.e.stage ≠ 0 then .next s
    else .stay ((s.updIssuing a.w fun e => { e with stat := .wsync }).leaveHeld a.w a.e.mask)

/-- The end of a BAR's wait, an acquire at BLOCK scope (Table 5.3). -/
def barEnd (a : At) (s : State) : Eff :=
  if s.loadsOut a.w a.act then .wait (.returns a.act) s
  else .next (s.updWx a.w fun y => { y with barHeld := none })

/-- Wait until the phase has passed. -/
def barWait (a : At) (name phase : Nat) (s : State) : Eff :=
  if phase < s.barPhase a.w name then barEnd a s else .wait (.barrier name phase) s

/-- BAR (R269, R41, R42). One that raises BAR_OVER changes no barrier, and is counted when it issues again (R407). -/
def execBar (f : FmtB) (s : State) : Out :=
  issueQ f.guard f.neg (sigBar f) s fun a s =>
    let name := barName f
    let mode := barMode f
    match (s.unitOf a.w).bind (fun u => s.barOf u name) with
    | none => .next (s.raiseAll a.w [(a.act, 0x02, 0)])
    | some b =>
      if mode = 2 then
        match Tbl.find (s.wx a.w).arrived name with
        | none => .next s
        | some p => barWait a name p s
      else
        match (if mode = 0 then (s.wx a.w).barHeld.filter (fun p => p.1 = name) else none) with
        | some (_, p) => barWait a name p s
        | none =>
          if s.storesHeld a.w then .wait .stores s
          else
            let s := s.drainFwd (coreOf a.w) (quadOf a.w)
            if Tbl.find (s.wx a.w).arrived name = some b.phase then .next (s.raiseAll a.w [(a.act, 0x0A, 0)])
            else
              let s := s.arrive a.w name b
              if mode = 1 then .next s
              else barWait a name b.phase (s.updWx a.w fun y => { y with barHeld := some (name, b.phase) })

/-! ## Traps and handlers (R273 to R276) -/

/-- TRAP (R273). -/
def execTrap (f : FmtB) (s : State) : Out :=
  issueQ f.guard f.neg (sigTrap f) s fun a s => .next (s.raiseAll a.w [(a.act, 0x11, f.imm24.toNat)])
/-- BKPT (R273). -/
def execBkpt (f : FmtB) (s : State) : Out :=
  issueQ f.guard f.neg (sigTrap f) s fun a s => .next (s.raiseAll a.w [(a.act, 0x12, f.imm24.toNat)])

/-- The fields of PROGIDX (Table 2.9). -/
def progDone (p : Word) : Nat := fieldN p 0 7
def progPartial (p : Word) : Bool := p.getLsbD 7
def progSlot (p : Word) : Nat := fieldN p 8 4
def progMid (p : Word) : Bool := p.getLsbD 12

/-- The steps of a resumable instruction (Table 2.8), 0 for another. -/
def stepsOf (i : Instr) : Nat :=
  match i with
  | .bmac _ | .ld _ | .st _ | .ldb _ | .stb _ => 32
  | .brdacc f | .bwracc f => f.mod7.toNat % 16 + 1
  | .bfill f => if f.mod7.getLsbD 5 then 1 else f.mod7.toNat % 32 + 1
  | .bhad f => 4 + f.mod7.toNat % 4
  | _ => 0

/-- A wave that resumes inside a clause holds PROGIDX against the instruction in its slot (R47): DONE not below its step count
raises ILLEGAL_OPERAND, with no step performed. -/
def State.resumeCheck (s : State) (w : Nat) : State :=
  let p := (s.wx w).progidx
  match (s.wave w).issuing with
  | some e =>
    let n := (e.headInstr.map stepsOf).getD 0
    if (s.wx w).resumed && (s.wx w).handler.isNone && e.fetched && (progPartial p || progDone p ≠ 0) && n ≤ progDone p then
      ((s.raiseAll w [(e.mask, 0x02, 0)]).clearProg w).settle w
    else s
  | none => s

/-- The issuing entry at a slot of its clause: the instruction there resumes at a step, or issues again. -/
def Entry.resumeIn (e : Entry) (p : Word) : Entry :=
  let e := if e.fetched && e.slot = progSlot p then e
    else { e with slot := progSlot p, code := 0, fetched := false, todo := [], stage := 0, mark := 0, left := none, ret := 0 }
  if progPartial p then { e with stage := 2, mark := 0, left := none, ret := 0, done := progDone p } else { e with done := 0 }

/-- The issuing entry at its clause header. -/
def Entry.resumeHead (e : Entry) : Entry :=
  { e with slot := 0, code := 0, fetched := false, todo := [], stage := 0, mark := 0, left := none, ret := 0, done := 0, cut := 0, asked := none }

/-- What a wave does with PROGIDX when it resumes (R47): the issuing entry goes to SLOT and step DONE, or to its clause header. A
PARTIAL without MIDCLAUSE raises ILLEGAL_OPERAND. -/
def State.resumeAt (s : State) (w : Nat) : State :=
  let p := (s.wx w).progidx
  if progMid p then ((s.updIssuing w fun e => e.resumeIn p).updWx w fun y => { y with resumed := true }).resumeCheck w
  else if progPartial p then
    match (s.wave w).issuing with
    | some e => ((s.updIssuing w Entry.resumeHead).raiseAll w [(e.mask, 0x02, 0)]).settle w
    | none => s
  else (s.updIssuing w Entry.resumeHead).updWx w fun y => { y with progidx := 0 }

/-- The lanes of a BAR that leave it without `.retry` give its arrival's wait up. -/
def State.dropBar (s : State) (w : Nat) (t : Option Entry) : State :=
  match t.bind Entry.headInstr with
  | some (.bar _) => s.updWx w fun y => { y with barHeld := none }
  | _ => s

/-- HRET (R274). A wave that was pre-empted by save stops here until its unit is saved and restored (R69). -/
def execHret (f : FmtA) (s : State) : Out :=
  Out.poke (s.wave s.cur).uid <| issueQ f.guard f.neg (sigHret f) s fun a s =>
    let mode := (hretMode f).getD 0
    let sys := ((s.wx a.w).handler.map (·.system)).getD false
    let save := ((s.wx a.w).handler.map (·.save)).getD false
    let bad := Eff.next (s.raiseAll a.w [(a.act, 0x02, 0)])
    if sys && mode ≠ 0 then bad
    else
      match s.leaveHandler a.w mode with
      | none => bad
      | some t =>
        let t := if mode = 0 then t else t.dropBar a.w ((s.wx a.w).handler.bind (·.trapped))
        if save then .gone (s.updWx a.w fun y => { y with parked := true })
        else .gone (if sys then t.resumeAt a.w else t)

/-- The four words of a frontier entry (Table 12.7). -/
def frWords (e : Entry) (live0 : Bool) : List Word :=
  [loHalf e.pc, hiHalf e.pc, e.mask,
   BitVec.ofNat 32 (e.prio + (if e.demoted then 4096 else 0) + 8192 + (if live0 then 16384 else 0))]

/-- FRGET (R275): in handler mode the interrupted frontier, elsewhere the live one. -/
def execFrget (f : FmtB) (s : State) : Out :=
  issueQ f.guard f.neg (sigFrget f) s fun a s =>
    let k := f.imm24.toNat
    let ws := match (s.wx a.w).handler with
      | some h => (Tbl.find h.intr k).map fun e => frWords e false
      | none => (a.x.frontier[k]?).map fun e => frWords e (k = 0)
    .next (s.updWave a.w fun x =>
      match f.dst with
      | .sca n => (List.range 4).foldl (fun x i => x.sSet (n + i) ((ws.getD [0, 0, 0, 0]).getD i 0)) x
      | _ => x)

/-- FRSET (R275): one position of the interrupted frontier; the priority comes from the header at PC. -/
def execFrset (f : FmtB) (s : State) : Out :=
  issueQ f.guard f.neg (sigFrset f) s fun a s =>
    let w (i : Nat) : Word := a.x.srcN f.srcA i 0
    let k := f.imm24.toNat
    let e := { s.entryAt (s.ctxOf a.w) (pairOf (w 0) (w 1)) (w 2) with demoted := (w 3).getLsbD 12 }
    let upd (h : Handler) : Handler :=
      { h with intr := if (w 3).getLsbD 13 then Tbl.set h.intr k e else Tbl.del h.intr k }
    .next (s.updWx a.w fun y => { y with handler := y.handler.map upd })

/-- FEGET (R276). -/
def execFeget (f : FmtB) (s : State) : Out :=
  issueQ f.guard f.neg (sigFeget f) s fun a s =>
    let v : Word := match f.srcA with
      | .vec n => ~~~ (a.x.vEmpty n.toNat)
      | .sca n => if a.x.sEmpty n then 0 else 1
      | _ => 0
    .next (s.updWave a.w fun x => x.putS f.dst v)

/-- FESET (R276). -/
def execFeset (f : FmtB) (s : State) : Out :=
  issueQ f.guard f.neg (sigFeset f) s fun a s =>
    let v := a.x.sSrc .int f.srcA
    .next (s.updWave a.w fun x =>
      match f.dst with
      | .vec n => { x with vE := Tbl.set x.vE n.toNat (~~~ v) }
      | .sca n => { x with sE := Tbl.set x.sE n (!(v.getLsbD 0)) }
      | _ => x)

/-! ## Register allotment (R277, R37) -/

/-- The allotment rises by `n`; the granted registers are zero and full (R37). -/
def Wave.grow (x : Wave) (n : Nat) : Wave :=
  let fresh (k : Nat) : Bool := x.valloc ≤ k
  { x with valloc := x.valloc + n, v := x.v.filter (fun p => !(fresh p.1)), vE := x.vE.filter (fun p => !(fresh p.1)) }

/-- REGGROW (R37, R277): granted at once where the space is free and no request waits; else by REGGROW_GRANT, which nothing
promises (R38). -/
def execReggrow (f : FmtB) (s : State) : Out :=
  issueQ f.guard f.neg (sigReg f) s fun a s =>
    let n := regCount f
    let done (s : State) : Eff := .next (s.updWave a.w fun x => x.putS f.dst (BitVec.ofNat 32 x.valloc))
    if a.e.stage ≠ 0 then done s
    else if 256 < a.x.valloc + n then .next (s.raiseAll a.w [(a.act, 0x02, 0)])
    else
      let q := (s.core (coreOf a.w)).quad (quadOf a.w)
      if q.grows = [] ∧ s.quadUsed (coreOf a.w) (quadOf a.w) + n ≤ 1024 then done (s.updWave a.w fun x => x.grow n)
      else
        let s := if q.grows.contains a.w then s
          else s.updQuad (coreOf a.w) (quadOf a.w) fun q => { q with grows := q.grows ++ [a.w] }
        .wait .grow (s.updWx a.w fun y => { y with growWant := n })

/-- REGSHRINK (R37, R277): waits until the released registers are full. -/
def execRegshrink (f : FmtB) (s : State) : Out :=
  issueQ f.guard f.neg (sigReg f) s fun a s =>
    let n := regCount f
    if a.x.valloc < n + 8 then .next (s.raiseAll a.w [(a.act, 0x02, 0)])
    else
      let rs := (List.range n).map fun i => (a.x.valloc - n + i, allLanes)
      if !(a.x.allFull rs []) then .wait (.full rs []) s
      else
        let lo := a.x.valloc - n
        let s := s.updWx a.w fun y => { y with mirrored := y.mirrored.filter (· < lo) }
        .next (s.updWave a.w fun x =>
          { x with valloc := lo, v := x.v.filter (fun p => p.1 < lo), upsets := x.upsets.filter fun u => !u.vec || u.reg < lo }.putS f.dst (BitVec.ofNat 32 lo))

/-- A word whose opcode is unassigned (R241, R424): ILLEGAL_OP in every lane of the issuing entry, whatever its
guard. -/
def execUnassignedOpcode (_word : Dword) (s : State) : Out :=
  issue (fun _ => allLanes) {} true s fun a s => .next (s.raiseAll a.w [(a.act, 0x01, 0)])

end Sys2Proof.Machine
end

