-- ==== Sys2Proof/Machine/Cards.lean ====
section
/-! DEFINITION. Cards: their bytes, the checks of submission, counters, posting, the split of launches, completion and
cancel (R51 to R67, R71, R72, R431, R432, R435). -/

namespace Sys2Proof.Machine

/-! ## Reading memory for a context, over page boundaries -/

/-- Bytes at a virtual address of the global window, or the address and cause of the first fault. -/
def State.readVa (s : State) (ctx va n : Nat) (k : AccKind) : Except (Nat × Nat) (List Byte) :=
  if 2 ^ 56 < va + n then .error (va, 1)
  else
    let n1 := min n (65536 - va % 65536)
    match s.deviceRead ctx va n1 k with
    | .error c => .error (va, c)
    | .ok b =>
      if n1 = n then .ok b
      else
        match s.deviceRead ctx (va + n1) (n - n1) k with
        | .error c => .error (va + n1, c)
        | .ok b' => .ok (b ++ b')

/-- The nonzero 8-byte entries of a list ending with zero (R55). -/
def State.readSucc (s : State) (ctx : Nat) : Nat → Nat → Option (List Nat)
  | 0, _ => none
  | f + 1, va =>
    match s.readVa ctx va 8 .load with
    | .error _ => none
    | .ok b => if ofBytes b = 0 then some [] else (s.readSucc ctx f (va + 8)).map (ofBytes b :: ·)

/-- The regions of a write-region list, and the address of its terminating entry (R55). -/
def State.readRegions (s : State) (ctx : Nat) : Nat → Nat → Option (List (Nat × Nat) × Nat)
  | 0, _ => none
  | f + 1, va =>
    match s.readVa ctx va 16 .load with
    | .error _ => none
    | .ok b =>
      if leAt b 8 8 = 0 then some ([], va)
      else (s.readRegions ctx f (va + 16)).map fun r => ((leAt b 0 8, leAt b 8 8) :: r.1, r.2)

/-- More entries than a list within the global window has: the list ends, or comes to a fault, before (R55). -/
def listFuel : Nat := 2 ^ 53 + 1

/-! ## Card bytes (Tables 3.1 and 3.3) -/

def cKind (b : List Byte) : Nat := byteAt b 0
def cFlags (b : List Byte) : Nat := byteAt b 1
def cPrio (b : List Byte) : Nat := byteAt b 2
def cWpu (b : List Byte) : Nat := byteAt b 3
def cPreds (b : List Byte) : Nat := leAt b 4 2
def cCluster (b : List Byte) : Nat := leAt b 6 2
def cCode (b : List Byte) : Nat := leAt b 8 8
def cArgs (b : List Byte) : Nat := leAt b 16 8
def cUnits (b : List Byte) : Nat := leAt b 24 4
def cVregs (b : List Byte) : Nat := leAt b 28 2
def cSregs (b : List Byte) : Nat := leAt b 30 2
def cSbanks (b : List Byte) : Nat := byteAt b 32
def cCbanks (b : List Byte) : Nat := byteAt b 33
def cTxlog (b : List Byte) : Nat := leAt b 34 2
def cSucc (b : List Byte) : Nat := leAt b 40 8
def cGraph (b : List Byte) : Nat := leAt b 48 2
def cPhase (b : List Byte) : Nat := leAt b 50 2
def cJob (b : List Byte) : Nat := leAt b 52 4
def cWregion (b : List Byte) : Nat := leAt b 56 8

/-- The dies of a context's die set. -/
def diesOf (m : Nat) : List Nat := (List.range 84).filter fun d => m.testBit d
def State.diesIn (s : State) (ctx : Nat) : List Nat := diesOf (s.ctx ctx).dies
def State.lowDie (s : State) (ctx : Nat) : Nat := (s.diesIn ctx).headD 0

/-- The shares of a launch: die and clusters (R65). -/
def splitShares (clusters : Nat) (dies : List Nat) : List (Nat × Nat × Nat) :=
  let m := dies.length
  (((List.range m).zip dies).map fun p => (p.2, p.1 * clusters / m, (p.1 + 1) * clusters / m)).filter
    fun q => q.2.1 < q.2.2

/-- Units of the launch that an empty core takes (R28). -/
def unitsPerCore (b : List Byte) : Nat :=
  let q0 := max 1 (wavesIn (cWpu b) 0)
  let banks := cSbanks b + cCbanks b
  let k := min (24 / q0) (1024 / max 1 (q0 * cVregs b))
  if banks = 0 then k else min k (32 / banks)

/-- Check 0x0A: the shares of a COOP launch fit their dies when empty (R67). -/
def State.coopFits (s : State) (b : List Byte) (dies : List Nat) : Bool :=
  (splitShares (ceilDiv (cUnits b) (cCluster b)) dies).all fun q =>
    let cores := ((coresOf q.1).filter fun c => !(s.core c).retired).length
    let units := min (q.2.2 * cCluster b) (cUnits b) - q.2.1 * cCluster b
    let multi := ((List.range (q.2.2 - q.2.1)).filter fun i =>
      1 < min ((q.2.1 + i + 1) * cCluster b) (cUnits b) - (q.2.1 + i) * cCluster b).length
    units ≤ cores * unitsPerCore b && multi ≤ 8

def zeroAt (b : List Byte) (i n : Nat) : Bool := leAt b i n = 0

/-- Check 0x0B: TARGET, reserved bytes and sub-fields of kinds 2 to 7 (Table 3.3). -/
def State.kindFields (s : State) (ctx : Nat) (b : List Byte) : Bool :=
  let target := byteAt b 30 = 0xFF || (s.diesIn ctx).contains (byteAt b 30)
  zeroAt b 3 1 && zeroAt b 6 2 && zeroAt b 31 5 &&
    (match cKind b with
    | 2 => target && zeroAt b 26 4
    | 3 => target && (byteAt b 16 ≤ 1 || byteAt b 16 = 0xFF) && zeroAt b 17 13
    | 4 => target && byteAt b 16 ≤ 1 && 84 ≤ byteAt b 17 && byteAt b 17 ≤ 95 && zeroAt b 18 12
    | 5 => target && byteAt b 16 ≤ 1 && zeroAt b 17 13
    | 6 => zeroAt b 26 5 && cCode b % 8 = 0 && (leAt b 24 2 = 0xFFFF || (130 ≤ leAt b 24 2 && leAt b 24 2 ≤ 2047))
    | _ => zeroAt b 8 8 && byteAt b 16 ≤ 1 && zeroAt b 17 14)

/-- The first failing check of Table 3.5, or 0. `dest` is the destination of a SPAWN. -/
def State.checkCard (s : State) (ctx : Nat) (b : List Byte) (src : Nat) (dest : Option Nat) : Nat :=
  let k := cKind b
  let f := cFlags b
  let launch := k = 1
  let dies := s.diesIn ctx
  if k = 0 ∨ 7 < k then 0x01
  else if 64 ≤ f ∨ (k ≠ 1 ∧ 8 ≤ f) ∨ (6 ≤ k ∧ f ≠ 0) then 0x02
  else if 3 < cPrio b ∨ cJob b = 0 ∨ leAt b 36 4 ≠ 0 then 0x03
  else if launch ∧ (cWpu b = 0 ∨ 32 < cWpu b ∨ cCluster b = 0 ∨ 16 < cCluster b ∨ cUnits b = 0 ∨ cCode b % 8 ≠ 0) then
    0x04
  else if launch ∧ (cVregs b % 8 ≠ 0 ∨ cVregs b = 0 ∨ 256 < cVregs b ∨ cSregs b % 16 ≠ 0 ∨ cSregs b = 0
      ∨ 384 < cSregs b) then 0x05
  else if launch ∧ 1024 < ceilDiv (cWpu b) 4 * cVregs b then 0x06
  else if launch ∧ 32 < cSbanks b + cCbanks b then 0x07
  else if launch ∧ cSbanks b * 65536 < cWpu b * cTxlog b * 256 then 0x08
  else if bitOf f 1 ∧ cWregion b = 0 then 0x09
  else if launch ∧ bitOf f 3 ∧ !(s.coopFits b dies) then 0x0A
  else if k ≠ 1 ∧ !(s.kindFields ctx b) then 0x0B
  else if (cSucc b ≠ 0 ∧ (s.readSucc ctx listFuel (cSucc b)).isNone)
      ∨ (cWregion b ≠ 0 ∧ (s.readRegions ctx listFuel (cWregion b)).isNone) then 0x0C
  else if src = 1 ∧ !((dest.map fun d => dies.contains d).getD false) then 0x0D
  else 0

/-! ## What the device writes into a card (R54) -/

/-- The STATE byte of a card in the given state. -/
def cardState (c : Card) : Nat :=
  match c.stat with
  | .held => 1 | .posted => 2 | .running => 3 | .done => c.final

/-- A journal entry is written, before the change it records becomes visible (R436). -/
def State.journal (s : State) : State :=
  s.updHubs fun h => { h with sched := { h.sched with journal := h.sched.journal + 1 } }

/-- Write DISPATCH as the card's record holds it. -/
def State.writeDispatch (s : State) (c : Card) : State :=
  s.deviceWrite? c.ctx (c.addr + 36) (toBytes 2 c.slotW ++ toBytes 1 c.homeW ++ toBytes 1 (cardState c))

def State.setStat (s : State) (ctx addr : Nat) (f : Card → Card) : State :=
  let s := s.journal.updCard ctx addr f
  match s.card ctx addr with
  | some c => s.writeDispatch c
  | none => s

/-! ## Counters (R57 to R59) -/

def State.counter (s : State) (ctx level id : Nat) : Option Counter :=
  s.queues.counters.find? fun k => k.ctx = ctx && k.level = level && k.id = id

def State.setCounter (s : State) (k : Counter) : State :=
  let rest := s.queues.counters.filter fun x => !(x.ctx = k.ctx && x.level = k.level && x.id = k.id)
  s.journal.updQueues fun q => { q with counters := rest ++ [k] }

/-- The level is complete: its counter is freed and its cancel ends. -/
def State.freeCounter (s : State) (k : Counter) : State :=
  let rest := s.queues.counters.filter fun x => !(x.ctx = k.ctx && x.level = k.level && x.id = k.id)
  let s := s.updQueues fun q => { q with counters := rest }
  s.updCtx k.ctx fun c => { c with cancels := c.cancels.filter fun x => !(x.level = k.level && x.id = k.id) }

/-- A job completes or is cancelled: its maps leave the lofts and the attic (R178). -/
def State.jobDone (s : State) (ctx job : Nat) : State :=
  let mine (m : LoftMap) : Bool := m.ctx = ctx && m.job = job
  s.mapParts (fun c => c) fun d => { d with loft := d.loft.filter fun m => !(mine m) }

/-- A job's counter at zero and marked completes the job (R59). -/
def State.checkJob (s : State) (ctx job : Nat) : State :=
  match s.counter ctx 4 job with
  | some k => if k.count = 0 ∧ k.marked then (s.freeCounter k).jobDone ctx job else s
  | none => s

def State.subJob (s : State) (ctx job : Nat) : State :=
  match s.counter ctx 4 job with
  | some k => (s.setCounter { k with count := k.count - 1 }).checkJob ctx job
  | none => s

/-- A phase's counter at zero and marked completes the phase, which gives back its 1 to the job (R59). -/
def State.checkPhase (s : State) (ctx phase : Nat) : State :=
  match s.counter ctx 3 phase with
  | some k => if k.count = 0 ∧ k.marked then (s.freeCounter k).subJob ctx k.job else s
  | none => s

def State.subPhase (s : State) (ctx phase : Nat) : State :=
  match s.counter ctx 3 phase with
  | some k => (s.setCounter { k with count := k.count - 1 }).checkPhase ctx phase
  | none => s

def State.subGraph (s : State) (ctx graph : Nat) : State :=
  match s.counter ctx 2 graph with
  | some k => if k.count ≤ 1 then s.freeCounter k else s.setCounter { k with count := k.count - 1 }
  | none => s

/-- Room for the counters that a registration needs (R58). -/
def State.counterRoom (s : State) (c : Card) (gdie : Nat) : Bool :=
  let n (f : Counter → Bool) : Nat := (s.queues.counters.filter f).length
  let g := c.graph = 0 || (s.counter c.ctx 2 c.graph).isSome || n (fun k => k.level = 2 && k.die = gdie) < 512
  let newPhase := c.phase ≠ 0 && (s.counter c.ctx 3 c.phase).isNone && c.kind ≠ 7
  let p := !newPhase || n (fun k => k.level = 3) < 1024
  let needJob := c.kind ≠ 7 && (c.phase = 0 || newPhase)
  let j := !needJob || (s.counter c.ctx 4 c.job).isSome || n (fun k => k.level = 4) < 256
  g && p && j

def State.addJob (s : State) (ctx job : Nat) : State :=
  let k := (s.counter ctx 4 job).getD { ctx := ctx, level := 4, id := job, count := 0 }
  s.setCounter { k with count := k.count + 1 }

/-- Open a phase's counter where none is held, with the job's 1 (R57, R59). -/
def State.openPhase (s : State) (ctx phase job : Nat) : State :=
  if (s.counter ctx 3 phase).isSome then s
  else (s.addJob ctx job).setCounter { ctx := ctx, level := 3, id := phase, count := 0, job := job }

/-- A card adds to its counters (R57). -/
def State.addCounters (s : State) (c : Card) (gdie : Nat) (pkg : Bool) : State :=
  let s :=
    if c.graph = 0 then s
    else
      let k := (s.counter c.ctx 2 c.graph).getD
        { ctx := c.ctx, level := 2, id := c.graph, count := 0, die := gdie, pkg := pkg }
      s.setCounter { k with count := k.count + 1 }
  if c.kind = 7 then s
  else if c.phase = 0 then s.addJob c.ctx c.job
  else
    let s := s.openPhase c.ctx c.phase c.job
    match s.counter c.ctx 3 c.phase with
    | some k => s.setCounter { k with count := k.count + 1 }
    | none => s

/-- The phase or the job of a card loses one. -/
def State.subLevels (s : State) (ctx phase job : Nat) : State :=
  if phase = 0 then s.subJob ctx job else s.subPhase ctx phase

/-- A card that ends subtracts from the counters it added to. -/
def State.subCounters (s : State) (c : Card) : State :=
  if !c.counted then s
  else
    let s := if c.graph = 0 then s else s.subGraph c.ctx c.graph
    if c.kind = 7 then s
    else if s.hubs.sched.takeover.isSome then
      s.updHubs fun h => { h with sched := { h.sched with pend := h.sched.pend ++ [(c.ctx, c.phase, c.job)] } }
    else s.subLevels c.ctx c.phase c.job

/-! ## The end of a card -/

def delCard (l : List Card) (ctx addr : Nat) : List Card := l.filter fun c => !(c.ctx = ctx && c.addr = addr)

/-- The successor list of a card that never started, read now; one that cannot be read any more counts as empty (DESIGN CHOICE, log
entry 54). -/
def State.succsOf (s : State) (c : Card) : List Nat :=
  if c.started then c.succs
  else if c.succ = 0 then [] else (s.readSucc c.ctx listFuel c.succ).getD []

/-- A card comes to its end: CARD_COMPLETE reports it once its writes are applied (R61). -/
def State.endCard (s : State) (ctx addr final : Nat) : State :=
  let (id, s) := s.fresh
  s.updCard ctx addr fun c =>
    { c with stat := .done, final := final, succs := s.succsOf c, started := true, again := false,
             lid := if c.lid = 0 then id else c.lid }

/-- A card leaves every queue and its launch is forgotten, with the launch slots that its shares hold (R60). -/
def State.unqueue (s : State) (ctx addr : Nat) : State :=
  let lids := (s.queues.launches.filter fun p => p.2.ctx = ctx && p.2.card = addr).map (·.1)
  let out (q : QCard) : Bool := !(q.ctx = ctx && q.addr = addr)
  let keepL (l : Nat) : Bool := !(lids.contains l)
  let s := s.mapParts (fun c => c) fun d =>
    { d.dropChannels (fun l _ => lids.contains l) with
      cardQ := d.cardQ.filter out, slots := d.slots.filter fun p => keepL p.2.lid }
  let s := s.updCtx ctx fun c => { c with pq := c.pq.filter out }
  s.updQueues fun q =>
    { q with launches := q.launches.filter (fun p => keepL p.1), coopQ := q.coopQ.filter keepL,
             gridUse := q.gridUse.filter keepL,
             coop := match q.coop with | some l => if keepL l then some l else none | none => none,
             coopRes := match q.coop with | some l => if keepL l then q.coopRes else [] | none => [],
             held := q.held.filter fun r => keepL r.lid }

/-! ## Posting (R60, R62 to R64) -/

/-- Put a place at the tail of its priority in a queue, or at the head when it is posted again. -/
def queueCard (x : QCard) (front : Bool) (q : List QCard) : List QCard :=
  let above := q.filter fun y => if front then x.prio < y.prio else x.prio ≤ y.prio
  let below := q.filter fun y => if front then y.prio ≤ x.prio else y.prio < x.prio
  above ++ x :: below

def State.toPackage (s : State) (x : QCard) (front : Bool) : State :=
  s.updCtx x.ctx fun c => { c with pq := queueCard x front c.pq }
def State.toDie (s : State) (d : Nat) (x : QCard) (front : Bool) : State :=
  s.updDie d fun y => { y with cardQ := queueCard x front y.cardQ }

/-- The die of a TARGET (R53). -/
def State.targetDie (s : State) (c : Card) : Nat := if c.target = 0xFF then s.lowDie c.ctx else c.target

/-- Where a card goes when it is posted (R62): the package queue, or a die's card queue. `die` is the die that the posting
comes from, none for the command processor. -/
def State.postTo (s : State) (c : Card) (first : Bool) (die : Option Nat) : Option Nat :=
  if 6 ≤ c.kind then none
  else
    if first then (if c.pkg then none else die)
    else if c.graph = 0 then die
    else
      match s.counter c.ctx 2 c.graph with
      | some k => if k.pkg then none else some k.die
      | none => die

def State.postCard (s : State) (c : Card) (first : Bool) (die : Option Nat) (front : Bool) : State :=
  let s := s.setStat c.ctx c.addr fun x => { x with stat := .posted }
  let x : QCard := { ctx := c.ctx, addr := c.addr, prio := c.prio, lid := 0, c0 := 0, c1 := 0 }
  match s.postTo c first die with
  | none => s.toPackage x front
  | some d => (s.updCard c.ctx c.addr fun y => { y with home := d, pkg := false }).toDie d x front

/-! ## Launches (R23, R65, R431) -/

/-- The number of a card's launch: that of the run before, for a card posted again, else a new one. -/
def State.launchId (s : State) (c : Card) : Nat × State :=
  match s.launch c.lid with
  | some l => if l.ctx = c.ctx ∧ l.card = c.addr then (c.lid, s) else s.fresh
  | none => s.fresh

/-- The replay state of the run before. -/
def State.keepReplay (s : State) (l : Launch) : Launch :=
  match s.launch l.id with
  | some o => { l with wregions := o.wregions, eligible := o.eligible, reason := o.reason, replays := o.replays, wordAt := o.wordAt }
  | none => l

/-- The shares of a launch go to their dies' card queues, and the launch is recorded. -/
def State.splitLaunch (s : State) (c : Card) (b : List Byte) (dies : List Nat) (pkg : Bool) : State :=
  let cl := ceilDiv (cUnits b) (max 1 (cCluster b))
  let sh := splitShares cl dies
  let (lid, s) := s.launchId c
  let l : Launch := s.keepReplay
    { id := lid, ctx := c.ctx, card := c.addr, home := (sh.map (·.1)).headD 0, slot := none, code := cCode b,
      args := cArgs b, units := cUnits b, cluster := max 1 (cCluster b), wpu := cWpu b, vregs := cVregs b,
      sregs := cSregs b, sbanks := cSbanks b, cbanks := cCbanks b, txlog := cTxlog b, flags := cFlags b,
      prio := c.prio, job := c.job, shares := sh.length, left := cUnits b, pkg := pkg }
  let s := s.setLaunch lid l
  let s := s.updCard c.ctx c.addr fun x => { x with lid := lid, flags := cFlags b }
  if cardCoop (cFlags b) then s.updQueues fun q => { q with coopQ := q.coopQ ++ [lid] }
  else sh.foldl (fun s q =>
    s.toDie q.1 { ctx := c.ctx, addr := c.addr, prio := c.prio, lid := lid, c0 := q.2.1, c1 := q.2.2 } false) s

/-- The 64 KiB pages, by virtual address, that regions touch. -/
def regionPages (rs : List (Nat × Nat)) : List Nat :=
  (rs.flatMap fun r => (List.range ((r.1 + r.2 - 1) / 65536 + 1 - r.1 / 65536)).map (· + r.1 / 65536)).eraseDups

/-- The snapshot of a launch or command at its start (R431, R432): regions read, pages protected, and eligibility. -/
def State.snapStart (s : State) (lid : Nat) (wregion : Nat) : State :=
  match s.launch lid with
  | none => s
  | some l =>
    let (rs, endAt) := if wregion = 0 then ([], 0) else (s.readRegions l.ctx listFuel wregion).getD ([], 0)
    let s := s.setLaunch lid { l with wregions := rs }
    if !(cardSnapshot l.flags) ∨ (s.homes.snaps.any fun p => p.lid = lid) then s
    else
      let s := s.updLaunch lid fun l => { l with eligible := true, wordAt := endAt }
      let real (v : Nat) : Option Nat :=
        match s.translate l.ctx (v * 65536) 1 .load with
        | .ok p => if p.loc.tgt = 0 ∧ p.loc.alop = 0 then some (p.loc.ra / 65536) else none
        | .error _ => none
      let ps := (regionPages rs).map real
      let good := ps.filterMap id
      let other (p : SnapPage) : Bool :=
        p.lid ≠ lid && ((s.launch p.lid).map fun m => decide (m.ctx = l.ctx)).getD false && good.contains p.page
      if ps.any Option.isNone then s.loseEligible lid 1
      else if s.homes.snaps.any other then s.loseEligible lid 2
      else
        let new := good.eraseDups.map fun p => (⟨lid, p, none⟩ : SnapPage)
        (s.updHomes fun h => { h with snaps := h.snaps ++ new }).writeReplay lid

/-- The card of a launch or command becomes RUNNING (R60, R431). Its lists are read; one that cannot be read any more counts as
empty (DESIGN CHOICE, log entry 54). -/
def State.startCard (s : State) (ctx addr slot home lid : Nat) : State :=
  match s.card ctx addr with
  | none => s
  | some c =>
    if c.stat = .running then s
    else
      let b := match s.readVa ctx addr 64 .load with | .ok b => b | .error _ => []
      let succs := if cSucc b = 0 then [] else (s.readSucc ctx listFuel (cSucc b)).getD []
      let s := s.setStat ctx addr fun c =>
        { c with stat := .running, slotW := slot, homeW := home, lid := lid, succs := succs, started := true }
      let s := s.updLaunch lid fun l => { l with running := true }
      s.snapStart lid (cWregion b)

/-- The end of a launch's protection (R432). -/
def State.snapEnd (s : State) (lid : Nat) : State :=
  match s.launch lid with
  | none => s
  | some l =>
    let s := s.updHomes fun h => { h with snaps := h.snaps.filter fun p => p.lid ≠ lid }
    if l.eligible then (s.setLaunch lid { l with eligible := false }).writeReplay lid else s

/-! ## Units of a launch that end or never start -/

/-- A launch whose shares are complete comes to its end: staged writes first (R392), then its card. -/
def State.launchEnd (s : State) (lid : Nat) : State :=
  match s.launch lid with
  | none => s
  | some l =>
    if l.shares ≠ 0 then s
    else
      let final := if s.launchCancelled lid then 5 else 4
      if cardStage l.flags ∧ (s.homes.staged.any fun p => p.1 = lid) then s.updLaunch lid fun l => { l with flush := true }
      else (s.updLaunch lid fun l => { l with running := false }).endCard l.ctx l.card final

/-- A share with nothing left gives its slot back (R66). -/
def State.shareCheck (s : State) (die lid : Nat) : State :=
  match (s.die die).slots.find? fun p => p.2.lid = lid with
  | none => s
  | some (k, sh) =>
    if sh.left = 0 ∧ sh.last ≤ sh.next then
      let s := s.updDie die fun d => { d with slots := Tbl.del d.slots k }
      let s := s.updLaunch lid fun l => { l with shares := l.shares - 1, slot := if sh.home then none else l.slot }
      s.launchEnd lid
    else s

/-- One unit of a launch's share on a die is complete, or dropped. -/
def State.unitDone (s : State) (die lid : Nat) : State :=
  let s := s.updLaunch lid fun l => { l with left := l.left - 1 }
  let less (x : Share) : Share := if x.lid = lid then { x with left := x.left - 1 } else x
  let s := s.updDie die fun d => { d with slots := d.slots.map fun p => (p.1, less p.2) }
  s.shareCheck die lid

/-- Units of a launch's share (R65). -/
def Launch.unitsIn (l : Launch) (c0 c1 : Nat) : Nat := min (c1 * l.cluster) l.units - c0 * l.cluster

/-- The shares of a launch that wait in a die's card queue leave it, and are complete. -/
def State.dropShares (s : State) (l : Launch) (d : Nat) : State :=
  let mine := (s.die d).cardQ.filter fun x => x.lid = l.id
  if mine = [] then s
  else
    let n := (mine.map fun x => l.unitsIn x.c0 x.c1).foldl (· + ·) 0
    (s.updDie d fun x => { x with cardQ := x.cardQ.filter fun y => y.lid ≠ l.id }).updLaunch l.id fun m =>
      { m with left := m.left - n, shares := m.shares - mine.length }

/-- A cancelled launch: no further unit is dispatched, its queued records are dropped, and its shares that have not started never
do (R60, R69). -/
def State.dropRecords (s : State) (lid : Nat) : State :=
  match s.launch lid with
  | none => s
  | some l =>
    let dies := List.range 84
    let isMine (r : ContRec) : Bool := r.lid = lid
    let s := dies.foldl (fun s d => s.dropShares l d) s
    let s := dies.foldl (fun s d =>
      let uq := (coresOf d).foldl (fun n c => n + ((s.core c).uq.filter isMine).length) 0
      let held := (s.queues.held.filter fun r => isMine r && r.die = d).length
      match (s.die d).slots.find? fun p => p.2.lid = lid with
      | none => s
      | some (k, sh) =>
        let unplaced := (sh.last - sh.next)
        let gone := uq + held + unplaced
        let s := (coresOf d).foldl (fun s c => s.updCore c fun x => { x with uq := x.uq.filter fun r => !(isMine r) }) s
        let s := s.updQueues fun q => { q with held := q.held.filter fun r => !(isMine r && r.die = d) }
        let s := s.updDie d fun x =>
          { x with slots := Tbl.set x.slots k { sh with next := sh.last, left := sh.left - gone } }
        let s := s.updLaunch lid fun l => { l with left := l.left - gone }
        (s.tidyChannels d lid).shareCheck d lid) s
    match s.launch lid with
    | some l => if l.running then s.launchEnd lid else s
    | none => s

/-! ## Cancel (R71) -/

/-- The cards that a cancel reaches. -/
def underLevel (c : Card) (level id : Nat) : Bool :=
  match level with | 2 => c.graph = id | 3 => c.phase = id | _ => c.job = id

/-- A cancel reaches one card (R60): a posted card ends, a running launch dispatches no more. -/
def State.cancelCard (s : State) (c : Card) : State :=
  let s := s.updCard c.ctx c.addr fun x => { x with cancelled := true }
  match c.stat with
  | .posted => (s.unqueue c.ctx c.addr).endCard c.ctx c.addr 5
  | .running =>
    if c.again then (s.unqueue c.ctx c.addr).endCard c.ctx c.addr 5 else if c.kind = 1 then s.dropRecords c.lid else s
  | _ => s

/-- CANCEL of a level (R71): a launch by its home SLOT, or a graph, phase or job whose counter is held. -/
def State.doCancel (s : State) (ctx level id : Nat) : State :=
  if level = 1 then
    match s.queues.launches.find? fun p => p.2.ctx = ctx && p.2.slot = some id && p.2.running with
    | some (_, l) =>
      match s.card ctx l.card with
      | some c => (s.updLaunch l.id fun l => { l with cancelled := true }).cancelCard c
      | none => s
    | none => s
  else if (s.counter ctx level id).isNone then s
  else
    let s := if s.cancelIn ctx level id then s
      else s.updCtx ctx fun c => { c with cancels := c.cancels ++ [⟨level, id⟩] }
    let s := if level = 4 then s.jobDone ctx id else s
    let hit := s.queues.cards.filter fun c => c.ctx = ctx && underLevel c level id && c.stat ≠ .held
    hit.foldl State.cancelCard s

/-! ## Submission (R56, R57, R72) -/

/-- The record of a card that has been read. -/
def cardOf (ctx addr : Nat) (b : List Byte) (src die : Nat) : Card :=
  { ctx := ctx, addr := addr, stat := .held, kind := cKind b, flags := cFlags b, prio := cPrio b, graph := cGraph b,
    phase := cPhase b, job := cJob b, succ := cSucc b, home := die, pkg := src = 0, counted := true,
    target := byteAt b 30 }

/-- Refuse a card with a code (R56); its SLOT and HOME are those of before its start (log entry 54). -/
def State.refuseCard (s : State) (ctx addr : Nat) (b : List Byte) (code : Nat) : State :=
  let s := s.deviceWrite? ctx (addr + 36) ([0xFF#8, 0xFF#8, 0#8] ++ toBytes 1 (0x80 + code))
  let s := s.postSched ctx code addr 0
  if cGraph b = 0 then s else s.doCancel ctx 2 (cGraph b)

/-- A fault of the device's own reads and decrements, posted as one record (R369). -/
def State.deviceFault (s : State) (ctx va cause kind lane : Nat) : State :=
  s.postFault ctx (faultBytes va cause kind lane 1 true ctx 0xFFFF 0xFFFFFFFF 0 s.time)

/-- Register a submission: `none` where it waits, on a counter, on a fault or on a full spill area. -/
def State.register (s : State) (x : Submission) : Option State :=
  if x.held then none
  else
    match s.readVa x.ctx x.addr 64 .load with
    | .error _ => none
    | .ok b =>
      let code := s.checkCard x.ctx b x.src (if x.src = 1 ∧ 84 ≤ x.die then none else some x.die)
      if code ≠ 0 then some (s.refuseCard x.ctx x.addr b code)
      else
        let c := cardOf x.ctx x.addr b x.src x.die
        let gdie := ((s.counter x.ctx 2 c.graph).map (·.die)).getD x.die
        if !(s.counterRoom c gdie) then none
        else
          let die := if x.src = 0 then none else some x.die
          if cPreds b = 0 && !(s.cardCancelled c) && s.cardWaits x.ctx c.prio (s.postTo c true die) then none
          else
          let s := s.updQueues fun q => { q with cards := delCard q.cards x.ctx x.addr ++ [c] }
          let s := s.addCounters c gdie (x.src = 0)
          if s.cardCancelled c then some (s.endCard c.ctx c.addr 5)
          else if cPreds b ≠ 0 then some (s.setStat c.ctx c.addr fun c => c)
          else some (s.postCard c true die false)

/-- A submission whose card cannot be read posts a fault record and waits for a TLBINV (R400, R417). -/
def State.submitFault (s : State) (x : Submission) : Option (Nat × Nat) :=
  if x.held ∨ x.src = 3 then none
  else match s.readVa x.ctx x.addr 64 .load with | .error e => some e | .ok _ => none

/-- Two submissions of one source: they register in order (R58). The ring of a context is one source, and what the SPAWNs and the
join counters of a die submit is another (DESIGN CHOICE, log entry 54). -/
def sameSource (a b : Submission) : Bool :=
  if a.src = 0 ∨ a.src = 3 then (b.src = 0 || b.src = 3) && a.ctx = b.ctx
  else (b.src = 1 || b.src = 2) && a.die = b.die

/-- The dispatcher to which a submission goes does not advance: its die relocks (R16). -/
def State.subStalls (s : State) (x : Submission) : Bool :=
  (x.src = 1 || x.src = 2) && x.die < 84 && (s.die x.die).clk.relock.isSome

/-- One submission of the queue goes on, the first of its source that can: registered, cancelled, or found faulting. -/
def State.registerNext (s : State) : List Submission → List Submission → Option State
  | _, [] => none
  | before, x :: rest =>
    let others := before ++ rest
    if before.any (sameSource x) || s.subStalls x then s.registerNext (before ++ [x]) rest
    else if x.src = 3 then some ((s.updQueues fun q => { q with subs := others }).doCancel x.ctx x.die x.addr)
    else
      match s.submitFault x with
      | some (va, c) =>
        some ((s.updQueues fun q => { q with subs := before ++ { x with held := true } :: rest }).deviceFault x.ctx va c
          8 0xFF)
      | none =>
        match s.register x with
        | some t => some (t.updQueues fun q => { q with subs := others })
        | none => s.registerNext (before ++ [x]) rest

/-! ## DOORBELL_WRITE (R76, R77) -/

/-- An entry of the ring: a submission, or none where it is in error. -/
def ringEntry (ctx lowDie : Nat) (b : List Byte) : Option Submission :=
  match byteAt b 8 with
  | 1 => some { ctx := ctx, addr := leAt b 0 8, die := lowDie, src := 0 }
  | 2 =>
    let level := byteAt b 9
    if 1 ≤ level ∧ level ≤ 4 then
      some { ctx := ctx, addr := if level = 4 then leAt b 12 4 else leAt b 12 2, die := level, src := 3 }
    else none
  | _ => none

/-- The address of HEAD in a context's descriptor. -/
def State.headAt (s : State) (ctx : Nat) : Nat := s.reg 0x0018 + ctx * 64 + 44

/-- HEAD is written into the descriptor, and the index kept. -/
def State.setHead (s : State) (ctx i : Nat) : State :=
  (s.journal.localStore (s.headAt ctx) (toBytes 4 i)).updCtx ctx fun c => { c with head := i }

/-- A ring error (R420): the record's ADDR is the ring and VALUE the tail. -/
def State.ringError (s : State) (ctx tail : Nat) : State := s.postSched ctx 0x23 (s.ctx ctx).ring tail

/-- A submission of the ring waits to be registered: the ring's handling stalls behind it (R58). -/
def State.ringStalls (s : State) (ctx : Nat) : Bool :=
  s.queues.subs.any fun x => (x.src = 0 || x.src = 3) && x.ctx = ctx

/-- The command processor handles entries of a ring, in order, from the index that comes next up to the tail, as far as they can be
handled; HEAD is written where the handling ends (R77). -/
def State.ringGo (s : State) (ctx : Nat) : Nat → State
  | 0 => s
  | f + 1 =>
    let c := s.ctx ctx
    match c.tail with
    | none => s
    | some tail =>
      if !c.on || c.stopped || s.ringStalls ctx then s
      else if c.head = tail then (s.setHead ctx tail).updCtx ctx fun c => { c with tail := none }
      else
        match ringEntry ctx (s.lowDie ctx) (Mem.readN s.homes.host (c.ring + 16 * c.head) 16) with
        | none => ((s.setHead ctx c.head).ringError ctx tail).updCtx ctx fun c => { c with tail := none }
        | some x =>
          let s := (s.updQueues fun q => { q with subs := q.subs ++ [x] }).updCtx ctx fun c =>
            { c with head := (c.head + 1) % 2 ^ c.ringlog }
          ((s.registerNext (s.queues.subs.dropLast) [x]).getD s).ringGo ctx f

/-- The ring as far as it can be handled now. -/
def State.ringAll (s : State) (ctx : Nat) : State := s.ringGo ctx (2 ^ (s.ctx ctx).ringlog + 1)

/-- A doorbell's value: the tail that it gives takes the place of one not reached yet (R77). -/
def State.ringRun (s : State) (ctx tail : Nat) : State :=
  let c := s.ctx ctx
  if 2 ^ c.ringlog ≤ tail then s.ringError ctx tail
  else if c.tail.isNone && tail = c.head then s
  else (s.updCtx ctx fun c => { c with tail := some tail }).ringAll ctx

/-- CARD_REGISTER (R56 to R58): a submission is registered, and the rings behind go on. -/
def execCardRegister (s : State) : Out :=
  if s.hubs.sched.takeover.isSome then .next s
  else
    let s := (s.registerNext [] s.queues.subs).getD s
    .next (((s.ctxs.filter fun p => p.2.tail.isSome).map (·.1)).foldl (fun s n => s.ringAll n) s)

/-- DOORBELL n. -/
def doorbellAt (ctx : Nat) : Nat := 0x10000 + 0x1000 * ctx

/-- DOORBELL_WRITE (R77); ignored for a context that is not on (R449). During a takeover the context's pending-kick bit is set
(R436). -/
def execDoorbellWrite (ctx tail : Nat) (s : State) : Out :=
  let c := s.ctx ctx
  let tail := tail % 2 ^ 32
  if !c.on ∨ c.stopped then .next s
  else
    let s := (s.portAdvance 114).updHubs fun h => { h with bar0 := Tbl.set h.bar0 (doorbellAt ctx) (BitVec.ofNat 64 tail) }
    if s.hubs.sched.takeover.isSome then
      .next (s.updHubs fun h => { h with sched := { h.sched with kicks := ctx :: h.sched.kicks.filter (· ≠ ctx) } })
    else .next (s.ringRun ctx tail)

end Sys2Proof.Machine
end

