-- ==== Sys2Proof/Machine/Translate.lean ====
section
/-! DEFINITION. Translation as the accesses of waves meet it: TLBs, the walker, faulting lanes and their records
(R78 to R80, R86, R90, R369, R400 to R402). -/

namespace Sys2Proof.Machine

/-! ## Translating for a core -/

/-- What translating an address comes to. The number of a fault's walk tells a new fault from one already posted. -/
inductive Xl where
  | ok (p : Phys)
  | walk
  | fault (cause id : Nat)
  deriving DecidableEq, Repr

def State.xlate (s : State) (w va n : Nat) (k : AccKind) : Xl :=
  match s.knows w (va / 65536) with
  | .miss => .walk
  | .cause c id => .fault c id
  | .entry e => match s.useLeaf e va n k with | .ok p => .ok p | .error c => .fault c e.id

/-- Wait for the walk of an address's page. -/
def State.walkFor (s : State) (core ctx va : Nat) : State :=
  let c := s.ctx ctx
  s.askWalk core c.asid c.ptroot (va / 65536)

/-! ## Faulting lanes (R400, R402) -/

/-- One faulting access: lane, address, cause, number of its walk, KIND. -/
structure LFault where
  lane : Nat
  va : Nat
  cause : Nat
  id : Nat
  kind : Nat
  deriving DecidableEq, Repr

/-- The first access on each 64 KiB page, in the order given. -/
def firstOnPages : List LFault → List LFault → List LFault
  | seen, [] => seen
  | seen, f :: t => firstOnPages (if seen.any (fun x => x.va / 65536 = f.va / 65536) then seen else seen ++ [f]) t

/-- Post one group of fault records of a wave (R369). -/
def State.postGroup (s : State) (w : Nat) (fs : List LFault) (pc : Nat) : State :=
  let g := firstOnPages [] fs
  let (slot, unit) := s.unitIds (s.wave w).uid
  let ctx := s.ctxOf w
  ((List.range g.length).zip g).foldl (fun s p =>
    s.postFault ctx (faultBytes p.2.va p.2.cause p.2.kind p.2.lane g.length (p.1 = 0) ctx slot unit pc s.time)) s

/-- The unit of a wave does not wait on a fault (R402). -/
def State.idempUnit (s : State) (w : Nat) : Bool := ((s.unitOf w).map (·.crec.idemp)).getD false

/-- The wave has a lane that waits on a fault: its watchdog stands still from now (R405). -/
def State.markFault (s : State) (w : Nat) : State :=
  s.updWx w fun y => { y with faultAt := some (y.faultAt.getD s.time) }

/-- Lanes of the issuing entry fault: new faults are posted as one group, and the entry waits with the lanes in `left`
not yet performed; an IDEMP unit is discarded and its record held. -/
def faultWait (a : At) (s : State) (fs : List LFault) (left : LaneMask) : Eff :=
  let new := fs.filter fun f => a.e.mark ≤ f.id
  let s := if new = [] then s else s.postGroup a.w new a.e.pc.toNat
  if s.idempUnit a.w then
    .gone (s.requeue a.x.uid ((firstOnPages [] fs).map fun f => f.va / 65536))
  else
    let mk := s.nextId
    let s := (if new = [] then s else s.fresh.2).markFault a.w
    .stay (s.updIssuing a.w fun e =>
      { e with stat := .fault, left := some left, mark := if new = [] then e.mark else mk, asked := none })

/-! ## Descriptor reads of an instruction (R270, R400) -/

/-- Read bytes of the global window for an instruction performed once: a walk is waited for, and a fault is that of the
lowest ACTIVE lane. The range may cross a page. -/
def readFor (a : At) (s : State) (va n kind : Nat) (acc : AccKind) (k : State → List Byte → Eff) : Eff :=
  let core := coreOf a.w
  let ctx := s.ctxOf a.w
  let one (va n : Nat) (k : State → List Byte → Eff) (s : State) : Eff :=
    match s.xlate a.w va n acc with
    | .walk => .wait (.walk (s.ctx ctx).asid (va / 65536)) (s.walkFor core ctx va)
    | .fault c id => faultWait a s [⟨lowestLane a.act, va, c, id, kind⟩] a.act
    | .ok p =>
      let s := s.countMig p
      let r := s.coreLoad core (s.ctx ctx).asid a.x.uid ctx p 1 n
      k r.2 r.1
  let n1 := min n (65536 - va % 65536)
  one va n1 (fun s b => if n1 = n then k s b else one (va + n1) (n - n1) (fun s b' => k s (b ++ b')) s) s

/-- The trap of a global-window address that must be a multiple of `al`: APERTURE before MISALIGNED (R425). -/
def globalTrap (va n al : Nat) : Option Nat :=
  if 2 ^ 56 < va + n then some 0x07 else if va % al ≠ 0 then some 0x06 else none

/-! ## Releases of a wave before an effect (R70, R114) -/

/-- An instruction that releases at PACKAGE scope and then acts: `act` runs when every write before the release has
been applied at its home. Stage 0: the release passes over the L1; stage 1: its writes are on their way. -/
def releaseThen (a : At) (s : State) (act : At → State → Eff) : Eff :=
  if a.e.stage = 0 then
    match (s.drainFwd (coreOf a.w) (quadOf a.w)).releasePass (coreOf a.w) with
    | (s, false) => .wait (.room 1) s
    | (s, true) =>
      let mk := s.nextId
      let s := s.setStage a.w 1 mk
      if s.applied (coreOf a.w) mk then act { a with e := { a.e with stage := 1, mark := mk } } s
      else .wait (.applied (coreOf a.w) mk) s
  else if a.e.stage = 1 then
    if s.applied (coreOf a.w) a.e.mark then act a s else .wait (.applied (coreOf a.w) a.e.mark) s
  else act a s

end Sys2Proof.Machine
end

