-- ==== Sys2Proof/Machine/TxLog.lean ====
section
/-! DEFINITION. The entries of a lane's transaction log, and transactional reads and writes (R323, R326, R332,
Tables 14.5 and 14.6). -/

namespace Sys2Proof.Machine

/-- The bank offset of a byte of a lane's part: the physical bank and the byte in it. -/
def State.logCell (s : State) (w lane i : Nat) : Option (Nat × Nat × Nat) :=
  (s.unitOf w).map fun u =>
    let (b, o) := logPlace u (s.wave w).idx lane
    let a := b * 65536 + o + i
    (u.core, u.phys (a / 65536), a % 65536)

/-- A byte of a lane's log part cannot be corrected (R416). -/
def State.logBad (s : State) (w lane : Nat) : Bool :=
  (List.range (s.logUnits w * 8)).any fun i =>
    match s.logCell w lane i with
    | some (c, b, o) => ((s.core c).bank b).bad.contains o
    | none => false

/-- The lane aborts with FAULT, and its log part is rewritten as zero (R416). -/
def State.logWipe (s : State) (w lane : Nat) : State :=
  let s := s.abortLane w lane 8 0
  let n := s.logUnits w * 8
  let cells := (List.range n).filterMap fun i => s.logCell w lane i
  let mend (s : State) (p : Nat × Nat × Nat) : State := s.updBank p.1 p.2.1 fun k => { k with bad := k.bad.filter (· ≠ p.2.2) }
  let s := cells.foldl mend (s.logWrite w lane 0 n 0)
  let e := s.errOf w 4 0 (detailOf [(0, toBytes 1 2), (2, toBytes 1 6), (4, toBytes 4 1)])
  s.postErr e

/-- A log entry: its index, kind, word number VA / 8, mask of bytes, and value. -/
structure TxEnt where
  i : Nat
  write : Bool
  word : Nat
  mask : Nat
  value : Nat
  deriving DecidableEq, Repr

def State.txEnt (s : State) (w lane i : Nat) : TxEnt :=
  let q := s.logRead w lane (16 + 16 * i) 8
  ⟨i, bitOf q 0, bitsOf q 3 53, q / 2 ^ 56, s.logRead w lane (24 + 16 * i) 8⟩

/-- The entries in use (NENT). -/
def State.txEnts (s : State) (w lane : Nat) : List TxEnt :=
  (List.range (s.logRead w lane 12 2)).map (s.txEnt w lane)

/-- The entries that a lane's part holds. -/
def State.txCap (s : State) (w : Nat) : Nat := s.logUnits w / 2 - 1

def State.txPut (s : State) (w lane : Nat) (e : TxEnt) : State :=
  let q := boolN e.write + 8 * e.word + 2 ^ 56 * e.mask
  (s.logWrite w lane (16 + 16 * e.i) 8 q).logWrite w lane (24 + 16 * e.i) 8 e.value

/-- Append an entry: `none` where the log is full. -/
def State.txAppend (s : State) (w lane : Nat) (write : Bool) (word mask value : Nat) : Option State :=
  let n := s.logRead w lane 12 2
  if n < s.txCap w then some ((s.txPut w lane ⟨n, write, word, mask, value⟩).logWrite w lane 12 2 (n + 1)) else none

def findEnt (es : List TxEnt) (write : Bool) (word : Nat) : Option TxEnt :=
  es.find? fun e => e.write == write && e.word = word

/-- The bytes of a number chosen by a mask of 8 bits, the others from another. -/
def mixBytes (mask a b : Nat) : Nat :=
  ofBytes ((List.range 8).map fun i => BitVec.ofNat 8 ((if bitOf mask i then a else b) >>> (8 * i)))

/-- The serial holder locks a line at its home at its first access to it (R332). -/
def State.txLock (s : State) (w lane line : Nat) : State :=
  let mine := s.homes.locks.any fun k => k.line = line && k.wid = w && k.lane = lane
  if mine then s else s.updHomes fun h => { h with locks := h.locks ++ [⟨line, w, lane, true⟩] }

/-- Bytes [o, o + n) of one word as the lane reads them: `none` where an append finds the log full. -/
def State.txReadWord (s : State) (w lane word o n : Nat) (l : Loc) : Option (List Byte × State) :=
  let es := s.txEnts w lane
  let mask := (2 ^ n - 1) * 2 ^ o
  let (wm, wv) := match findEnt es true word with | some e => (e.mask, e.value) | none => (0, 0)
  let out (rv : Nat) : List Byte := ((toBytes 8 (mixBytes wm wv rv)).drop o).take n
  if wm &&& mask = mask then some (out 0, s)
  else
    match findEnt es false word with
    | some e => some (out e.value, s)
    | none =>
      let v := ofBytes (s.readLoc l 0 8)
      (s.txAppend w lane false word 0xFF v).map fun s => (out v, s)

/-- Bytes written into one word of the lane's log. -/
def State.txWriteWord (s : State) (w lane word o : Nat) (b : List Byte) : Option State :=
  let mask := (2 ^ b.length - 1) * 2 ^ o
  let v := ofBytes b * 2 ^ (8 * o)
  match findEnt (s.txEnts w lane) true word with
  | some e => some (s.txPut w lane { e with mask := e.mask ||| mask, value := mixBytes mask v e.value })
  | none => s.txAppend w lane true word mask v

/-- The parts of an access in aligned words: word number, offset in it, bytes, and where they start in the data. -/
def wordParts (va n : Nat) : List (Nat × Nat × Nat × Nat) :=
  if n ≤ 8 then [(va / 8, va % 8, n, 0)] else [(va / 8, 0, 8, 0), (va / 8 + 1, 0, 8, 8)]

/-- The cause of an abort on a full log (R326). -/
def State.fullCause (s : State) (w lane : Nat) : Nat :=
  match Tbl.find (s.wx w).tx lane with
  | some t => if t.serial then 9 else 3
  | none => 3

/-- A transactional access of a lane to a local alias-0 location: the bytes read, or none where the lane aborts. -/
def State.txAccess (s : State) (w lane va n : Nat) (l : Loc) (store : Option (List Byte)) : Option (List Byte) × State :=
  let serial := ((Tbl.find (s.wx w).tx lane).map (·.serial)).getD false
  let s := if serial then s.txLock w lane (l.ra / 128) else s
  let t := s.time
  let s := s.updWx w fun y =>
    { y with tx := y.tx.map fun p => if p.1 = lane then (p.1, { p.2 with young := t }) else p }
  let base := l.ra / 8 * 8
  let s := if store.isNone then s.dropClean (coreOf w) { l with ra := base } 16 else s
  (wordParts va n).foldl (fun (acc : Option (List Byte) × State) p =>
    match acc with
    | (none, s) => (none, s)
    | (some b, s) =>
      let (word, o, k, at_) := p
      match store with
      | some d =>
        match s.txWriteWord w lane word o ((d.drop at_).take k) with
        | some s => (some b, s)
        | none => (none, s.abortLane w lane (s.fullCause w lane) 0)
      | none =>
        match s.txReadWord w lane word o k { l with ra := base + at_ } with
        | some (r, s) => (some (b ++ r), s)
        | none => (none, s.abortLane w lane (s.fullCause w lane) 0)) (some [], s)

end Sys2Proof.Machine
end

