-- ==== Sys2Proof/Machine/Memory.lean ====
section
/-! DEFINITION. Loads, stores and prefetch (R78 to R80, R261 to R263, R308 to R316), and the return of load data
(R239, R240). -/

namespace Sys2Proof.Machine

/-! ## What the instructions ask (R308, Table 14.1) -/

def memBytes (f : FmtM) : Nat := 2 ^ f.size.toNat
def memRegs (f : FmtM) : Nat := match f.size.toNat with | 3 => 2 | 4 => 4 | _ => 1
/-- An address field: an even pair, vector or scalar. -/
def uAddr (o : Operand) (t : Bool) : Use := { o := o, t := t, n := 2, align := 2, con := false, zero := false }
def uAddrS (o : Operand) (t : Bool) : Use := { uAddr o t with vec := false }
/-- The field of LDS and STS: one register. -/
def uOffset (o : Operand) (t : Bool) : Use := { o := o, t := t, con := false, zero := false }
/-- The data of a load, and of a store. -/
def uLoadV (f : FmtM) : Use := { uDstV f.data (memRegs f) with zero := false }
def uLoadS (f : FmtM) : Use := { uDstS f.data (memRegs f) with zero := false }
def uStore (f : FmtM) : Use := uSrc f.data false (memRegs f)
def badM (f : FmtM) : Bool := 5 ≤ f.size.toNat || f.ctr = 7 || f.mbz
def badPol (f : FmtM) : Bool := f.cpol = 3

def sigLd (f : FmtM) : Sig := { uses := [uAddr f.addr f.tAddr, uLoadV f], bad := badM f || badPol f }
def sigSt (f : FmtM) : Sig := { uses := [uAddr f.addr f.tAddr, uStore f], bad := badM f || badPol f }
def sigLds (f : FmtM) : Sig := { uses := [uOffset f.addr f.tAddr, uLoadV f], bad := badM f || f.cpol ≠ 0 }
def sigSts (f : FmtM) : Sig := { uses := [uOffset f.addr f.tAddr, uStore f], bad := badM f || f.cpol ≠ 0 }
def sigLdb (f : FmtM) : Sig := { uses := [uAddrS f.addr f.tAddr, uLoadV f], bad := badM f || badPol f }
def sigStb (f : FmtM) : Sig := { uses := [uAddrS f.addr f.tAddr, uStore f], bad := badM f || badPol f }
def sigPref (f : FmtM) : Sig :=
  { uses := [uAddr f.addr f.tAddr], bad := badM f || f.ctr ≠ 6 || 2 ≤ f.cpol.toNat }
def sigSld (f : FmtM) : Sig := { uses := [uAddrS f.addr f.tAddr, uLoadS f], bad := badM f || badPol f }
def sigSst (f : FmtM) : Sig :=
  { uses := [uAddrS f.addr f.tAddr, uSca f.data false (memRegs f)], bad := badM f || badPol f }
def sldkPair (f : FmtB) : Bool := f.mod5.getLsbD 0
def sigSldk (f : FmtB) : Sig :=
  { uses := [uScaReg f.srcA f.tA 2, { uDstS f.dst (if sldkPair f then 2 else 1) with zero := false }],
    bad := 2 ≤ f.mod5.toNat }
/-- VTOS awaits its destination only (R263). -/
def sigVtos (f : FmtB) : Sig :=
  let n := if sldkPair f then 2 else 1
  { uses := [{ uVecReg f.srcA f.tA n with rd := false }, uDstS f.dst n], bad := 2 ≤ f.mod5.toNat || 64 ≤ f.imm24.toNat }

/-- The counter that a field names; 6 names none (R311). -/
def ctrOf (f : FmtM) : Option Nat := if f.ctr.toNat < 6 then some f.ctr.toNat else none

/-! ## Where an access lands (R78 to R80, R426) -/

inductive Place where
  | trap (code : Nat)
  | bank (b off : Nat)
  | mem (p : Phys)
  | walk
  | fault (cause id : Nat)
  deriving DecidableEq, Repr

def globalEnd : Nat := 2 ^ 56
def storageEnd : Nat := 2 ^ 56 + 0x200000
def stackBase : Nat := 2 ^ 56 + 2 ^ 48
def stackEnd : Nat := stackBase + 0x100000

/-- The bytes belong to the log of a wave of the unit with a lane in a transaction (R323). -/
def State.logHit (s : State) (u : WorkUnit) (o n : Nat) : Bool :=
  (List.range u.slots.length).any fun i =>
    let lo := u.sbanks * 65536 - (i + 1) * u.txlog * 256
    u.alive.contains (u.slots.getD i 0) && (s.wx (u.widAt i)).tx ≠ [] && o < lo + u.txlog * 256 && lo < o + n

/-- The place of a stack byte (R80); the leaf-free checks of R81. -/
def State.stackPlace (s : State) (w lane o n : Nat) : Place :=
  let cfg := (s.die (dieOf w)).stkcfg
  let k := fieldN cfg 0 5
  if k = 0 ∨ 2 ^ k ≤ o then .trap 0x07
  else if o % n ≠ 0 then .trap 0x06
  else
    let ra := fieldN cfg 16 36 * 65536 + (w * 32 + lane) * 2 ^ k + o
    if !(s.realOk ra) ∨ (keptFrom ≤ ra ∧ ra < hbmEnd) then .fault 5 s.nextId
    else .mem ⟨⟨0, 0, 0, ra⟩, 0, 0, false, []⟩

/-- Where `n` bytes at a lane's effective address lie, or what stops the lane: APERTURE, MISALIGNED, BANK_MODE, then
translation. -/
def State.place (s : State) (w lane va n : Nat) (k : AccKind) : Place :=
  match s.unitOf w with
  | none => .trap 0x07
  | some u =>
    if va < globalEnd then
      if va % n ≠ 0 then .trap 0x06
      else match s.xlate w va n k with
        | .walk => .walk
        | .fault c id => .fault c id
        | .ok p => .mem p
    else if va < storageEnd then
      let o := va - globalEnd
      let b := o / 65536
      if u.nbanks ≤ b || s.logHit u o n then .trap 0x07
      else if o % n ≠ 0 then .trap 0x06
      else if ((s.core u.core).bank (u.phys b)).mode ≠ .storage then .trap 0x08
      else .bank b (o % 65536)
    else if stackBase ≤ va ∧ va < stackEnd then s.stackPlace w lane (va - stackBase) n
    else .trap 0x07

/-- The address that TRAPADDR shows for a trap of an access (R374). -/
def trapAddr (code va : Nat) : Nat := if code = 0x06 ∨ code = 0x07 then va else 0

/-- How a lane's access to the global window stands toward its transaction (R326, R327). -/
inductive TxMode where
  | plain | tx | gone
  deriving DecidableEq, Repr

/-- The page of an address is one of TARGET 0 and alias op 0, as far as the core knows its leaf. -/
def State.plainPage (s : State) (w va : Nat) : Option Bool :=
  match s.knows w (va / 65536) with
  | .entry e => some (leafTgt e.leaf = 0 && leafAlop e.leaf = 0)
  | .cause _ _ => some true
  | .miss => none

def State.txMode (s : State) (w lane va : Nat) : TxMode :=
  if globalEnd ≤ va then .plain
  else if s.inTx w lane then .tx
  else if (Tbl.find (s.wx w).txGone lane).isSome && s.plainPage w va = some true then .gone
  else .plain

/-! ## Waits at the home -/

/-- The access needs a byte from its home: the core holds no younger value of it. -/
def State.needsHome (s : State) (core asid : Nat) (alloc : Bool) (l : Loc) (n : Nat) : Bool :=
  (List.range n).any fun i =>
    let k := { l with ra := l.ra + i }
    s.coreByte core asid alloc k 0#8 ≠ s.coreByte core asid alloc k 1#8

/-- Alias 2 to 4 stores of the core to the line have not been applied (R109). -/
def State.alopPending (s : State) (core line : Nat) : Bool :=
  let hit (e : CellarEntry) : Bool := match e.req with | .alop l _ _ => l.ra / 128 = line | _ => false
  (s.core core).cellar.any hit || s.homes.flight.any fun e => e.core = core && hit e

/-- Atomics of the core on a location's line have not been performed at their home: their writes have no value before (R108,
R109). -/
def State.atomPending (s : State) (core : Nat) (l : Loc) : Bool :=
  let hit (e : CellarEntry) : Bool :=
    match e.req with
    | .atomic k _ => k.tgt = l.tgt && k.chip = l.chip && k.alop = l.alop && k.ra / 128 = l.ra / 128
    | _ => false
  (s.core core).cellar.any hit || s.homes.flight.any fun e => e.core = core && hit e

/-- The lane of a serial turn holds the line itself. -/
def State.ownLock (s : State) (w lane : Nat) (l : Loc) : Bool :=
  s.homes.locks.any fun k => k.line = l.ra / 128 && k.wid = w && k.lane = lane

/-- What keeps a read from its home: a lock of another lane (R128), a scrub (R388), a relock (R16), a recovering port (R406),
alias stores and atomics of the core (R108, R109). -/
def State.stops (s : State) (w lane : Nat) (l : Loc) : Option Wait :=
  let core := coreOf w
  if (l.tgt = 1 ∨ l.tgt = 3) ∧ s.wayStops l then some (.peer l.chip l.ra)
  else if 2 ≤ l.alop && l.alop ≤ 4 && s.alopPending core (l.ra / 128) then some (.alias24 (l.ra / 128))
  else if s.atomPending core l && !(s.ownLock w lane l) then some (.atoms l)
  else if s.lockedBy w lane l then some (.lines [l.ra / 128])
  else if s.homeStops l then some (.scrub (homeSlice l.ra / 2) (lineQuadrant l.ra))
  else none

/-- The access needs its home. -/
def State.goesHome (s : State) (w : Nat) (m : TxMode) (load : Bool) (p : Phys) (n pol : Nat) : Bool :=
  let core := coreOf w
  m = .tx || (load && s.needsHome core (s.ctx (s.ctxOf w)).asid (s.allocates core p pol) p.loc n)

/-- What a lane's access waits for before it is performed. -/
def State.hold (s : State) (w lane : Nat) (m : TxMode) (load : Bool) (p : Phys) (n pol : Nat) : Option Wait :=
  if s.goesHome w m load p n pol then s.stops w lane p.loc else none

/-! ## Performing lanes (R309, R312, R313) -/

/-- An atomic: its operation, scope, whether it is CAS, operand and compare value of a lane, destination register. -/
structure AtomCall where
  op : Nat
  cas : Bool
  scope : Nat
  b : Nat → Nat
  cmp : Nat → Nat
  dst : Option Nat

/-- A memory access of an instruction: its direction, size, counter, cache policy, whether one access stands for all
lanes, each lane's address, the bytes it stores, and the registers that loaded bytes go to. -/
structure MemCall where
  load : Bool
  n : Nat
  ctr : Option Nat
  pol : Nat
  once : Bool := false
  addr : Nat → Nat
  data : Nat → List Byte := fun _ => []
  out : Nat → List Byte → List RVal := fun _ _ => []
  atom : Option AtomCall := none
  /-- how many lanes this turn performs, where it is not all (R46) -/
  lim : Option Nat := none

/-- What the lanes performed so far have come to: the state, values on their way, faulting lanes that wait, and faults
of transactional lanes, which have aborted. -/
structure Perf where
  s : State
  vals : List RVal := []
  faults : List LFault := []
  lost : List LFault := []

/-- The destinations of values become empty (R239). -/
def Wave.markVals (x : Wave) (vs : List RVal) : Wave :=
  vs.foldl (fun x v => if v.vec then x.markV v.reg (laneBit v.lane) else x.markS v.reg) x

def MemCall.kind (c : MemCall) : AccKind := if c.atom.isSome then .atomic else if c.load then .load else .store

/-- The atomic is performed in the core's L1 (R321). -/
def MemCall.inL1 (c : MemCall) (s : State) (w : Nat) (p : Phys) : Bool :=
  match c.atom with
  | some t => t.scope ≤ 1 && p.loc.tgt = 0 && s.allocates (coreOf w) p 0
  | none => false

/-- The access reads at issue, in the core or at the home. -/
def MemCall.reads (c : MemCall) (s : State) (w : Nat) (p : Phys) : Bool := c.load || c.inL1 s w p

/-- SLD, SST and atomics are not transactional accesses: lanes that aborted in this clause perform them as usual. -/
def MemCall.mode (c : MemCall) (s : State) (w lane : Nat) : TxMode :=
  if c.once || c.atom.isSome then .plain else s.txMode w lane (c.addr lane)

/-- A load of bytes: its values are on their way. -/
def Perf.loaded (r : Perf) (w : Nat) (vs : List RVal) (s : State) : Perf :=
  { r with s := s.updWave w fun x => x.markVals vs, vals := r.vals ++ vs }

/-- A load's data wait at its home: its registers are empty, and the wave goes on (R311). -/
def MemCall.waits (c : MemCall) (s : State) (w lane : Nat) (m : TxMode) (p : Phys) : Bool :=
  c.load && c.atom.isNone && m = .plain && (s.hold w lane m true p c.n c.pol).isSome

/-- The bytes of a load that the core holds itself. -/
def State.haveBytes (s : State) (core asid uid : Nat) (useL1 : Bool) (l : Loc) (n : Nat) : List (Option Byte) :=
  let b (x : Byte) : List Byte := s.mergeLoad core asid uid useL1 l (List.replicate n x)
  ((b 0#8).zip (b 1#8)).map fun q => if q.1 = q.2 then some q.1 else none

/-- The bytes of a read past the L1 that stand in the core's cellar, or staged (R109, R392). -/
def State.cellarBytes (s : State) (core lid : Nat) (l : Loc) (n : Nat) : List (Option Byte) :=
  let es := s.homes.flight.filter (fun e => e.core = core) ++ (s.core core).cellar
  (List.range n).map fun i =>
    let k := { l with ra := l.ra + i }
    match youngestByte k k.ra es with
    | some b => some b
    | none => s.stagedByte lid k

/-- A load that waits at its home joins its completion record. -/
def State.holdLoad (s : State) (w id lane : Nat) (p : Phys) (pol : Nat) (have_ : List (Option Byte)) (out : List RVal) : State :=
  let (k, s) := s.fresh
  (s.updWave w fun x => x.markVals out).retHold w id ⟨k, lane, p.loc, p.mxf, max pol p.cpol, have_, out, p.vps⟩

/-- A plain access beyond the banks. -/
def MemCall.plain (c : MemCall) (a : At) (r : Perf) (l : Nat) (p : Phys) : Perf :=
  let core := coreOf a.w
  let ctx := r.s.ctxOf a.w
  let asid := (r.s.ctx ctx).asid
  if r.s.wayOf p.loc = .none then
    let s := r.s.postAbandoned p.loc.chip
    if c.load then r.loaded a.w (c.out l (List.replicate c.n 0xFF#8)) s else { r with s := s }
  else if c.load then
    let (b, s) := r.s.coreLoad core asid a.x.uid ctx p c.pol c.n
    r.loaded a.w (c.out l b) s
  else { r with s := r.s.coreStore core asid a.x.uid ctx p c.pol (c.data l) }

/-- An access to a storage bank: while 16 stores are held it waits until the oldest is performed; a store takes an entry of the
forwarding table, and the completion record `id` waits for it (R110). -/
def MemCall.banked (c : MemCall) (a : At) (id : Nat) (r : Perf) (l b off : Nat) : Perf :=
  let core := coreOf a.w
  let q := quadOf a.w
  let s := r.s
  let ph := ((s.unitOf a.w).map fun u => u.phys b).getD 0
  let s := if 16 ≤ ((s.core core).quad q).fwd.length then s.drainOne core q else s
  if c.load then
    r.loaded a.w (c.out l ((List.range c.n).map fun i => s.storageByte a.w core ph (off + i))) s
  else
    let s := s.retMore a.w id
    { r with s := s.updQuad core q fun x =>
        { x with fwd := x.fwd ++ [⟨a.w, core, ph, off, (c.data l).take c.n, id, s.time⟩] } }

/-- A transactional access (R326). -/
def MemCall.txed (c : MemCall) (a : At) (r : Perf) (l va : Nat) (p : Phys) : Perf :=
  if p.loc.tgt ≠ 0 ∨ p.loc.alop ≠ 0 then { r with s := r.s.abortLane a.w l 6 0 }
  else
    match r.s.txAccess a.w l va c.n p.loc (if c.load then none else some ((c.data l).take c.n)) with
    | (none, s) => { r with s := s }
    | (some b, s) => if c.load then r.loaded a.w (c.out l b) s else { r with s := s }

/-- Loaded bytes as register values, zero-extended to whole registers. -/
def loadVals (vec : Bool) (reg regs lane : Nat) (b : List Byte) : List RVal :=
  (List.range regs).map fun i => ⟨vec, reg + i, if vec then lane else 0, BitVec.ofNat 32 (leAt b (4 * i) 4)⟩

/-! ## Atomics (R320, R321, Table 14.4) -/

/-- The new value of an atomic of `n` bytes. -/
def atomNew (op n old b : Nat) : Nat :=
  let w := 8 * n
  match op with
  | 0 => (old + b) % 2 ^ w
  | 1 => (old + 2 ^ w - b % 2 ^ w) % 2 ^ w
  | 2 => if sext w b < sext w old then b else old
  | 3 => if sext w old < sext w b then b else old
  | 4 => min old b
  | 5 => max old b
  | 6 => old &&& b
  | 7 => old ||| b
  | 8 => old ^^^ b
  | 9 => b
  | 10 => if b ≤ old then 0 else old + 1
  | 11 => fAdd old b
  | 12 => bf16Ty.add 0 (old % 65536) (b % 65536) + 65536 * bf16Ty.add 0 (old / 65536) (b / 65536)
  | _ => f32Ty.totalMinmax true old b

/-- What an atomic leaves; none where a CAS does not match. -/
def atomStore (cas : Bool) (op n old cmp b : Nat) : Option Nat :=
  if cas then (if old = cmp then some b else none) else some (atomNew op n old b)

/-- The old value of an atomic on its way to the destination. -/
def atomVals (dst : Option Nat) (n lane old : Nat) : List RVal :=
  match dst with
  | some r => loadVals true r (n / 4) lane (toBytes n old)
  | none => []

/-- One lane of an atomic: in its bank, in the L1, or at its home through the cellar, behind the line's dirty bytes. -/
def MemCall.atomic (c : MemCall) (t : AtomCall) (a : At) (id : Nat) (r : Perf) (l : Nat) (pl : Place) : Perf :=
  let core := coreOf a.w
  let ctx := r.s.ctxOf a.w
  let asid := (r.s.ctx ctx).asid
  let next (old : Nat) : Option Nat := atomStore t.cas t.op c.n old (t.cmp l) (t.b l)
  match pl with
  | .bank b off =>
    let s := r.s.drainFwd core (quadOf a.w)
    let ph := ((s.unitOf a.w).map fun u => u.phys b).getD 0
    let old := ofBytes (((s.core core).bank ph).readN off c.n)
    let s := match next old with
      | some x => (s.updBank core ph fun k => k.write off (toBytes c.n x)).touchStore core ph off c.n
      | none => s
    r.loaded a.w (atomVals t.dst c.n l old) s
  | .mem p =>
    if c.inL1 r.s a.w p then
      let (bytes, s) := r.s.coreLoad core asid a.x.uid ctx p 0 c.n
      let old := ofBytes bytes
      let s := match next old with
        | some x => s.coreStore core asid a.x.uid ctx p 0 (toBytes c.n x)
        | none => s
      r.loaded a.w (atomVals t.dst c.n l old) s
    else
      let s := match (r.s.core core).line p.loc asid with
        | some x => (r.s.writeBack core x).dropLine core x
        | none => r.s
      let req : AtomReq :=
        { wid := a.w, ret := id, reg := t.dst, lane := l, n := c.n, op := t.op, cas := t.cas, cmp := t.cmp l, b := t.b l,
          scope := t.scope }
      let s := (s.retMore a.w id).push core a.x.uid ctx (s.lidOf a.w) (.atomic p.loc req) (p.cpol = 2) p.vps
      { r with s := s.updWave a.w fun x => x.markVals (atomVals t.dst c.n l 0) }
  | _ => r

/-- A leaf of TARGET 2 takes ALIAS_USE for the operations that PCIe has not (R321). -/
def MemCall.hostOp (c : MemCall) (pl : Place) (s : State) : Place :=
  match c.atom, pl with
  | some t, .mem p => if p.loc.tgt = 2 ∧ !t.cas ∧ t.op ≠ 0 ∧ t.op ≠ 9 then .fault 6 s.nextId else pl
  | _, _ => pl

/-- Where a lane's access lands. -/
def MemCall.at_ (c : MemCall) (s : State) (w l : Nat) : Place := c.hostOp (s.place w l (c.addr l) c.n c.kind) s

/-- One lane of the instruction. -/
def MemCall.lane (c : MemCall) (a : At) (id : Nat) (r : Perf) (l : Nat) : Perf :=
  let va := c.addr l
  match c.mode r.s a.w l with
  | .gone => r
  | m =>
    match c.at_ r.s a.w l with
    | .trap _ => r
    | .walk => r
    | .bank b off => match c.atom with
      | some t => c.atomic t a id r l (.bank b off)
      | none => c.banked a id r l b off
    | .mem p =>
      let r := { r with s := r.s.countMig p }
      match c.atom with
      | some t => c.atomic t a id r l (.mem p)
      | none =>
        if m = .tx then c.txed a r l va p
        else if c.waits r.s a.w l m p then
          let core := coreOf a.w
          let own := r.s.haveBytes core (r.s.ctx (r.s.ctxOf a.w)).asid a.x.uid (r.s.allocates core p c.pol) p.loc c.n
          { r with s := r.s.holdLoad a.w id l p c.pol own (c.out l (List.replicate c.n 0#8)) }
        else c.plain a r l p
    | .fault cause fid =>
      if m = .tx ∧ r.s.plainPage a.w va = some false then { r with s := r.s.abortLane a.w l 6 0 }
      else if m = .tx then
        let f : LFault := ⟨l, va, cause, fid, if c.load then 4 else 5⟩
        { r with s := r.s.abortLane a.w l 8 0, lost := r.lost ++ [f] }
      else
        let vs := c.out l (List.replicate c.n 0#8)
        { r with s := r.s.updWave a.w fun x => x.markVals vs,
                 faults := r.faults ++ [⟨l, va, cause, fid, c.kind.code⟩] }

/-- Every byte of a list of lanes that is read from a storage bank without an uncorrectable error (R408). -/
def MemCall.badBank (c : MemCall) (s : State) (w : Nat) (ps : List (Nat × Place)) : Bool :=
  (c.load || c.atom.isSome) && ps.any fun p => match p.2 with
    | .bank b off =>
      let ph := ((s.unitOf w).map fun u => u.phys b).getD 0
      ((s.core (coreOf w)).bank ph).bad.any fun i => off ≤ i && i < off + c.n
    | _ => false

/-- The first lane that reads poison from its home, and whether all that the lanes so read lies in the write regions of
the launch (R410). -/
def MemCall.poison (c : MemCall) (s : State) (w : Nat) (ps : List (Nat × Place)) : Option (Nat × Bool) :=
  let core := coreOf w
  let asid := (s.ctx (s.ctxOf w)).asid
  let hits := ps.filterMap fun p => match p.2 with
    | .mem q =>
      if c.reads s w q && s.locPoisoned q.loc q.mxf c.n && s.needsHome core asid (s.allocates core q c.pol) q.loc c.n then
        some (q.loc.ra, s.inRegions (s.lidOf w) (c.addr p.1 / 32 * 32) (ceilDiv (c.addr p.1 % 32 + c.n) 32 * 32))
      else none
    | _ => none
  match hits with
  | [] => none
  | h :: t => some (h.1, h.2 && t.all fun x => x.2)

/-- The reads of the lanes reach their homes: armed errors and expansion checks (R101, R442). -/
def MemCall.meets (c : MemCall) (s : State) (w : Nat) (ps : List (Nat × Place)) : State :=
  let core := coreOf w
  let asid := (s.ctx (s.ctxOf w)).asid
  ps.foldl (fun s p => match p.2 with
    | .mem q =>
      if c.reads s w q && s.needsHome core asid (s.allocates core q c.pol) q.loc c.n then s.meet q.loc c.n else s
    | _ => s) s

/-- The completion of an instruction whose lanes were performed: its record gives up the request that stands for the
instruction itself, or keeps it while lanes wait on faults or for the next turn. -/
def MemCall.finish (c : MemCall) (a : At) (id : Nat) (rest : LaneMask) (r : Perf) : Eff :=
  let s := r.s.retVals a.w id r.vals
  let s := if r.lost = [] then s else s.postGroup a.w r.lost a.e.pc.toNat
  if r.faults = [] then
    if rest = 0 then .next (s.retLess a.w id)
    else .wait (.counters []) (s.updIssuing a.w fun e => { e with ret := id, left := some rest })
  else
    let left := if c.once then a.act else maskOfList (r.faults.map (·.lane)) ||| rest
    faultWait a (s.updIssuing a.w fun e => { e with ret := id }) r.faults left

/-- The requests of a core that are outstanding (R13): those that have left its cellar and are not performed, and the loads, lane by
lane, whose data have not come. -/
def State.outstanding (s : State) (core : Nat) : Nat :=
  let lanes (r : Ret) : List Nat := (r.vals.map (·.lane) ++ r.held.map (·.lane)).eraseDups
  let loads (w : Nat) : Nat := (s.wx w).returns.foldl (fun n r => n + (lanes r).length) 0
  (s.homes.flight.filter fun e => e.core = core).length
    + (List.range 96).foldl (fun n i => n + loads (core * 96 + i)) 0

/-- THE COURSE OF A MEMORY ACCESS: what it waits for, the traps of its lanes, and the performing of the others in
ascending lane order. -/
def MemCall.run (c : MemCall) (a : At) (s : State) : Eff :=
  let fresh := a.e.left.isNone
  let steps := if c.once then 1 else 32
  if fresh && steps ≤ a.e.done then .next (s.raiseAll a.w [(a.act, 0x02, 0)])
  else
    let todo :=
      if c.once then [lowestLane a.e.mask] else (lanesOf a.act).filter fun l => !fresh || a.e.done ≤ l
    let turn := match c.lim with | some k => max 1 k | none => 32
    let lanes := todo.take turn
    let rest := maskOfList (todo.drop turn)
    let named := maskOfList ((lanes.map c.addr).filterMap fun va =>
      if globalEnd ≤ va ∧ va < storageEnd then some ((va - globalEnd) / 65536) else none)
    let had (va : Nat) : Option Nat :=
      if globalEnd ≤ va ∧ va < storageEnd then s.hadFor a.w ((va - globalEnd) / 65536) ((va - globalEnd) % 65536) c.n else none
    if s.modeBusy a.x.uid named then .wait (.banks named s.nextId) s
    else
    match (lanes.map c.addr).findSome? had with
    | some i => .wait (.hadamard i) s
    | none =>
      let busy := match c.ctr with | some k => fresh && 63 ≤ a.x.dcGet k | none => false
      if busy then .wait (.counters [(c.ctr.getD 0, 62)]) s
      else
        let live := lanes.filter fun l => c.mode s a.w l ≠ .gone
        let ps := live.map fun l => (l, c.at_ s a.w l)
        match ps.find? fun p => p.2 = .walk with
        | some (l, _) =>
          let ctx := s.ctxOf a.w
          .wait (.walk (s.ctx ctx).asid (c.addr l / 65536)) (s.walkFor (coreOf a.w) ctx (c.addr l))
        | none =>
          let later (p : Nat × Place) : Bool :=
            match p.2 with | .mem q => c.waits s a.w p.1 (c.mode s a.w p.1) q | _ => false
          let waits := (ps.filter fun p => !(later p)).filterMap fun p => match p.2 with
            | .mem q => s.hold a.w p.1 (c.mode s a.w p.1) (c.reads s a.w q) q c.n c.pol
            | _ => none
          match waits with
          | x :: _ => .wait x s
          | [] =>
            if !((s.core (coreOf a.w)).room (2 * lanes.length)) then .wait (.room (2 * lanes.length)) s
            else if 512 < s.outstanding (coreOf a.w) + lanes.length then .wait (.requests lanes.length) s
            else if c.badBank s a.w ps then
              .gone (s.machineTrap a.w 4 0x0C (detailOf [(0, toBytes 1 2), (1, toBytes 1 1), (2, toBytes 1 3)]))
            else
              let now := ps.filter fun p => !(later p)
              let s := c.meets s a.w now
              match c.poison s a.w now with
              | some (addr, within) => .gone (s.poisonTrap a.w addr within)
              | none =>
                let traps := ps.filterMap fun p => match p.2 with
                  | .trap code => some (p.1, code, trapAddr code (c.addr p.1))
                  | _ => none
                let s := if c.once then s.raiseAll a.w (traps.map fun t => (a.act, t.2)) else s.trapLanes a.w traps
                let ok := if c.once ∧ traps ≠ [] then [] else lanes.filter fun l => !(traps.any fun t => t.1 = l)
                if ok = [] ∧ rest = 0 then .next (if fresh then s else s.retLess a.w a.e.ret)
                else
                  let (id, s) :=
                    if fresh then
                      let (id, s) := s.fresh
                      let s := match c.ctr with | some k => s.incDc a.w k | none => s
                      (id, s.updWx a.w fun y =>
                        { y with returns := y.returns ++ [{ id := id, vals := [], pend := 1, ctr := c.ctr, lanes := a.act, load := c.load || c.atom.isSome }] })
                    else (a.e.ret, s)
                  c.finish a id rest (ok.foldl (c.lane a id) { s := s })

/-! ## The instructions -/

/-- The effective address of a lane of an M-format instruction (R308). -/
def effAddr (x : Wave) (f : FmtM) (l : Nat) : Nat :=
  wrapN 64 (((x.src64 f.addr l).toNat : Int) + sext 9 f.off9.toNat * (memBytes f : Int))

/-- The address that an LDS or STS stands for (R314). -/
def storageAddr (x : Wave) (f : FmtM) (l : Nat) : Nat :=
  globalEnd + wrapN 32 (((x.src .int f.addr l).toNat : Int) + sext 9 f.off9.toNat * (memBytes f : Int))

def operandReg (o : Operand) : Nat := match o with | .vec n => n.toNat | .sca n => n | _ => 0

/-- The bytes of a store's data operand in a lane (R309). -/
def storeBytes (x : Wave) (o : Operand) (n l : Nat) : List Byte :=
  ((List.range (max 1 (n / 4))).flatMap fun i => toBytes 4 (x.srcN o i l).toNat).take n

def vecLoad (f : FmtM) (pol : Nat) (addr : Nat → Nat) : MemCall :=
  { load := true, n := memBytes f, ctr := ctrOf f, pol := pol, addr := addr,
    out := fun l b => loadVals true (operandReg f.data) (memRegs f) l b }
def vecStore (x : Wave) (f : FmtM) (pol : Nat) (addr : Nat → Nat) : MemCall :=
  { load := false, n := memBytes f, ctr := ctrOf f, pol := pol, addr := addr,
    data := fun l => storeBytes x f.data (memBytes f) l }

/-- LD (R313), some lanes of it or all. -/
def ldRun (lim : Option Nat) (f : FmtM) (s : State) : Out :=
  issueP f.guard f.neg (sigLd f) s fun a s => { vecLoad f f.cpol.toNat (effAddr a.x f) with lim := lim }.run a s
/-- LD (R313). -/
def execLd (f : FmtM) (s : State) : Out := ldRun none f s
/-- ST (R313), some lanes of it or all. -/
def stRun (lim : Option Nat) (f : FmtM) (s : State) : Out :=
  issueP f.guard f.neg (sigSt f) s fun a s => { vecStore a.x f f.cpol.toNat (effAddr a.x f) with lim := lim }.run a s
/-- ST (R313). -/
def execSt (f : FmtM) (s : State) : Out := stRun none f s
/-- LDS (R314). -/
def execLds (f : FmtM) (s : State) : Out :=
  issueP f.guard f.neg (sigLds f) s fun a s => (vecLoad f 0 (storageAddr a.x f)).run a s
/-- STS (R314). -/
def execSts (f : FmtM) (s : State) : Out :=
  issueP f.guard f.neg (sigSts f) s fun a s => (vecStore a.x f 0 (storageAddr a.x f)).run a s
/-- The address of a lane of LDB and STB (R315). -/
def blockAddr (x : Wave) (f : FmtM) (l : Nat) : Nat := (effAddr x f l + l * memBytes f) % 2 ^ 64
/-- LDB (R315), some lanes of it or all. -/
def ldbRun (lim : Option Nat) (f : FmtM) (s : State) : Out :=
  issueP f.guard f.neg (sigLdb f) s fun a s => { vecLoad f f.cpol.toNat (blockAddr a.x f) with lim := lim }.run a s
/-- LDB (R315). -/
def execLdb (f : FmtM) (s : State) : Out := ldbRun none f s
/-- STB (R315), some lanes of it or all. -/
def stbRun (lim : Option Nat) (f : FmtM) (s : State) : Out :=
  issueP f.guard f.neg (sigStb f) s fun a s => { vecStore a.x f f.cpol.toNat (blockAddr a.x f) with lim := lim }.run a s
/-- STB (R315). -/
def execStb (f : FmtM) (s : State) : Out := stbRun none f s

/-- The lanes of the issuing entry in a transaction abort, and nothing is accessed (R261). -/
def noTxEntry (a : At) (s : State) (body : At → State → Eff) : Eff :=
  let t := s.txLanes a.w a.e.mask
  if t = 0 then body a s else .next (s.abortLanes a.w t 6 0)

/-- SLD (R261). -/
def execSld (f : FmtM) (s : State) : Out :=
  issueQ f.guard f.neg (sigSld f) s fun a s => noTxEntry a s fun a s =>
    let c : MemCall :=
      { load := true, n := memBytes f, ctr := ctrOf f, pol := f.cpol.toNat, once := true, addr := effAddr a.x f,
        out := fun _ b => loadVals false (operandReg f.data) (memRegs f) 0 b }
    c.run a s
/-- SST (R261). -/
def execSst (f : FmtM) (s : State) : Out :=
  issueQ f.guard f.neg (sigSst f) s fun a s => noTxEntry a s fun a s =>
    let c : MemCall :=
      { load := false, n := memBytes f, ctr := ctrOf f, pol := f.cpol.toNat, once := true, addr := effAddr a.x f,
        data := fun l => storeBytes a.x f.data (memBytes f) l }
    c.run a s

/-- SLDK (R262): a read past the L1, of the global window only: of bytes in the core's cellar (R109), else at the home. -/
def execSldk (f : FmtB) (s : State) : Out :=
  issueQ f.guard f.neg (sigSldk f) s fun a s =>
    let n := if sldkPair f then 8 else 4
    let va := ((a.x.sSrc64 f.srcA).toNat + f.imm24.toNat) % 2 ^ 64
    match globalTrap va n n with
    | some c => .next (s.raiseAll a.w [(a.act, c, va)])
    | none =>
      let ctx := s.ctxOf a.w
      let core := coreOf a.w
      let vs := loadVals false (operandReg f.dst) (n / 4) 0 (List.replicate n 0#8)
      match s.xlate a.w va n .load with
      | .walk => .wait (.walk (s.ctx ctx).asid (va / 65536)) (s.walkFor core ctx va)
      | .fault c id => faultWait a (s.updWave a.w fun x => x.markVals vs) [⟨lowestLane a.act, va, c, id, 0⟩] a.act
      | .ok p =>
        let s := s.countMig p
        if (s.stops a.w 32 p.loc).isNone && s.locPoisoned p.loc p.mxf n then
          .gone (s.poisonTrap a.w p.loc.ra (s.inRegions (s.lidOf a.w) (va / 32 * 32) 32))
        else
          let (id, s) := s.fresh
          let s := s.updWx a.w fun y => { y with returns := y.returns ++ [{ id := id, vals := [], pend := 0, ctr := none, lanes := a.act }] }
          .next (s.holdLoad a.w id 32 p 1 (s.cellarBytes core (s.lidOf a.w) p.loc n) vs)

/-- The lines of a lane of PREF, where its pages let it (R316): none where it would fault, or where a page has an alias op or
TARGET 2 or 3. -/
def State.prefLines (s : State) (w va n : Nat) : Option (List Phys) :=
  let ctx := s.ctxOf w
  let one (i : Nat) : Option Phys :=
    let a := (va / 128 + i) * 128
    let ph : Option Phys := match s.xlate w a 1 .load with
      | .ok p => some p
      | .fault _ _ => none
      | .walk => match s.translate ctx a 1 .load with | .ok p => some p | .error _ => none
    match ph with
    | some p => if 2 ≤ p.loc.tgt ∨ p.loc.alop ≠ 0 then none else some p
    | none => none
  if 2 ^ 56 < va + n then none
  else
    let ps := (List.range ((va + n - 1) / 128 + 1 - va / 128)).map one
    if ps.all Option.isSome then some (ps.filterMap id) else none

/-- PREF (R316): fetch the lines of one lane; a line that waits at its home is left. -/
def State.prefetch (s : State) (w va n pol : Nat) : State :=
  let core := coreOf w
  let ctx := s.ctxOf w
  let one (s : State) (p : Phys) : State :=
    let l := p.loc
    let held := s.locked l || s.homeStops l || s.wayOf l ≠ .up || s.locPoisoned l p.mxf 128 || s.atomPending core l
    if held then s
    else if pol = 1 || !(s.allocates core p 0) || !((s.core core).room 1) then
      (if p.cpol ≤ 1 then s.fillL2 l (s.readLoc l p.mxf 128) else s)
    else (s.coreLoad core (s.ctx ctx).asid (s.wave w).uid ctx p 0 128).2
  ((s.prefLines w va n).getD []).foldl one s

def execPref (f : FmtM) (s : State) : Out :=
  issueP f.guard f.neg (sigPref f) s fun a s =>
    let lanes := (lanesOf a.act).filter fun l => !(s.inTx a.w l)
    .next (lanes.foldl (fun s l => s.prefetch a.w (effAddr a.x f l) (memBytes f) f.cpol.toNat) s)

/-! ## VTOS (R263) -/

/-- VTOS whose sources have filled give their values. -/
def State.settleVtos (s : State) (w : Nat) : State :=
  (s.wx w).vtos.foldl (fun s p =>
    let x := s.wave w
    let n := if p.pair then 2 else 1
    if (List.range n).all fun i => !(inMask (x.vEmpty (p.src + i)) p.lane) then
      let put (x : Wave) (i : Nat) : Wave := (x.sSet (p.dst + i) (x.vGet (p.src + i) p.lane)).fillS (p.dst + i)
      let s := s.updWave w fun x => (List.range n).foldl put x
      s.updWx w fun y => { y with vtos := y.vtos.filter (· ≠ p) }
    else s) s

/-- VTOS (R263). -/
def execVtos (f : FmtB) (s : State) : Out :=
  issueQ f.guard f.neg (sigVtos f) s fun a s =>
    let n := if sldkPair f then 2 else 1
    let lane := if f.imm24.getLsbD 5 then lowestLane a.e.mask else f.imm24.toNat % 32
    let src := operandReg f.srcA
    let empty := (List.range n).any fun i => inMask (a.x.vEmpty (src + i)) lane
    if empty && f.tA then .next (s.raiseAll a.w [(a.act, 0x04, 0)])
    else
      let hit := if empty then [] else a.x.struck ((List.range n).map fun i => (src + i, laneBit lane)) []
      match (if hit = [] then (false, s) else s.checkReads a.w hit) with
      | (true, s) => .gone s
      | (false, s) =>
        match f.dst with
        | .sca d =>
          if empty then
            let s := s.updWave a.w fun x => (List.range n).foldl (fun x i => x.markS (d + i)) x
            .next (s.updWx a.w fun y => { y with vtos := y.vtos ++ [⟨src, lane, d, n = 2⟩] })
          else
            .next (s.updWave a.w fun x => (List.range n).foldl (fun x i => x.sSet (d + i) (x.vGet (src + i) lane)) x)
        | _ => .next s

/-! ## LOAD_DATA_RETURN (R239, R240) -/

/-- A value arrives: it is written, and its register is full. -/
def Wave.deliver (x : Wave) (v : RVal) : Wave :=
  if v.vec then (x.vSet v.reg (laneBit v.lane) fun _ => v.val).fillV v.reg (laneBit v.lane)
  else (x.sSet v.reg v.val).fillS v.reg

/-- The values that have come for a record are delivered. -/
def State.deliver (s : State) (w id : Nat) : State :=
  match (s.wx w).returns.find? fun r => r.id = id && !r.gate with
  | none => s
  | some r =>
    let s := (s.updWave w fun x => r.vals.foldl Wave.deliver x).noteWrites w ((r.vals.filter (·.vec)).map (·.reg))
    let s := s.updWx w fun y => { y with returns := y.returns.map fun q => if q.id = id then { q with vals := [] } else q }
    (s.settleVtos w).reap w id

/-- The loads of a wave that wait at their homes. -/
def State.heldLoads (s : State) (w : Nat) : List HeldLoad := (s.wx w).returns.flatMap (·.held)

/-- Commit data of the load's own core that entered the cellar after it hold the line for it no more: they wait for it. -/
def State.heldStops (s : State) (w : Nat) (h : HeldLoad) : Bool :=
  let core := coreOf w
  let mine (p : Apply) : Bool :=
    let own (e : CellarEntry) : Bool := e.core = core && h.id < e.id && (match e.req with | .apply q => q.id = p.id | _ => false)
    (s.core core).cellar.any own || s.homes.flight.any own
  let ours := ((s.core core).cellar ++ s.homes.flight).filterMap fun e => match e.req with | .apply p => if mine p then some (applyLock p.id) else none | _ => none
  let t := s.updHomes fun x => { x with locks := x.locks.filter fun k => !(ours.contains k.wid) }
  (t.stops w h.lane h.loc).isSome

/-- The home answers a load that waited at it: once nothing stops it, after the earlier ones of its wave to the line. -/
def State.heldRun (s : State) (w id : Nat) : State :=
  let all := s.heldLoads w
  let first (h : HeldLoad) : Bool := !(all.any fun x => x.id < h.id && lineLoc x.loc = lineLoc h.loc)
  match (((s.wx w).returns.find? fun r => r.id = id).map (·.held)).bind fun hs => hs.find? fun h => first h && !(s.heldStops w h) with
  | none => s
  | some h =>
    let n := h.have_.length
    let s := s.meet h.loc n
    if s.locPoisoned h.loc h.mxf n then s.poisonTrap w h.loc.ra false
    else
      let gone := s.wayOf h.loc = .none
      let s := if gone then s.postAbandoned h.loc.chip else s.readyLoc h.loc
      let home := if gone then List.replicate n 0xFF#8 else s.readLoc h.loc h.mxf n
      let b := (h.have_.zip home).map fun q => q.1.getD q.2
      let vs := ((List.range h.out.length).zip h.out).map fun q => { q.2 with val := BitVec.ofNat 32 (leAt b (4 * q.1) 4) }
      let s := if h.pol ≤ 1 ∧ !gone then s.fillL2 h.loc home else s
      let cut (r : Ret) : Ret := { r with held := r.held.filter fun x => x.id ≠ h.id }
      ((s.dropClean (coreOf w) h.loc n).updWx w fun y => { y with returns := y.returns.map cut }).retVals w id vs

/-- LOAD_DATA_RETURN. -/
def execLoadDataReturn (w k : Nat) (s : State) : Out := .next ((s.heldRun w k).deliver w k)

end Sys2Proof.Machine
end

