-- ==== Sys2Proof/Machine/Atomics.lean ====
section
/-! DEFINITION. Fences, cache maintenance, atomics and transactions: R113 to R119, R126 to R129, R318 to R333. -/

namespace Sys2Proof.Machine

/-! ## ATOM, RED, CAS (R320 to R322) -/

/-- The sizes that Table 14.4 lists for an operation. -/
def atomSize (op size : Nat) : Bool := (op ≤ 9 && (size = 2 || size = 3)) || (10 ≤ op && op ≤ 13 && size = 2)
def badAtom (f : FmtM) (cas red : Bool) : Bool :=
  badM f || f.cpol ≠ 0 || f.zero5 ≠ 0 || 4 < f.scope || !(atomSize f.atomOp f.size.toNat)
    || (cas && f.atomOp ≠ 0) || (red && f.data ≠ .zero)
def uAtomB (f : FmtM) : Use := uSrc f.data2 f.tD (memRegs f)
def sigAtom (f : FmtM) : Sig :=
  { uses := [uAddr f.addr f.tAddr, uLoadV f, uAtomB f], bad := badAtom f false false, noTx := true }
def sigAtomRed (f : FmtM) : Sig := { uses := [uAddr f.addr f.tAddr, uAtomB f], bad := badAtom f false true, noTx := true }
def sigCas (f : FmtM) : Sig :=
  { uses := [uAddr f.addr f.tAddr, { uLoadV f with rd := true }, uAtomB f], bad := badAtom f true false, noTx := true }

/-- The shared course of the three: group 5 takes the address pair as it stands (R308). An inline constant of a float operation is
read as its element type (R237). -/
def atomRun (f : FmtM) (cas red : Bool) (a : At) (s : State) : Eff :=
  let n := memBytes f
  let word (o : Operand) (l : Nat) : Nat := ofBytes (storeBytes a.x o n l)
  let float : Option CK := match f.atomOp with | 11 => some .f32 | 12 => some .bf16 | 13 => some .f32 | _ => none
  let arg (l : Nat) : Nat := match float with | some k => (a.x.src k f.data2 l).toNat | none => word f.data2 l
  let t : AtomCall :=
    { op := f.atomOp, cas := cas, scope := f.scope, b := arg, cmp := word f.data,
      dst := if red then none else some (operandReg f.data) }
  let c : MemCall :=
    { load := false, n := n, ctr := ctrOf f, pol := 0, addr := fun l => (a.x.src64 f.addr l).toNat,
      out := fun l b => atomVals t.dst n l (ofBytes b), atom := some t }
  c.run a s

/-- ATOM (R320). -/
def execAtom (f : FmtM) (s : State) : Out :=
  issueP f.guard f.neg (sigAtom f) s fun a s => atomRun f false false a s
/-- RED (R320). -/
def execRed (f : FmtM) (s : State) : Out :=
  issueP f.guard f.neg (sigAtomRed f) s fun a s => atomRun f false true a s
/-- CAS (R320). -/
def execCas (f : FmtM) (s : State) : Out :=
  issueP f.guard f.neg (sigCas f) s fun a s => atomRun f true false a s

/-! ## FENCE (R114, R318) -/

def fenceKind (f : FmtB) : Nat := f.imm24.toNat % 4
def fenceScope (f : FmtB) : Nat := f.imm24.toNat / 4 % 8
def sigFence (f : FmtB) : Sig :=
  { bad := f.mod5 ≠ 0 || 32 ≤ f.imm24.toNat || 4 < fenceScope f || (fenceKind f = 3 && fenceScope f ≠ 3), noTx := true }

def Req.tgt : Req → Nat
  | .write l _ _ => l.tgt
  | .alop l _ _ => l.tgt
  | .atomic l _ => l.tgt
  | _ => 0

/-- Every write of the die to TARGET 1 to 3 numbered below `mark` is applied. -/
def State.remoteDone (s : State) (die mark : Nat) : Bool :=
  let out (e : CellarEntry) : Bool := e.id < mark && e.req.tgt ≠ 0
  !((coresOf die).any fun c => (s.core c).cellar.any out) && !(s.homes.flight.any fun e => dieOfCore e.core = die && out e)
    && !(s.homes.egress.any fun f => f.die = die && f.id < mark)

/-- Every write of the context below `mark` that has left a core is applied. -/
def State.leftDone (s : State) (ctx mark : Nat) : Bool := !(s.homes.flight.any fun e => e.ctx = ctx && e.id < mark)

/-- The acquire part. -/
def fenceAcquire (kind scope : Nat) (a : At) (s : State) : Eff :=
  if kind = 1 ∨ kind = 3 then .next s
  else if s.loadsOut a.w a.act then .wait (.returns a.act) (s.setStage a.w 3 0)
  else
    let s := if 2 ≤ scope then s.acquirePass (coreOf a.w) else s
    .next (if scope = 4 then s.acquirePorts (coreOf a.w) else s)

/-- The waits after a release has passed over the L1: stage 1 its own writes, stage 2 its context's. -/
def fenceDrain (kind scope : Nat) (a : At) (stage mark : Nat) (s : State) : Eff :=
  let core := coreOf a.w
  let ctx := s.ctxOf a.w
  if kind = 3 then
    if stage = 1 && !(s.applied core mark) then .wait (.applied core mark) (s.setStage a.w 1 mark)
    else if !(s.leftDone ctx mark) then .wait (.left ctx mark) (s.setStage a.w 2 mark)
    else .next s.l2Flush
  else if scope = 4 && !(s.remoteDone (dieOf a.w) mark) then .wait (.remote (dieOf a.w) mark) (s.setStage a.w 1 mark)
  else fenceAcquire kind scope a s

/-- FENCE: release first, then acquire. -/
def fenceRun (kind scope : Nat) (a : At) (s : State) : Eff :=
  if a.e.stage = 3 then fenceAcquire kind scope a s
  else if a.e.stage ≠ 0 then fenceDrain kind scope a a.e.stage a.e.mark s
  else if kind = 0 then fenceAcquire kind scope a s
  else
    let s := s.drainFwd (coreOf a.w) (quadOf a.w)
    if scope ≤ 1 then fenceAcquire kind scope a s
    else
      match s.releasePass (coreOf a.w) with
      | (s, false) => .wait (.room 1) s
      | (s, true) => fenceDrain kind scope a 1 s.nextId s

/-- FENCE (R318). -/
def execFence (f : FmtB) (s : State) : Out :=
  issueP f.guard f.neg (sigFence f) s fun a s => fenceRun (fenceKind f) (fenceScope f) a s

/-! ## CINV, CWB (R319) -/

def sigCache (f : FmtA) : Sig :=
  { uses := [uScaReg f.srcA f.tA 2, uSca f.srcB f.tB], bad := 2 ≤ f.mod7.toNat, noTx := true }

/-- The real ranges that the lines of a virtual range take, page by page: location of the first line, and bytes. -/
def State.rangeLocs (s : State) (w va n : Nat) : List (Loc × Nat) :=
  let ctx := s.ctxOf w
  let lo := va / 128 * 128
  let hi := (va + n + 127) / 128 * 128
  ((List.range ((hi - 1) / 65536 + 1 - lo / 65536)).map (· + lo / 65536)).filterMap fun page =>
    let a := max lo (page * 65536)
    let b := min hi (page * 65536 + 65536)
    let leaf : Option TlbEntry := match s.knows w page with
      | .entry e => some e
      | .cause _ _ => none
      | .miss => match s.walk ctx page with | .ok e => some e | .error _ => none
    match leaf with
    | none => none
    | some e =>
      let ph := match s.useLeaf e a 1 .load with | .ok p => some p | .error _ => (s.useLeaf e a 1 .store).toOption
      match ph with
      | some p => if p.loc.alop ≠ 0 ∨ 2 ≤ p.loc.tgt then none else some (p.loc, b - a)
      | none => none

def inLocs (ls : List (Loc × Nat)) (l : Loc) : Bool :=
  ls.any fun p => p.1.tgt = l.tgt && p.1.chip = l.chip && p.1.alop = l.alop && p.1.ra ≤ l.ra && l.ra < p.1.ra + p.2

/-- Clean bytes of the L1 lines in the range go. -/
def State.dropRange (s : State) (core asid : Nat) (ls : List (Loc × Nat)) : State :=
  let cut (x : L1Line) : L1Line :=
    if x.asid = asid && inLocs ls x.loc then { x with bytes := x.bytes.filter fun p => p.2.2 } else x
  s.updCore core fun c => { c with l1 := (c.l1.map cut).filter fun x => x.bytes ≠ [] }

/-- The lines of the home L2 in the range: written to DRAM, and invalidated. -/
def State.l2Range (s : State) (ls : List (Loc × Nat)) (inval : Bool) : State :=
  let lines := (Tbl.keys s.homes.l2).filter fun k => inLocs (ls.filter fun p => p.1.tgt = 0) ⟨0, 0, 0, k * 128⟩
  lines.foldl (fun s k => if inval then s.l2Drop k else s.l2Clean k) s

/-- The course of both: the pass over the L1, the wait at `.package`, the pass over the L2. -/
def cacheRun (f : FmtA) (inval : Bool) (a : At) (s : State) : Eff :=
  let va := (a.x.sSrc64 f.srcA).toNat
  let n := (a.x.sSrc .int f.srcB).toNat
  let package := f.mod7.toNat = 1
  let core := coreOf a.w
  let asid := (s.ctx (s.ctxOf a.w)).asid
  if n = 0 then .next s
  else if 2 ^ 56 < va + n then .next (s.raiseAll a.w [(a.act, 0x07, va)])
  else
    let ls := s.rangeLocs a.w va n
    let last (s : State) : Eff :=
      let s := if inval then s.dropRange core asid ls else s
      .next (if package then s.l2Range ls inval else s)
    if a.e.stage ≠ 0 then
      if s.applied core a.e.mark then last s else .wait (.applied core a.e.mark) s
    else
      let dirty := (s.core core).l1.filter fun x => x.isDirty && x.asid = asid && inLocs ls x.loc
      let (s, all) := s.pushLines core dirty
      if !all then .wait (.room 1) s
      else
        let mk := s.nextId
        if package && !(s.applied core mk) then .wait (.applied core mk) (s.setStage a.w 1 mk) else last s

/-- CINV (R319). -/
def execCinv (f : FmtA) (s : State) : Out :=
  issueP1 f.guard f.neg (sigCache f) s fun a s => cacheRun f true a s
/-- CWB (R319). -/
def execCwb (f : FmtA) (s : State) : Out :=
  issueP1 f.guard f.neg (sigCache f) s fun a s => cacheRun f false a s

/-! ## TXBEGIN (R325) -/

def sigTxbegin (f : FmtX) : Sig := { bad := f.link ≠ .zero || f.mod8 ≠ 0 }
def sigTxPlain (f : FmtA) : Sig := { bad := f.mod7 ≠ 0 }
def sigTxabort (f : FmtB) : Sig := { bad := f.mod5 ≠ 0 || 256 ≤ f.imm24.toNat }

/-- The unit banks that `n` bytes of a lane's part of the log lie in are all in STORAGE mode. -/
def State.logIn (s : State) (w lane n : Nat) : Bool :=
  match s.unitOf w with
  | none => false
  | some u =>
    let (b, o) := logPlace u (s.wave w).idx lane
    (List.range ((o + n - 1) / 65536 + 1)).all fun i => ((s.core u.core).bank (u.phys (b + i))).mode = .storage

/-- The bytes of a lane's part. -/
def State.logPart (s : State) (w : Nat) : Nat := s.logUnits w * 8

/-- A lane begins its transaction. -/
def State.txOpen (s : State) (w lane : Nat) (h target : Dword) : State :=
  if s.inTx w lane then s.abortLane w lane 6 0
  else
    let same := s.logRead w lane 0 8 = h.toNat
    let s := if same then s else (s.logWrite w lane 0 8 h.toNat).logWrite w lane 8 1 0
    let serial := s.logRead w lane 9 1 % 2 = 1 || fieldN (s.wx w).txretry 0 8 ≤ s.logRead w lane 8 1
    let s := (s.logWrite w lane 9 1 (2 + boolN serial)).logWrite w lane 12 2 0
    let s := s.updWx w fun y =>
      { y with tx := Tbl.set y.tx lane { target := target, young := 0, serial := serial } }
    if !serial then s
    else s.updCtx (s.ctxOf w) fun c =>
      if c.token.isNone && c.fifo.isEmpty then { c with token := some (fifoKey w lane) }
      else { c with fifo := c.fifo ++ [fifoKey w lane] }

/-- TXBEGIN (R325): a release at PACKAGE whose writes are applied first, an acquire (R129), then the lanes in order. -/
def execTxbegin (f : FmtX) (s : State) : Out :=
  issueP f.guard f.neg (sigTxbegin f) s fun a s =>
    let next := fallThrough a.e.pc a.e.hdr
    let target := xTarget f a.e
    let trapAll (code : Nat) : Eff :=
      .jump (s.raiseAll a.w [(a.act, code, if code = 0x07 then target.toNat else 0)]) [(allLanes, next)] 0
    if s.logUnits a.w < 2 then trapAll 0x02
    else if 2 ^ 56 ≤ target.toNat then trapAll 0x07
    else releaseThen a s fun a s =>
      let s := s.acquirePass (coreOf a.w)
      let out := (lanesOf a.act).filter fun l => !(s.logIn a.w l (s.logPart a.w))
      let s := s.trapLanes a.w (out.map fun l => (l, 0x08, 0))
      let s := ((lanesOf a.act).filter fun l => !(out.contains l)).foldl (fun s l => s.txOpen a.w l a.e.pc target) s
      .jump s [(allLanes, next)] 0

/-! ## TXEND (R328) -/

/-- A lane of a TXEND with its entries and the home addresses of their words, none where one cannot be translated. -/
structure TxSide where
  lane : Nat
  serial : Bool
  young : Nat
  ents : List (TxEnt × Option Nat)
  /-- lines of pages with CPOL 2 -/
  past : List Nat := []
  deriving DecidableEq, Repr

/-- The home of a word of a transaction, for a read or a write. -/
def State.wordPhys (s : State) (w word : Nat) (k : AccKind) : Option Phys :=
  let ph := match s.knows w (word * 8 / 65536) with
    | .entry e => s.useLeaf e (word * 8) 8 k
    | .cause c _ => .error c
    | .miss => s.translate (s.ctxOf w) (word * 8) 8 k
  match ph with
  | .ok p => if p.loc.tgt = 0 && p.loc.alop = 0 then some p else none
  | .error _ => none

def State.txSide (s : State) (w : Nat) (lane : Nat) : TxSide :=
  let t := (Tbl.find (s.wx w).tx lane).getD ⟨0, 0, false⟩
  let home (e : TxEnt) : Option Phys := s.wordPhys w e.word (if e.write then .store else .load)
  let es := (s.txEnts w lane).map fun e => (e, home e)
  ⟨lane, t.serial, t.young, es.map fun e => (e.1, e.2.map (·.loc.ra)),
   es.filterMap fun e => e.2.bind fun p => if p.cpol = 2 then some (p.loc.ra / 128) else none⟩

def TxSide.reads (x : TxSide) (word : Nat) : Bool := x.ents.any fun e => !e.1.write && e.1.word = word
def TxSide.writes (x : TxSide) (word : Nat) : Bool := x.ents.any fun e => e.1.write && e.1.word = word

/-- Another lane of the set writes a word that this lane read. -/
def TxSide.hitBy (x y : TxSide) : Bool := x.ents.any fun e => !e.1.write && y.writes e.1.word

/-- Whether INTRA takes a lane: a serial lane, or an earlier one, writes a word that it read. -/
def TxSide.intra (x : TxSide) (all : List TxSide) : Bool :=
  !x.serial && all.any fun y => y.lane ≠ x.lane && (y.serial || y.lane < x.lane) && x.hitBy y

/-- The lines of the survivors, in ascending (home slice, address). -/
def txLines (xs : List TxSide) : List Nat :=
  let ls := (xs.flatMap fun x => x.ents.filterMap fun e => e.2.map (· / 128)).eraseDups
  sortBy (fun a b => if homeSlice (a * 128) ≠ homeSlice (b * 128) then homeSlice (a * 128) < homeSlice (b * 128) else a < b) ls

/-- The cause that prepare gives a survivor on a line: LOCKED, or VALUE. -/
def State.prepare (s : State) (mine : Nat → Bool) (line : Nat) (x : TxSide) : Option Nat :=
  let foreign := s.homes.locks.any fun k => k.line = line && !(mine (fifoKey k.wid k.lane))
  let on := x.ents.filter fun e => (e.2.map (· / 128)) = some line
  if on = [] then none
  else if foreign then some 2
  else if on.any fun e => !e.1.write && ofBytes (s.homeBytes (e.2.getD 0) 8) ≠ e.1.value then some 1
  else none

/-- Prepare line by line: the survivors left, the lanes aborted with their causes, and the lines locked. -/
def State.prepareAll (s : State) (mine : Nat → Bool) : List Nat → List TxSide → List TxSide × List (Nat × Nat) × List Nat
  | [], xs => (xs, [], [])
  | line :: t, xs =>
    let bad := xs.filterMap fun x => (s.prepare mine line x).map fun c => (x.lane, c)
    let rest := xs.filter fun x => !(bad.any fun b => b.1 = x.lane)
    let foreign := s.homes.locks.any fun k => k.line = line && !(mine (fifoKey k.wid k.lane))
    let (ys, bs, ls) := s.prepareAll mine t rest
    (ys, bad ++ bs, if foreign then ls else line :: ls)

/-- The bytes that survivors write, in ascending lane order. -/
def txCells (xs : List TxSide) : List Host.Cell :=
  xs.flatMap fun x => x.ents.flatMap fun e =>
    if e.1.write then
      ((List.range 8).filter fun i => bitOf e.1.mask i).map fun i =>
        ((e.2.getD 0) + i, BitVec.ofNat 8 (e.1.value >>> (8 * i)))
    else []

/-- A survivor's header, and its end as a transaction. -/
def State.txCommit (s : State) (w lane : Nat) : State :=
  let s := ((s.logWrite w lane 10 1 0).logWrite w lane 8 1 0).logWrite w lane 9 1 0
  s.updWx w fun y => { y with tx := Tbl.del y.tx lane }

/-- The cells of a commit with the last value of each address. -/
def lastCells (l : List Host.Cell) : List Host.Cell :=
  l.foldl (fun m c => (m.filter fun d => d.1 ≠ c.1) ++ [c]) []

/-- The commit of the survivors: locks pass to it, and its writes leave through the cellar (R111). The release delay has
passed since their youngest access, so the entry is dated from it. The core's clean copies of its lines go: later loads of its lanes
wait for the apply (R108, R128). A release at PACKAGE follows its writes (R129). -/
def State.txSend (s : State) (w : Nat) (xs : List TxSide) (lines : List Nat) : State :=
  let cells := lastCells (txCells xs)
  let serial := (xs.find? (·.serial)).map fun x => fifoKey w x.lane
  let s := xs.foldl (fun s x => s.unlock w x.lane) s
  if cells = [] then
    match serial with
    | some k => s.leaveFifo w (k % 32)
    | none => s
  else
    let (id, s) := s.fresh
    let hold := lines.map fun l => (⟨l, applyLock id, 0, false⟩ : Lock)
    let s := s.updHomes fun h => { h with locks := h.locks ++ hold }
    let past := (xs.flatMap (·.past)).eraseDups
    let s := lines.foldl (fun s l => s.dropClean (coreOf w) ⟨0, 0, 0, l * 128⟩ 128) s
    let s := s.push (coreOf w) (s.wave w).uid (s.ctxOf w) (s.lidOf w) (.apply ⟨id, w, lines, cells, serial, xs.map (·.lane), past⟩)
    let young := (xs.map (·.young)).foldl max 0
    let last := s.nextId - 1
    let s := s.updCore (coreOf w) fun c =>
      { c with cellar := c.cellar.map fun e => if e.id = last then { e with t := young } else e }
    (s.updWx w fun y => { y with applies := y.applies ++ [id] }).markRelease (coreOf w)

/-- TXEND (R328). -/
def execTxend (f : FmtA) (s : State) : Out :=
  issueP f.guard f.neg (sigTxPlain f) s fun a s =>
    let broken := (lanesOf a.act).filter fun l => s.inTx a.w l && s.logBad a.w l
    let s := broken.foldl (fun s l => s.logWipe a.w l) s
    let sides := ((lanesOf a.act).filter fun l => s.inTx a.w l).map (s.txSide a.w)
    let due := (sides.filter fun x => x.ents ≠ []).foldl (fun t x => max t (x.young + 640)) 0
    let locs := sides.flatMap fun x => x.ents.filterMap fun e => e.2.map fun r => (⟨0, 0, 0, r⟩ : Loc)
    if sides = [] then .next s
    else if s.time < due then .wait (.time due) s
    else
      match locs.find? s.homeStops with
      | some l => .wait (.scrub (homeSlice l.ra / 2) (lineQuadrant l.ra)) s
      | none =>
        let core := coreOf a.w
        match (if s.epochHeld (dieOfCore core) then (s, false) else s.pushLines core ((s.core core).l1.filter L1Line.isDirty)) with
        | (s, false) => .wait (.room 1) s
        | (s, true) =>
        if !((s.core core).room 1) then .wait (.room 1) s
        else
          let lost := sides.filter fun x => x.ents.any fun e => e.2.isNone
          let intra := sides.filter fun x => x.intra sides && !(lost.contains x)
          let live := sides.filter fun x => !(lost.contains x) && !(intra.contains x)
          let mine (k : Nat) : Bool := live.any fun x => fifoKey a.w x.lane = k
          let (won, bad, lines) := s.prepareAll mine (txLines live) live
          let s := lost.foldl (fun s x => s.abortLane a.w x.lane 8 0) s
          let s := intra.foldl (fun s x => s.abortLane a.w x.lane 4 0) s
          let s := bad.foldl (fun s p => s.abortLane a.w p.1 p.2 0) s
          let s := s.txSend a.w won (lines.filter fun l => won.any fun x => x.ents.any fun e => (e.2.map (· / 128)) = some l)
          .next (won.foldl (fun s x => s.txCommit a.w x.lane) s)

/-- The writes of a commit to one line. -/
def State.applyLine (s : State) (p : Apply) (line : Nat) : State :=
  (p.cells.filter fun c => c.1 / 128 = line).foldl (fun s c => s.writeAt (p.past.contains line) ⟨0, 0, 0, c.1⟩ [c.2] [true]) s

/-- The first line of a commit on its way, in slice order, is applied before the others (R128): its lock opens. -/
def State.applyFirst (s : State) (e : CellarEntry) (p : Apply) : State :=
  match p.lines with
  | l :: m :: rest =>
    let q := { p with lines := m :: rest, cells := p.cells.filter fun c => c.1 / 128 ≠ l }
    let s := (s.applyLine p l).dropClean e.core ⟨0, 0, 0, l * 128⟩ 128
    s.updHomes fun h =>
      { h with locks := h.locks.filter (fun k => !(k.wid = applyLock p.id && k.line = l)),
               flight := h.flight.map fun x => if x.id = e.id then { x with req := .apply q } else x }
  | _ => s

/-- TX_APPLY_COMPLETE (R328): a commit's writes that have left the core are applied at their homes; its lines are
unlocked, the core's clean copies of them go, and a serial lane passes its token. -/
def State.applyCommit (s : State) (e : CellarEntry) (p : Apply) : State :=
  let s := p.lines.foldl (fun s l => s.applyLine p l) s
  let s := s.updHomes fun h =>
    { h with locks := h.locks.filter (fun k => k.wid ≠ applyLock p.id), flight := h.flight.filter fun x => x.id ≠ e.id }
  let mine (x : L1Line) : Bool := x.loc.tgt = 0 && x.loc.alop = 0 && p.cells.any fun c => c.1 / 128 * 128 = x.loc.ra
  let cut (x : L1Line) : L1Line := if mine x then { x with bytes := x.bytes.filter fun q => q.2.2 } else x
  let s := s.updCore e.core fun c => { c with l1 := (c.l1.map cut).filter fun x => x.bytes ≠ [] }
  let s := match p.serial with
    | some k => s.updCtx e.ctx fun c => { c with token := if c.token = some k then none else c.token }
    | none => s
  let mineW := (s.wave p.wid).uid = e.uid
  if mineW then
    let s := s.updWx p.wid fun y => { y with applies := y.applies.filter (· ≠ p.id) }
    if (s.wx p.wid).applies = [] then
      s.updWx p.wid fun y => { y with returns := y.returns.map fun r => { r with gate := false } }
    else s
  else s

/-- The lines that a request touches: target, chip, line. -/
def Req.lines : Req → List (Nat × Nat × Nat)
  | .write l _ _ => [(l.tgt, l.chip, l.ra / 128)]
  | .alop l _ _ => [(l.tgt, l.chip, l.ra / 128)]
  | .atomic l _ => [(l.tgt, l.chip, l.ra / 128)]
  | .apply a => (a.lines.map fun x => (0, 0, x))
  | _ => []

/-- An earlier load of the core waits at the home of a request's line: it reads before the request is applied (R108). -/
def State.heldBefore (s : State) (e : CellarEntry) : Bool :=
  s.wavex.any fun p => p.1 / 96 = e.core && p.2.returns.any fun r => r.held.any fun h =>
    h.id < e.id && e.req.lines.contains (h.loc.tgt, h.loc.chip, h.loc.ra / 128)

/-- The writes that a home write must wait for: those of its own core below its mark, and earlier ones of the core to
the same line (R108, R118); and earlier loads that wait there. -/
def State.earlier (s : State) (e : CellarEntry) : Bool :=
  let mine := e.req.lines
  let before (x : CellarEntry) : Bool :=
    x.core = e.core && (x.id < e.dep || (x.id < e.id && x.req.lines.any mine.contains))
  s.homes.flight.any before || (s.core e.core).cellar.any before || s.heldBefore e

/-- One line of a commit, where it can be applied. -/
def State.txLineApply (s : State) (w : Nat) : State :=
  let mine (e : CellarEntry) : Bool := match e.req with | .apply p => p.wid = w | _ => false
  match s.homes.flight.find? mine with
  | some e =>
    match e.req with
    | .apply p => if s.earlier e || (p.lines.head?.any fun l => s.homeStops ⟨0, 0, 0, l * 128⟩) then s else s.applyFirst e p
    | _ => s
  | none => s

def execTxApplyComplete (w : Nat) (s : State) : Out :=
  let mine (e : CellarEntry) : Bool := match e.req with | .apply p => p.wid = w | _ => false
  match s.homes.flight.find? mine with
  | some e =>
    match e.req with
    | .apply p =>
      if s.earlier e || (p.lines.any fun l => s.homeStops ⟨0, 0, 0, l * 128⟩) then .next s else .next (s.applyCommit e p)
    | _ => .next s
  | none => .next s

/-! ## TXABORT, TXSTAT, TXSERIAL (R329 to R331) -/

/-- TXABORT (R329). -/
def execTxabort (f : FmtB) (s : State) : Out :=
  issueP f.guard f.neg (sigTxabort f) s fun a s =>
    .next (s.abortLanes a.w (s.txLanes a.w a.act) 5 f.imm24.toNat)

def txMask (f : FmtA) : Bool := f.mod7.toNat = 1
def sigTxstat (f : FmtA) : Sig :=
  { uses := [if txMask f then uDst f.dst else uDstV f.dst], bad := 2 ≤ f.mod7.toNat }

/-- The status word of a lane. -/
def State.txWord (s : State) (w lane : Nat) : Nat :=
  let st := s.logRead w lane 9 1
  s.logRead w lane 10 1 % 16 + 16 * (st / 2 % 2) + 32 * (st % 2) + 256 * s.logRead w lane 8 1
    + 65536 * s.logRead w lane 11 1

/-- TXSTAT (R330). -/
def execTxstat (f : FmtA) (s : State) : Out :=
  issueP f.guard f.neg (sigTxstat f) s fun a s =>
    let lanes := if txMask f then List.range 32 else lanesOf a.act
    if s.logUnits a.w < 2 then .next (s.raiseAll a.w [(a.act, 0x02, 0)])
    else if lanes.any fun l => !(s.logIn a.w l 16) then .next (s.raiseAll a.w [(a.act, 0x08, 0)])
    else
      let mask := maskOf fun l => s.logRead a.w l 10 1 % 16 ≠ 0
      let val (l : Nat) : Word := if txMask f then mask else BitVec.ofNat 32 (s.txWord a.w l)
      let vs : List RVal := match f.dst with
        | .vec n => (lanesOf a.act).map fun l => ⟨true, n.toNat, l, val l⟩
        | .sca n => [⟨false, n, 0, mask⟩]
        | _ => []
      let (id, s) := s.fresh
      let gate := (s.wx a.w).applies ≠ []
      let s := s.updWave a.w fun x => x.markVals vs
      .next (s.updWx a.w fun y =>
        { y with returns := y.returns ++ [{ id := id, vals := vs, pend := 0, ctr := none, load := false, gate := gate }] })

/-- TXSERIAL (R331). -/
def execTxserial (f : FmtA) (s : State) : Out :=
  issueP f.guard f.neg (sigTxPlain f) s fun a s =>
    if s.logUnits a.w < 2 then .next (s.raiseAll a.w [(a.act, 0x02, 0)])
    else
      let out := (lanesOf a.act).filter fun l => !(s.logIn a.w l 16)
      let ok := (lanesOf a.act).filter fun l => !(out.contains l)
      let s := s.trapLanes a.w (out.map fun l => (l, 0x08, 0))
      .next (ok.foldl (fun s l =>
        let s := s.abortLane a.w l 5 0xFF
        s.logWrite a.w l 9 1 (s.logRead a.w l 9 1 / 2 * 2 + 1)) s)

/-- A lane of an interrupted frontier leaves its held entry for an ordinary one: a free position takes it. -/
def Handler.unheld (h : Handler) (m : LaneMask) : Handler :=
  match h.intr.find? fun p => p.2.stat = .serial && p.2.mask &&& m ≠ 0 with
  | none => h
  | some p =>
    let rest := p.2.mask &&& ~~~ m
    let e : Entry := { p.2 with mask := p.2.mask &&& m, stat := .ready }
    if rest = 0 then { h with intr := Tbl.set h.intr p.1 e }
    else match (List.range 32).find? fun k => (Tbl.find h.intr k).isNone with
      | some k => { h with intr := Tbl.set (Tbl.set h.intr p.1 { p.2 with mask := rest }) k e }
      | none => h

/-- SERIAL_TOKEN_PASS (R332): the head of the FIFO takes the token, and its lane leaves the held entry, of the frontier or of the
interrupted one. -/
def execSerialTokenPass (ctx : Nat) (s : State) : Out :=
  let c := s.ctx ctx
  match c.token, c.fifo with
  | none, k :: t =>
    let w := k / 32
    let m := laneBit (k % 32)
    let s := s.setCtx ctx { c with token := some k, fifo := t }
    let out (e : Entry) : List Entry :=
      if e.stat = .serial && inMask e.mask (k % 32) then
        [{ e with mask := e.mask &&& ~~~ m }, { e with mask := m, stat := .ready }]
      else [e]
    let s := s.updWave w fun x => x.regroup out
    .next (s.updWx w fun y => { y with handler := y.handler.map (Handler.unheld · m) })
  | _, _ => .next s

end Sys2Proof.Machine
end

