-- ==== Sys2Proof/Machine/Clock.lean ====
section
/-! DEFINITION. The clocks of a die, its operating-point steps, and the hardware limit block's log (R14 to R18, R21,
R22, R222, R439). -/

namespace Sys2Proof.Machine

/-- k of an operating-point index (Table 1.4): the clock is k × 0.3 GHz. -/
def opK (i : Nat) : Nat := i + 2

/-- CYCLE at a time (R18): it stops during a relock. -/
def DieClock.cycle (c : DieClock) (t : Nat) : Nat :=
  match c.relock with
  | some _ => c.cycBase
  | none => c.cycBase + (t - c.cycRef) * 3 * opK c.op / 10

/-- SCYCLE at a time: it advances with CYCLE between steps. -/
def DieClock.scycle (c : DieClock) (t : Nat) : Nat := c.scyBase + (c.cycle t - c.cycBase)

/-- STEPLOG after a step (Table 1.5). -/
def stepLog (old : Dword) (frm dst t : Nat) : Dword :=
  BitVec.ofNat 64 (placeN frm 0 3 + placeN dst 3 3 + placeN (fieldN old 8 8 + 1) 8 8 + placeN t 16 48)

/-- A step begins: the clock stops for 1,500 ns (R16). `r` is REFTIME as the die's own copy reads it (R15). -/
def DieClock.begin_ (c : DieClock) (i t r : Nat) : DieClock :=
  { c with op := i, relock := some (t + 1500, c.op, c.scycle t), held := none, cycBase := c.cycle t,
           scyBase := c.scycle t, cycRef := t, steplog := stepLog c.steplog c.op i r }

/-- A request (R17): discarded when it names the current point, held during a relock. -/
def DieClock.request (c : DieClock) (i t r : Nat) : DieClock :=
  if i = c.op then c
  else match c.relock with
    | some _ => { c with held := some i }
    | none => c.begin_ i t r

/-- The relock ends (R18), and a held request is applied. -/
def DieClock.finish (c : DieClock) (t r : Nat) : DieClock :=
  match c.relock with
  | none => c
  | some (_, old, s) =>
    let c' := { c with relock := none, held := none, cycRef := t,
                       scyBase := s * opK c.op / opK old + 450 * opK c.op }
    match c.held with
    | some i => c'.request i t r
    | none => c'

/-- A refusal or clipping of the limit block: its row's count rises and a LIMIT record is posted (R222, R439). -/
def State.limitEvent (s : State) (row die : Nat) : State :=
  let n := min 0xFFFF (s.hubs.limit.getD row 0 + 1)
  let s := s.updHubs fun h => { h with limit := putAt h.limit row n }
  s.postModule { cls := 13, die := if die < 98 then die else 96 + s.hubs.sched.hub, site := 0,
                 detail := detailOf [(0, toBytes 1 row), (1, toBytes 1 (if die < 98 then die else 0xFF))] }

/-- The thermal step of a LIMIT record without a count: nothing was asked for and refused. -/
def State.thermalRecord (s : State) (die : Nat) : State :=
  s.postModule { cls := 13, die := die, site := 0, detail := detailOf [(0, toBytes 1 0), (1, toBytes 1 die)] }

def State.updClk (s : State) (die : Nat) (f : DieClock → DieClock) : State := s.updDie die fun d => { d with clk := f d.clk }

/-- A request for an operating point reaches a die. -/
def State.stepTo (s : State) (die i : Nat) : State := s.updClk die fun c => c.request i s.time (s.refTime die)

/-- The hardware limit block steps a die down to an index, as at its current ceiling (R21); a step up is none of its. -/
def State.limitStep (s : State) (die i : Nat) : State :=
  if die < 84 ∧ i < (s.die die).clk.op then s.stepTo die i else s

/-- The die that the limit block steps down next: it stands above its fused clock ceiling, as it may when it leaves reset (R21). -/
def State.limitNext (s : State) : Option State :=
  ((List.range 84).find? fun d => (Config.ceiling d).val < (s.die d).clk.op && (s.die d).clk.relock.isNone).map fun d =>
    s.stepTo d (Config.ceiling d).val

/-- STEP_REQUEST (R17, R21): clipped to the fused ceiling. -/
def execStepRequest (die index : Nat) (s : State) : Out :=
  let top := (Config.ceiling die).val
  let i := min index top
  let s := if top < index then s.limitEvent 0 die else s
  .next (s.stepTo die i)

/-- RELOCK_END (R18). -/
def execRelockEnd (die : Nat) (s : State) : Out :=
  match (s.die die).clk.relock with
  | some (t, _, _) => if t ≤ s.time then .next (s.updClk die fun c => c.finish s.time (s.refTime die)) else .next s
  | none => .next s

/-- THERMAL_LIMIT_REACHED (R22): the die is stepped to index 0. -/
def execThermalLimitReached (die : Nat) (s : State) : Out :=
  let s := s.thermalRecord die
  .next (s.updClk die fun c => { (c.request 0 s.time (s.refTime die)) with hotSince := some s.time })

/-- LIMIT_REFUSAL (R222): a firmware attempt of a row is clipped, dropped or ignored, and counted. -/
def execLimitRefusal (row die : Nat) (s : State) : Out :=
  if row < 4 then .next (s.limitEvent row die) else .next s

end Sys2Proof.Machine
end

