-- ==== Sys2Proof/Machine/Create.lean ====
section
/-! DEFINITION. The instructions that create and cancel work (R70, R71, R270, R271). -/

namespace Sys2Proof.Machine

def sigCreate (f : FmtA) : Sig := { uses := [uScaReg f.srcA f.tA 2], bad := f.mod7 ≠ 0 }
/-- The destination of SPAWN in mod7 [59:57]. -/
def spawnDest (f : FmtA) : Nat := f.mod7.toNat % 8
def sigSpawn (f : FmtA) : Sig := { uses := [uScaReg f.srcA f.tA 2], bad := 4 < f.mod7.toNat }
def cancelLevel (f : FmtB) : Nat := f.imm24.toNat % 8
def sigCancel (f : FmtB) : Sig :=
  { uses := [uSca f.srcA f.tA], bad := f.mod5 ≠ 0 || 8 ≤ f.imm24.toNat || cancelLevel f = 0 || 4 < cancelLevel f }

/-- Columns of a row of compute dies, and the neighbour of a die (R10, R270): R8: die = 12 × row + column. -/
def gridCols : Nat := 12
def gridRows : Nat := 7
def neighbour (d dir : Nat) : Option Nat :=
  let r := d / gridCols
  let c := d % gridCols
  match dir with
  | 0 => some d
  | 1 => if r = 0 then none else some (d - gridCols)
  | 2 => if r + 1 = gridRows then none else some (d + gridCols)
  | 3 => if c = 0 then none else some (d - 1)
  | _ => if c + 1 = gridCols then none else some (d + 1)

/-- The shared course: the address is checked, what it names is read, the wave's writes are released, and the request
follows them through the cellar; the instruction ends when it has been taken. A read that faults is a descriptor read,
KIND 8 (R270); the decrement of CARDDEC faults with KIND 2 (R62). -/
def createWork (a : At) (s : State) (va n : Nat) (acc : AccKind) (check : State → List Byte → Bool)
    (req : List Byte → Req) : Eff :=
  if a.e.stage = 2 then
    if s.applied (coreOf a.w) a.e.mark then .next s else .wait (.applied (coreOf a.w) a.e.mark) s
  else
    match globalTrap va n n with
    | some c => .next (s.raiseAll a.w [(a.act, c, va)])
    | none =>
      let send (b : List Byte) (s : State) : Eff :=
        match (s.drainFwd (coreOf a.w) (quadOf a.w)).releasePass (coreOf a.w) with
        | (s, false) => .wait (.room 1) s
        | (s, true) =>
          let id := s.nextId
          let s := s.push (coreOf a.w) a.x.uid (s.ctxOf a.w) (s.lidOf a.w) (req b)
          .wait (.applied (coreOf a.w) (id + 1)) (s.setStage a.w 2 (id + 1))
      readFor a s va n (if acc = .load then 8 else acc.code) acc fun s b =>
        if !(check s b) then .next (s.raiseAll a.w [(a.act, 0x02, 0)])
        else send b s

/-- SPAWN (R70, R270). -/
def execSpawn (f : FmtA) (s : State) : Out :=
  issueQ f.guard f.neg (sigSpawn f) s fun a s =>
    let va := (a.x.sSrc64 f.srcA).toNat
    createWork a s va 64 .load (fun _ _ => true) fun _ => .spawn va (neighbour (dieOf a.w) (spawnDest f))
/-- CARDDEC (R62, R270; notes/assumptions/40.md). -/
def execCarddec (f : FmtA) (s : State) : Out :=
  issueQ f.guard f.neg (sigCreate f) s fun a s =>
    let va := (a.x.sSrc64 f.srcA).toNat
    createWork a s va 64 .atomic (fun _ _ => true) fun _ => .preds va (dieOf a.w) (lowestLane a.act)

/-- The launch of which a SLOT names the launch slot of a share is RUNNING in the context (R66, R70). -/
def State.runningSlot (s : State) (ctx slot : Nat) : Option Launch :=
  match Tbl.find (s.die (slot / 64)).slots (slot % 64) with
  | none => none
  | some sh => (s.launch sh.lid).bind fun l => if l.ctx = ctx && l.running then some l else none

/-- CONT (R70, R270). -/
def execCont (f : FmtA) (s : State) : Out :=
  issueQ f.guard f.neg (sigCreate f) s fun a s =>
    createWork a s (a.x.sSrc64 f.srcA).toNat 32 .load
      (fun s b => (s.runningSlot (s.ctxOf a.w) (leAt b 28 2)).isSome) fun b => .cont b
/-- JCDEC (R27, R270). -/
def execJcdec (f : FmtA) (s : State) : Out :=
  issueQ f.guard f.neg (sigCreate f) s fun a s =>
    let va := (a.x.sSrc64 f.srcA).toNat
    createWork a s va 16 .load (fun _ _ => true) fun _ => .join va (dieOf a.w)

/-- CANCEL (R71, R271). -/
def execCancel (f : FmtB) (s : State) : Out :=
  issueQ f.guard f.neg (sigCancel f) s fun a s =>
    let x := (a.x.sSrc .int f.srcA).toNat
    .next (s.doCancel (s.ctxOf a.w) (cancelLevel f) (if cancelLevel f = 4 then x else x % 65536))

end Sys2Proof.Machine
end

