-- ==== Sys2Proof/Machine/ControlRegs.lean ====
section
/-! DEFINITION. Control registers: CRD, and CWR with the forms that have a row of their own (R47, R156, R157, R164, R182,
R195, R242, R260, R324, Table 11.9). -/

namespace Sys2Proof.Machine

/-! ## The index -/

def crIndex (f : FmtB) : Nat := f.imm24.toNat % 4096

/-- What Table 11.9 says of an index: whether it is 64 bits wide, per lane, and who may write it. -/
inductive CrAccess where
  | read | write | handler
  deriving DecidableEq, Repr

structure CrInfo where
  wide : Bool
  lane : Bool := false
  acc : CrAccess
  deriving DecidableEq, Repr

def crInfo (i : Nat) : Option CrInfo :=
  if i = 0 then some { wide := false, lane := true, acc := .read }
  else if i ≤ 5 ∨ i = 7 then some { wide := false, acc := .read }
  else if i = 6 then some { wide := false, acc := .write }
  else if i ≤ 12 then some { wide := true, acc := .read }
  else if 0x10 ≤ i ∧ i ≤ 0x15 then some { wide := false, acc := .write }
  else if i = 0x18 ∨ i = 0x19 then some { wide := false, acc := .write }
  else if i = 0x1A ∨ i = 0x1B then some { wide := true, acc := .write }
  else if i = 0x20 ∨ i = 0x21 then some { wide := false, acc := .read }
  else if i = 0x22 ∨ i = 0x23 then some { wide := true, acc := .read }
  else if 0x40 ≤ i ∧ i < 0x60 then some { wide := true, acc := .handler }
  else if 0x100 ≤ i ∧ i < 0x180 then some { wide := true, acc := .write }
  else none

/-- CRD: a 64-bit register into an even scalar pair, a per-lane register into a vector register, another into either. -/
def sigCrd (f : FmtB) : Sig :=
  let d (n : Nat) (v s : Bool) : Use := { o := f.dst, n := n, align := n, vec := v, sca := s, con := false, rd := false, wr := true }
  match crInfo (crIndex f) with
  | none => { bad := true }
  | some c =>
    { uses := [if c.wide then d 2 false true else if c.lane then d 1 true false else d 1 true true],
      bad := f.mod5 ≠ 0 || 4096 ≤ f.imm24.toNat }

/-- CWR: a scalar or constant, a pair where the register is 64 bits wide; none may name a vector register, since no
register that can be written is per lane. -/
def sigCwr (f : FmtB) : Sig :=
  match crInfo (crIndex f) with
  | none => { bad := true }
  | some c =>
    { uses := [uSca f.srcA f.tA (if c.wide then 2 else 1)],
      bad := f.mod5 ≠ 0 || 4096 ≤ f.imm24.toNat || c.acc = .read,
      handlerOnly := c.acc = .handler }

/-! ## Values read -/

def unitBank (u : WorkUnit) (s : State) (b : Nat) : Bank := (s.core u.core).bank (u.phys b)

/-- TXLOG (Table 14.8). -/
def State.txlogReg (s : State) (w : Nat) : Nat :=
  let tok := match (s.ctx (s.ctxOf w)).token with | some k => k / 32 = w | none => false
  s.logUnits w % 65536 + 65536 * boolN ((s.wx w).tx ≠ []) + 131072 * boolN tok

/-- COREID: core, quadrant and wave slot. -/
def coreId (w : Nat) : Nat := coreOf w % 16 + 16 * quadOf w + 64 * slotOf w

/-- A register of the trap being handled; zero outside a trap handler. -/
def State.trapReg (s : State) (w i : Nat) : Nat :=
  match (s.wx w).handler with
  | none => 0
  | some h =>
    if h.system then 0
    else match i with
      | 0 => h.trapCode.toNat | 1 => h.trapMask.toNat | 2 => h.trapPc.toNat | _ => h.trapAddr.toNat

/-- CVLISTc and CVCFGc (R164). -/
def cvReg (u : WorkUnit) (i : Nat) : Nat :=
  match Tbl.find u.cvs (i / 2) with
  | none => 0
  | some c => if i % 2 = 0 then c.list.toNat else c.mask.toNat + 2 ^ 32 * (c.cfg % 32768) + 2 ^ 47 * boolN c.declared

/-- The value of a control register (Table 11.9); LANEID is the lane's own number. -/
def State.crValue (s : State) (w : Nat) (u : WorkUnit) (i : Nat) : Nat :=
  let d := dieOf w
  let clk := (s.die d).clk
  let ctx := s.ctx u.crec.ctx
  match i with
  | 1 => (s.wave w).idx
  | 2 => u.crec.unit
  | 3 => d
  | 4 => coreId w
  | 5 => boolN (s.launchCancelled u.crec.lid)
  | 6 => (s.wx w).progidx.toNat
  | 7 => (s.wave w).valloc
  | 8 => clk.cycle s.time
  | 9 => clk.scycle s.time
  | 10 => s.refTime d
  | 11 => clk.steplog.toNat
  | 12 => (s.die d).stkcfg.toNat
  | 0x18 => s.txlogReg w
  | 0x19 => (s.wx w).txretry.toNat
  | 0x1A => ctx.mapspill.toNat
  | 0x1B => ctx.xring.toNat
  | _ =>
    if 0x10 ≤ i ∧ i ≤ 0x15 then (s.wave w).dcGet (i - 0x10)
    else if 0x20 ≤ i ∧ i ≤ 0x23 then s.trapReg w (i - 0x20)
    else if 0x40 ≤ i ∧ i < 0x60 then cvReg u (i - 0x40)
    else
      let k := unitBank u s ((i - 0x100) / 4)
      (match (i - 0x100) % 4 with | 0 => k.btd0 | 1 => k.satf | 2 => k.invf | _ => k.poisf).toNat

/-- A BTD index whose bank the unit does not have (R156). -/
def btdOut (u : WorkUnit) (i : Nat) : Bool := 0x100 ≤ i && u.nbanks ≤ (i - 0x100) / 4

/-- CRD (R242, R260). -/
def execCrd (f : FmtB) (s : State) : Out :=
  issueQ f.guard f.neg (sigCrd f) s fun a s =>
    let i := crIndex f
    match s.unitOf a.w with
    | none => .next s
    | some u =>
      if btdOut u i then .next (s.raiseAll a.w [(a.act, 0x07, 0)])
      else
        let v := s.crValue a.w u i
        let wide := match crInfo i with | some c => c.wide | none => false
        .next (s.updWave a.w fun x =>
          if i = 0 then x.putV f.dst a.act fun l => BitVec.ofNat 32 l
          else if wide then x.putS64 f.dst (BitVec.ofNat 64 v)
          else x.putAny f.dst a.act (BitVec.ofNat 32 v))

/-! ## Writes -/

/-- A CWR: the checks of the index, then the writing. -/
def issueCwr (f : FmtB) (s : State) (body : At → State → WorkUnit → Eff) : Out :=
  issueQ f.guard f.neg (sigCwr f) s fun a s =>
    match s.unitOf a.w with
    | none => .next s
    | some u => body a s u

/-- PROGIDX_WRITE (R47); reserved bits are not held. -/
def execProgidxWrite (f : FmtB) (s : State) : Out :=
  issueCwr f s fun a s _ =>
    let v := a.x.sSrc .int f.srcA
    .next (s.updWx a.w fun y => { y with progidx := v &&& 0x1FFF, resumed := false })

/-- DC_COUNTER_WRITE (R242): the count; reserved bits are not held. -/
def execDcCounterWrite (f : FmtB) (s : State) : Out :=
  issueCwr f s fun a s _ =>
    .next (s.updWave a.w fun x => x.dcSet (crIndex f - 0x10) ((a.x.sSrc .int f.srcA).toNat % 64))

/-- A BTD word 0 that R157 refuses. -/
def btdBad (x : Dword) : Bool :=
  5 ≤ btdFmt x || slotCount (btdFmt x) < btdSlots x || btdCols x = 0 || 64 < btdCols x

/-- The fields of BTD word 0. -/
def btdMask : Dword := 0xFF7F03F7

/-- BTD_WRITE (R156, R157): the value is checked before the bank (R425); it waits until earlier work on the bank has completed. -/
def execBtdWrite (f : FmtB) (s : State) : Out :=
  issueCwr f s fun a s u =>
    let i := crIndex f
    let b := (i - 0x100) / 4
    let v := a.x.sSrc64 f.srcA
    if (i - 0x100) % 4 = 0 ∧ btdBad v then .next (s.raiseAll a.w [(a.act, 0x02, 0)])
    else if btdOut u i then .next (s.raiseAll a.w [(a.act, 0x07, 0)])
    else
      let seq := if a.e.stage = 0 then s.nextId else a.e.mark
      if s.banksBusy a.x.uid (laneBit b) seq then
        .wait (.banks (laneBit b) seq) (if a.e.stage = 0 then (s.setStage a.w 1 seq).fresh.2 else s)
      else
        .next (s.updBank u.core (u.phys b) fun k =>
          match (i - 0x100) % 4 with
          | 0 => { k with btd0 := v &&& btdMask }
          | 1 => { k with satf := v }
          | 2 => { k with invf := v }
          | _ => { k with poisf := v })

/-- MAPSPILL_WRITE (R182); reserved bits are not held. -/
def execMapspillWrite (f : FmtB) (s : State) : Out :=
  issueCwr f s fun a s u =>
    let v := a.x.sSrc64 f.srcA
    let size := fieldN v 56 8
    if v.getLsbD 0 ∧ (size < 16 ∨ 22 < size) then .next (s.raiseAll a.w [(a.act, 0x02, 0)])
    else .next (s.updCtx u.crec.ctx fun c => { c with mapspill := v &&& 0xFFFFFFFFFFFFFFC1 })

/-- The fields of XRING (Table 9.6). -/
def xringMask : Dword := 0x00FFFFFFFFFFF3C1
def xrLog (x : Dword) : Nat := fieldN x 6 4
def xrBase (x : Dword) : Nat := fieldN x 12 44 * 4096

/-- A context's transform requests are complete on every die that it owns. -/
def State.ringsIdle (s : State) (ctx : Nat) : Bool :=
  s.dies.all fun p =>
    p.2.owner ≠ some ctx || ((p.2.x ctx).next = (p.2.x ctx).kick && p.2.xfly.all fun r => r.cmd.ctx ≠ ctx || r.cmd.card.isSome)

/-- XRING_WRITE (R195): reserved bits are not held. On a die that another context owns, the value applies when the
context next takes it. -/
def execXringWrite (f : FmtB) (s : State) : Out :=
  issueCwr f s fun a s u =>
    let ctx := u.crec.ctx
    let v := a.x.sSrc64 f.srcA &&& xringMask
    if v.getLsbD 0 ∧ (xrLog v < 6 ∨ 12 < xrLog v) then .next (s.raiseAll a.w [(a.act, 0x02, 0)])
    else if v = (s.ctx ctx).xring ∧ a.e.stage = 0 then .next s
    else if !(s.ringsIdle ctx) then .wait .rings (s.setStage a.w 1 0)
    else
      let apply (d : Die) : Die :=
        let early (c : EngCmd) : EngCmd := if c.ctx = ctx then { c with handle := 0 } else c
        if d.owner = some ctx then
          { d with xctx := Tbl.set d.xctx ctx { ring := v }, xcards := d.xcards.map early }
        else { d with xctx := Tbl.set d.xctx ctx { (d.x ctx) with pend := true } }
      let s := s.mapParts (fun c => c) apply
      .next (s.updCtx ctx fun c => { c with xring := v })

/-- TXLOG_WRITE (R324): accepted with no effect, or refused. -/
def execTxlogWrite (f : FmtB) (s : State) : Out :=
  issueCwr f s fun a s _ =>
    let v := (a.x.sSrc .int f.srcA).toNat
    if v % 65536 = s.logUnits a.w % 65536 ∧ v < 2 ^ 18 then .next s
    else .next (s.raiseAll a.w [(a.act, 0x02, 0)])

/-- TXRETRY_WRITE (R324). -/
def execTxretryWrite (f : FmtB) (s : State) : Out :=
  issueCwr f s fun a s _ =>
    let v := a.x.sSrc .int f.srcA
    if 256 ≤ v.toNat then .next (s.raiseAll a.w [(a.act, 0x02, 0)])
    else .next (s.updWx a.w fun y => { y with txretry := v })

/-! ## Declarations (R158, R164, R338, R339) -/

/-- Names bound on a core, of 16 registers. -/
def State.cvBound (s : State) (core : Nat) : Nat :=
  (s.units.filter fun p => p.2.core = core && p.2.stat ≠ .saved).foldl (fun n p => n + p.2.cvs.length) 0

/-- The trap of a declaration, if any: the reserved fields and the mask first, then the waves and the formats. -/
def declareTrap (u : WorkUnit) (list : Dword) (mask : LaneMask) (cfg : Nat) : Option Nat :=
  let ws := (List.range (cfgN cfg)).map fun j => fieldN list (8 * j) 8
  let pair : Bool := match cfgWfmt cfg with
    | 0 => cfgAfmt cfg = 0 | 1 => cfgAfmt cfg = 1 | 4 => cfgAfmt cfg = 4 | _ => cfgAfmt cfg = 2 || cfgAfmt cfg = 3
  if 32768 ≤ cfg ∨ 4 < cfgWfmt cfg ∨ 4 < cfgAfmt cfg
      ∨ (banksOf mask).any (fun b => u.nbanks ≤ b) then some 0x02
  else if ws.any (fun w => u.slots.length ≤ w) ∨ ws.eraseDups.length ≠ ws.length ∨ !pair then some 0x10
  else none

/-- Declare a name: it waits for a free register, and until no round of the name is pending or running. -/
def declareCv (a : At) (s : State) (u : WorkUnit) (c : Nat) (list : Dword) (mask : LaneMask) (cfg : Nat) : Eff :=
  if (Tbl.find u.cvs c).isNone && 16 ≤ s.cvBound u.core then .wait .cvFree s
  else if (u.cv c).rounds ≠ [] then .wait (.round c) s
  else .next (s.setCv a.x.uid c ⟨true, list, mask, cfg, []⟩)

/-- CVCFG_WRITE (R164): with DECLARED set it declares the name from CVLISTc as it stands. -/
def execCvcfgWrite (f : FmtB) (s : State) : Out :=
  issueCwr f s fun a s u =>
    let c := (crIndex f - 0x40) / 2
    let v := a.x.sSrc64 f.srcA
    if !(v.getLsbD 47) then .next s
    else
      let list := (u.cv c).list
      let mask : LaneMask := loHalf v
      let cfg := fieldN v 32 15
      match declareTrap u list mask cfg with
      | some code => .next (s.raiseAll a.w [(a.act, code, 0)])
      | none => declareCv a s u c list mask cfg

/-- CWR (R242, R260) of the registers without a row of their own: CVLISTc, written in handler mode. The list is kept with
the name's declaration as it stands. -/
def execCwr (f : FmtB) (s : State) : Out :=
  issueCwr f s fun a s u =>
    let c := (crIndex f - 0x40) / 2
    if (Tbl.find u.cvs c).isNone && 16 ≤ s.cvBound u.core then .wait .cvFree s
    else .next (s.setCv a.x.uid c { (u.cv c) with list := a.x.sSrc64 f.srcA })

end Sys2Proof.Machine
end

