-- ==== Sys2Proof/Machine/Bank.lean ====
section
/-! DEFINITION. Bank instructions: modes, convergence, rounds, the column port, slot rows, the Hadamard transform (R91,
R92, R153 to R168, R334 to R349, R414, R415). -/

namespace Sys2Proof.Machine

/-! ## What the instructions ask (R334) -/

/-- A bank operand: a scalar or an integer constant. -/
def uBank (o : Operand) (t : Bool) : Use :=
  { o := o, t := t, vec := false, con := match o with | .con c => c < 0x60 | _ => true }
/-- A bank mask, column or slot number: a scalar or a constant. -/
def uMask (o : Operand) (t : Bool) : Use := uSca o t
def cvName (f : FmtA) : Nat := f.mod7.toNat % 16
def cntOf (f : FmtA) : Nat := f.mod7.toNat % 16 + 1

def sigBankmode (f : FmtA) : Sig := { uses := [uMask f.srcA f.tA], bad := 3 ≤ f.mod7.toNat, noTx := true }
def sigCvset (f : FmtA) : Sig :=
  { uses := [uScaReg f.srcA f.tA 2, uMask f.srcB f.tB, uScaReg f.srcC f.tC], bad := 16 ≤ f.mod7.toNat, noTx := true }
/-- BMAC reads scalars at issue; vector operands are read after joint issue (R123). -/
def sigBmac (f : FmtA) : Sig :=
  let isVec (o : Operand) : Bool := match o with | .vec _ => true | _ => false
  let one (o : Operand) : Use := { o := o, con := false, zero := false, rd := !(isVec o) }
  let b : List Use := if isVec f.srcA then
      [{ o := f.srcB, rd := !(isVec f.srcB), con := match f.srcB with | .con c => c < 0x60 | _ => true }] else []
  { uses := one f.srcA :: b,
    bad := 6 ≤ f.mod7.toNat / 16 || f.tA || f.tB || f.tC || f.dst ≠ .zero || f.srcC ≠ .zero
      || (!(isVec f.srcA) && f.srcB ≠ .zero),
    noTx := true }
def sigOprdy (f : FmtA) : Sig :=
  let n := match f.mod7.toNat % 4 with | 0 => 4 | 1 => 8 | _ => 16
  let a : Use := if f.mod7.toNat % 4 = 3 then { uScaReg f.srcA false with zero := true }
    else { uVecReg f.srcA false n with whole := true }
  { uses := [a, { o := f.srcB, con := false, whole := true }], bad := 4 ≤ f.mod7.toNat, noTx := true }
def convOf (f : FmtA) : Nat := f.mod7.toNat / 16 % 4
def sigBrdacc (f : FmtA) : Sig :=
  { uses := [{ uDstV f.dst (cntOf f) with align := 1, zero := false }, uBank f.srcA f.tA, uMask f.srcB f.tB],
    bad := convOf f = 3, noTx := true }
def sigBwracc (f : FmtA) : Sig :=
  { uses := [uBank f.srcA f.tA, uMask f.srcB f.tB, { uVecReg f.srcC f.tC (cntOf f) with align := 1 }],
    bad := convOf f = 1 || convOf f = 3 || f.mod7.getLsbD 6, noTx := true }
def sigBaccz (f : FmtA) : Sig := { uses := [uMask f.srcA f.tA], bad := f.mod7 ≠ 0, noTx := true }
def fillScale (f : FmtA) : Bool := f.mod7.getLsbD 5
def fillCnt (f : FmtA) : Nat := f.mod7.toNat % 32 + 1
/-- Registers of a source group of BFILL in its row form (R348). -/
def fillRegs (fmt : Nat) : Nat := match fmt with | 0 => 8 | 4 => 32 | _ => 16
def sigBfill (f : FmtA) (fmt : Nat) : Sig :=
  let n := if fillScale f then 1 else fillRegs fmt
  { uses := [uBank f.srcA f.tA, uMask f.srcB f.tB, uVecReg f.srcC f.tC n],
    bad := f.mod7.getLsbD 6 || (fillScale f && fillCnt f ≠ 1), noTx := true }
def sigBhad (f : FmtA) : Sig :=
  { uses := [uBank f.srcA f.tA, uScaReg f.srcB f.tB, uSca f.srcC f.tC],
    bad := f.mod7.toNat % 4 = 3 || f.mod7.getLsbD 6, noTx := true }

/-! ## Shared courses -/

/-- The unit of the wave; nothing happens to a wave without one. -/
def withUnit (a : At) (s : State) (body : WorkUnit → Eff) : Eff :=
  match s.unitOf a.w with
  | some u => body u
  | none => .next s

/-- All ACTIVE lanes trap. -/
def trapAll (a : At) (s : State) (code : Nat) : Eff := .next (s.raiseAll a.w [(a.act, code, 0)])

/-- A bank beyond the unit's banks. -/
def outside (u : WorkUnit) (b : Nat) : Bool := u.nbanks ≤ b

def State.ubank (s : State) (u : WorkUnit) (b : Nat) : Bank := (s.core u.core).bank (u.phys b)

/-- A bank in STORAGE or COMPUTE mode. -/
def inMode (k : Bank) : Bool := k.mode = .storage || k.mode = .compute

/-- The progress steps of a bank instruction and how many of them this turn takes: all but for a stop part-way (R46). -/
structure Steps where
  total : Nat
  lim : Option Nat := none

/-- The bank order (R162): the instruction takes its place at first issue, waits for earlier work of the banks, and is
performed, from its DONE on. A BANKMODE that names one of them is waited for first, and the checks are then made (R92). -/
def inOrder (a : At) (s : State) (u : WorkUnit) (mask : LaneMask) (touch : Bool) (check : State → Option Nat)
    (mark : State → State) (n : Steps) (act : Nat → Nat → State → State) : Eff :=
  let uid := a.x.uid
  let go (s : State) (seq : Nat) : Eff :=
    if s.banksBusy uid mask seq then .wait (.banks mask seq) s
    else
      let hi := a.e.done + n.lim.getD n.total
      if hi < n.total then .wait (.banks mask seq) ((act a.e.done hi s).updIssuing a.w fun e => { e with done := hi })
      else .next ((act a.e.done n.total s).updUnit uid fun u => { u with bankOps := u.bankOps.filter fun o => o.seq ≠ seq })
  if a.e.stage = 1 then go s a.e.mark
  else if s.modeBusy uid mask then .wait (.banks mask s.nextId) s
  else
    match check s with
    | some code => trapAll a s code
    | none =>
      let (seq, s) := s.fresh
      let s := s.setUnit uid { u with bankOps := u.bankOps ++ [⟨seq, a.w, mask⟩] }
      let s := if touch then s.touchBanks uid a.w mask else s
      go ((mark s).setStage a.w 1 seq) seq

/-! ## BANKMODE (R91, R92, R336, R337) -/

def modeOf (n : Nat) : BMode := match n with | 0 => .cache | 1 => .storage | _ => .compute

/-- Every lane in a transaction of the unit's waves whose logs lie, in part or whole, in a bank of the mask aborts
(R323, R336). -/
def State.abortLogs (s : State) (u : WorkUnit) (mask : LaneMask) : State :=
  u.aliveWids.foldl (fun s w =>
    let (b, o) := logPlace u (s.wave w).idx 0
    let hit := (List.range ((o + u.txlog * 256 - 1) / 65536 + 1)).any fun k => inMask mask (b + k)
    if hit && (s.wx w).tx ≠ [] then
      ((lanesOf allLanes).foldl (fun s l => if s.inTx w l then s.abortLane w l 6 0 else s) s).moveGone w
    else s) s

/-- BANKMODE: it completes by BANKMODE_COMPLETE, and its wave holds until then. Transactions whose logs lie in the banks abort first,
whatever mode the banks are in. -/
def execBankmode (f : FmtA) (s : State) : Out :=
  issueP1 f.guard f.neg (sigBankmode f) s fun a s => withUnit a s fun u =>
    let mask := a.x.sSrc .int f.srcA
    let uid := a.x.uid
    if a.e.stage ≠ 0 then
      if s.banksBusy uid mask (a.e.mark + 1) then .wait (.banks mask (a.e.mark + 1)) s else .next s
    else if (banksOf mask).any (outside u) then trapAll a s 0x02
    else if mask = 0 then .next s
    else
      let mode := modeOf f.mod7.toNat
      let s := s.abortLogs u mask
      if (banksOf mask).all (fun b => (s.ubank u b).mode = mode) && !(s.modeBusy uid mask) then .next s
      else
        let (id, s) := s.fresh
        let s := s.updUnit uid fun u => { u with modeCh := u.modeCh ++ [⟨id, a.w, mask, f.mod7.toNat⟩] }
        .wait (.banks mask (id + 1)) (s.setStage a.w 1 id)

/-- A bank's transition (Table 4.6). -/
def Bank.turn (k : Bank) (m : BMode) : Bank :=
  if k.mode = m then k
  else if k.mode = .cache ∨ m = .cache then { k with mode := m, bytes := [], bad := [] }
  else { k with mode := m }

/-- Copies of the unit that name a bank of the mask and were issued before (R92). -/
def State.copiesName (s : State) (uid : Nat) (mask : LaneMask) (seq : Nat) : Bool :=
  match s.unit uid with
  | some u => (s.core u.core).copies.any fun k => k.uid = uid && k.id < seq && k.names &&& mask ≠ 0
  | none => false

/-- BANKMODE_COMPLETE (R91, R337): once earlier work on the banks is complete. -/
def execBankmodeComplete (uid k : Nat) (s : State) : Out :=
  match s.unit uid with
  | none => .next s
  | some u =>
    match u.modeCh.find? fun m => m.id = k with
    | none => .next s
    | some m =>
      if s.banksBusy uid m.mask m.id || s.copiesName uid m.mask m.id || !((s.core u.core).room 512) then .next s
      else
        let s := (List.range 4).foldl (fun s q => s.drainFwd u.core q) (s.abortLogs u m.mask)
        let s := (banksOf m.mask).foldl (fun s b => s.updBank u.core (u.phys b) fun k => k.turn (modeOf m.mode)) s
        let s := s.shrinkL1 u.core
        let s := s.updUnit uid fun u => { u with modeCh := u.modeCh.filter fun x => x.id ≠ m.id }
        .next (s.pokeRounds uid)

/-! ## CVSET (R338, R339) -/

def execCvset (f : FmtA) (s : State) : Out :=
  issueP1 f.guard f.neg (sigCvset f) s fun a s => withUnit a s fun u =>
    let list := a.x.sSrc64 f.srcA
    let mask := a.x.sSrc .int f.srcB
    let cfg := (a.x.sSrc .int f.srcC).toNat
    match declareTrap u list mask cfg with
    | some code => trapAll a s code
    | none => if mask = 0 then .next s else declareCv a s u (cvName f) list mask cfg

/-! ## BMAC (R340 to R343) -/

/-- A code for an operand, to compare signatures by (R343). -/
def operandKey (o : Operand) : Nat :=
  match o with | .vec n => n.toNat | .sca n => 256 + n | .con c => 640 + c | .resv c => c | .zero => 1023

/-- The operands that a BMAC names. -/
def signOf (a : At) (f : FmtA) : SignOp :=
  let base : SignOp :=
    { wid := a.w, form := 0, base := operandKey f.srcA, scaleV := none, scaleS := 0, off := 0,
      ctr := f.mod7.toNat / 16, signed := 0, places := [], srcB := operandKey f.srcB }
  match f.srcA with
  | .vec _ =>
    match f.srcB with
    | .vec m => { base with scaleV := some m.toNat }
    | o => { base with scaleS := (a.x.sSrc .int o).toNat }
  | o => { base with form := 1, off := (a.x.sSrc .int o).toNat }

/-- The trap of the form of an operand, if any (R340, R342). -/
def formTrap (u : WorkUnit) (x : Wave) (o : SignOp) (afmt : Nat) : Option Nat :=
  if o.form = 0 then
    let n := actRegs afmt
    if o.base % n ≠ 0 ∨ 256 < o.base + n ∨ (afmt = 4) ≠ (o.srcB = 1023) then some 0x02
    else if x.valloc < o.base + n then some 0x03
    else none
  else
    let b := o.off / 65536
    if o.off % 16 ≠ 0 ∨ 0x200000 ≤ o.off ∨ outside u b ∨ 65536 < o.off % 65536 + chunkSize afmt then some 0x07
    else none

/-- Two signatures of a wave agree. -/
def sameSign (p q : SignOp) : Bool := p.ctr = q.ctr && p.form = q.form && p.base = q.base && p.srcB = q.srcB && p.off = q.off

/-- A lane signs: the name's open round, or a new one, takes it. -/
def State.signLane (s : State) (a : At) (uid cv : Nat) (o : SignOp) (l : Nat) : State × Option Nat :=
  match s.unit uid with
  | none => (s, none)
  | some u =>
    let c := u.cv cv
    let inSet := c.waves.any fun i => u.widAt i = a.w
    let open_ := c.rounds.find? fun r => !r.issued
    let mine : Option SignOp := open_.bind fun r => r.ops.find? fun p => p.wid = a.w
    let signed : Bool := match mine with | some q => q.signed.getLsbD l | none => false
    if !c.declared || !inSet || signed then (s, some 0x10)
    else
      match formTrap u a.x o (cfgAfmt c.cfg) with
      | some code => (s, some code)
      | none =>
        let place : LaneMask × Entry := (laneBit l, a.e)
        match open_, mine with
        | some r, some p =>
          if !(sameSign p o) then (s, some 0x10)
          else
            let add (q : SignOp) : SignOp :=
              if q.wid = a.w then { q with signed := q.signed ||| laneBit l, places := q.places ++ [place] } else q
            let upd (x : Round) : Round := if x.id = r.id then { x with ops := x.ops.map add } else x
            (s.setCv uid cv { c with rounds := c.rounds.map upd }, none)
        | some r, none =>
          let q := { o with signed := laneBit l, places := [place] }
          let upd (x : Round) : Round := if x.id = r.id then { x with ops := x.ops ++ [q] } else x
          ((s.setCv uid cv { c with rounds := c.rounds.map upd }).incDc a.w o.ctr, none)
        | none, _ =>
          let (id, s) := s.fresh
          let q := { o with signed := laneBit l, places := [place] }
          ((s.setCv uid cv { c with rounds := c.rounds ++ [{ id := id, ops := [q] }] }).incDc a.w o.ctr, none)

/-- The entries of one BMAC's lanes as one place: a BMAC is known by its clause, slot and code index (R160). -/
def joinPlaces (ps : List (LaneMask × Entry)) : List (LaneMask × Entry) :=
  let same (a b : Entry) : Bool := a.pc = b.pc && a.slot = b.slot && a.code = b.code
  ps.foldl (fun acc p =>
    if acc.any fun q => same q.2 p.2 then acc.map fun q => if same q.2 p.2 then (q.1 ||| p.1, q.2) else q
    else acc ++ [p]) []

/-- A wave resumes at the BMAC of a round stopped part-way (R164). -/
def resumeRound (a : At) (s : State) (u : WorkUnit) (cv : Nat) (o : SignOp) : Eff :=
  let uid := a.x.uid
  let c := u.cv cv
  let open_ := c.rounds.find? fun r => !r.issued && r.resumed
  let here := (open_.map fun r => r.ops.any fun p => p.wid = a.w).getD false
  if a.e.stage = 1 then (if here then .wait (.gather cv) s else .next s)
  else
    let q := { o with signed := a.act, places := [(a.act, a.e)], done := a.e.done }
    let s := s.setStage a.w 1 0
    let s := match open_ with
      | some r =>
        let upd (x : Round) : Round := if x.id = r.id then { x with ops := x.ops ++ [q] } else x
        s.setCv uid cv { c with rounds := c.rounds.map upd }
      | none =>
        let (id, s) := s.fresh
        let r : Round := { id := id, ops := [q], resumed := true }
        s.setCv uid cv { c with rounds := c.rounds ++ [r] }
    let s := s.tryJoint uid cv
    let still := ((s.unit uid).map fun u => (u.cv cv).rounds.any fun r => !r.issued && r.resumed).getD false
    if still then .wait (.gather cv) s else .next s

/-- BMAC (R343). -/
def execBmac (f : FmtA) (s : State) : Out :=
  issueP f.guard f.neg (sigBmac f) s fun a s => withUnit a s fun u =>
    let cv := cvName f
    let o := signOf a f
    if a.e.stage ≠ 0 then
      if 32 ≤ a.e.done then trapAll a s 0x02 else resumeRound a s u cv o
    else
      let s0 := s
      let (s, traps) := (lanesOf a.act).foldl (fun (p : State × List (Nat × Nat × Nat)) l =>
        match p.1.signLane a a.x.uid cv o l with
        | (s, some code) => (s, p.2 ++ [(l, code, if code = 0x07 then o.off else 0)])
        | (s, none) => (s, p.2)) (s, [])
      if 63 < (s.wave a.w).dcGet o.ctr then .wait (.counters [(o.ctr, 62)]) s0
      else
      let tidyOp (q : SignOp) : SignOp := { q with places := joinPlaces q.places }
      let tidy (r : Round) : Round := { r with ops := r.ops.map tidyOp }
      let tidyCv (c : Cv) : Cv := { c with rounds := c.rounds.map tidy }
      let tidyUnit (u : WorkUnit) : WorkUnit := { u with cvs := u.cvs.map fun p => (p.1, tidyCv p.2) }
      let s := s.updUnit a.x.uid tidyUnit
      let s := s.trapLanes a.w traps
      .next (s.tryJoint a.x.uid cv)

/-- OPRDY (R344): its registers are awaited in every lane; then the wave's storage stores are performed. -/
def execOprdy (f : FmtA) (s : State) : Out :=
  issueP1 f.guard f.neg (sigOprdy f) s fun a s => .next (s.drainFwd (coreOf a.w) (quadOf a.w))

/-! ## The column port (R166, R167, R345 to R347) -/

/-- An accumulator read as f32 or bf16: x × 2^e rounded once, 0x7FC0 patterns for an invalid column. -/
def accConv (conv : Nat) (inv poisoned : Bool) (x : Word) (e : Int) : Word :=
  let v := x.toInt
  match conv with
  | 0 => if inv || poisoned then 0x7FC00000 else BitVec.ofNat 32 (f32Ty.round 0 (v < 0) v.natAbs e)
  | 1 => if inv || poisoned then 0x7FC0 else BitVec.ofNat 32 (bf16Ty.round 0 (v < 0) v.natAbs e)
  | _ => if poisoned then 0x80000000 else x

/-- One column read into a register, free values where a round on the bank has not been observed (R123). -/
def State.readColumn (s : State) (a : At) (u : WorkUnit) (b c reg conv : Nat) (zero : Bool) : State :=
  let k := s.ubank u b
  let free := (s.wx a.w).handler.isNone && u.ran.any fun r => inMask r.banks b && s.unobserved a.w r
  let n := s.freeCtr
  let val (m : Nat) : Word :=
    if free then loHalf (Config.free (n + m))
    else accConv conv (k.invf.getLsbD c) (k.poisf.getLsbD c) (k.accAt m c) (btdExp k.btd0)
  let s := s.updWave a.w fun x => (x.vSet reg a.act val).fillV reg a.act
  let s := if free then { s with freeCtr := n + 32 } else s
  if zero then
    s.updBank u.core (u.phys b) fun k =>
      { k with acc := (lanesOf a.act).foldl (fun t m => Tbl.set t (accKey m c) 0) k.acc }
  else s

/-- The destinations of a BRDACC are empty until their columns arrive (R124, R345); the lanes stay those of its issue. -/
def State.markCols (s : State) (w : Nat) (f : FmtA) (lo : Nat) (m : LaneMask) : State :=
  let regs := ((List.range (cntOf f)).filter (lo ≤ ·)).map (· + operandReg f.dst)
  (s.updWave w fun x => regs.foldl (fun x r => x.markV r m) x).updIssuing w fun e => { e with left := some m }

/-- BRDACC (R345), some columns of it or all. A poisoned column raises BANK_UE (R415). -/
def brdaccRun (lim : Option Nat) (f : FmtA) (s : State) : Out :=
  issueP1 f.guard f.neg (sigBrdacc f) s fun a s => withUnit a s fun u =>
    let b := (a.x.sSrc .int f.srcA).toNat
    let c0 := (a.x.sSrc .int f.srcB).toNat
    let cnt := cntOf f
    let check (s : State) : Option Nat :=
      if 64 < c0 + cnt ∨ cnt ≤ a.e.done then some 0x02
      else if outside u b then some 0x07
      else if !(inMode (s.ubank u b)) then some 0x08 else none
    let act (lo hi : Nat) (s : State) : State :=
      let steps := (List.range (hi - lo)).map (· + lo)
      let cols := steps.foldl (fun m i => setBit64 m (c0 + i)) 0 &&& (s.ubank u b).poisf
      let s := steps.foldl (fun s i =>
        s.readColumn a u b (c0 + i) (operandReg f.dst + i) (convOf f) (f.mod7.getLsbD 6)) s
      if cols = 0 then s
      else s.machineTrap a.w 4 0x0D (detailOf [(0, toBytes 1 2), (1, toBytes 1 1), (2, toBytes 1 4), (8, toBytes 8 cols.toNat)])
    inOrder a s u (if outside u b then 0 else laneBit b) true check (fun s => s.markCols a.w f a.e.done a.act) ⟨cnt, lim⟩ act

/-- BRDACC (R345). -/
def execBrdacc (f : FmtA) (s : State) : Out := brdaccRun none f s

/-- A value written to an accumulator (R167): bits, SATF and INVF. -/
def accWrite (conv : Nat) (y : Word) (e : Int) : Word × Bool × Bool :=
  if conv = 2 then (y, false, false)
  else
    match f32Ty.decode y.toNat with
    | .nan => (0, false, true)
    | .inf neg => (BitVec.ofInt 32 (if neg then -2147483648 else 2147483647), true, false)
    | .fin neg m ex =>
      let v := roundInt 0 neg m (ex - e)
      (BitVec.ofInt 32 (sat32 v), v ≠ sat32 v, false)

/-- One column of rows written. -/
def Bank.writeColumn (k : Bank) (x : Wave) (act : LaneMask) (c reg conv : Nat) : Bank :=
  (lanesOf act).foldl (fun k m =>
    let (v, sat, inv) := accWrite conv (x.vGet reg m) (btdExp k.btd0)
    { k with acc := Tbl.set k.acc (accKey m c) v, satf := if sat then setBit64 k.satf c else k.satf,
             invf := if inv then setBit64 k.invf c else k.invf }) k

/-- BWRACC (R346), some columns of it or all. -/
def bwraccRun (lim : Option Nat) (f : FmtA) (s : State) : Out :=
  issueP1 f.guard f.neg (sigBwracc f) s fun a s => withUnit a s fun u =>
    let b := (a.x.sSrc .int f.srcA).toNat
    let c0 := (a.x.sSrc .int f.srcB).toNat
    let cnt := cntOf f
    let check (s : State) : Option Nat :=
      if 64 < c0 + cnt ∨ cnt ≤ a.e.done then some 0x02
      else if outside u b then some 0x07
      else if !(inMode (s.ubank u b)) then some 0x08 else none
    let act (lo hi : Nat) (s : State) : State :=
      s.updBank u.core (u.phys b) fun k =>
        ((List.range (hi - lo)).map (· + lo)).foldl (fun k i =>
          k.writeColumn a.x a.act (c0 + i) (operandReg f.srcC + i) (convOf f)) k
    inOrder a s u (if outside u b then 0 else laneBit b) true check id ⟨cnt, lim⟩ act

/-- BWRACC (R346). -/
def execBwracc (f : FmtA) (s : State) : Out := bwraccRun none f s

/-- BACCZ (R347). -/
def execBaccz (f : FmtA) (s : State) : Out :=
  issueP1 f.guard f.neg (sigBaccz f) s fun a s => withUnit a s fun u =>
    let mask := a.x.sSrc .int f.srcA
    let bs := banksOf mask
    let check (s : State) : Option Nat :=
      if bs.any (outside u) then some 0x02
      else if bs.any fun b => !(inMode (s.ubank u b)) then some 0x08 else none
    if mask = 0 then .next s
    else inOrder a s u mask true check id ⟨1, none⟩ fun _ _ s =>
      bs.foldl (fun s b => s.updBank u.core (u.phys b) fun k => { k with acc := [] }) s

/-! ## BFILL (R348) -/

/-- A weight value's bits put into the planes of a slot (R154). -/
def putPlanes (t : Tbl Byte) (fmt slot row c v : Nat) : Tbl Byte :=
  (List.range (slotPlanes fmt)).foldl (fun t p =>
    let a := slotSize fmt * slot + 256 * p + 8 * row + c / 8
    let old := (Tbl.get 0#8 t a).toNat
    let clr := old - (if bitOf old (c % 8) then 2 ^ (c % 8) else 0)
    Tbl.set t a (BitVec.ofNat 8 (clr + (if bitOf v p then 2 ^ (c % 8) else 0)))) t

/-- The 64 values of a row from a lane's group. -/
def rowValues (x : Wave) (base fmt lane : Nat) : List Nat :=
  let w := match fmt with | 0 => 4 | 4 => 16 | _ => 8
  let per := 32 / w
  (List.range 64).map fun c => bitsOf (x.vGet (base + c / per) lane).toNat (w * (c % per)) w

/-- The rows that lanes `lo` to `hi` - 1 supply. -/
def Bank.fillRows (k : Bank) (x : Wave) (act : LaneMask) (base fmt slot row0 lo hi : Nat) : Bank :=
  let lanes := (lanesOf act).filter fun m => lo ≤ m && m < hi
  { k with bytes := lanes.foldl (fun t m =>
      ((List.range 64).zip (rowValues x base fmt m)).foldl (fun t p => putPlanes t fmt slot (row0 + m) p.1 p.2) t) k.bytes }

/-- The scale bytes of a slot from the lanes of one register. -/
def Bank.fillScales (k : Bank) (x : Wave) (act : LaneMask) (reg fmt slot : Nat) : Bank :=
  let n := slotScales fmt
  { k with bytes := ((List.range n).filter fun i => inMask act (i / 4)).foldl (fun t i =>
      Tbl.set t (61440 + n * slot + i) (BitVec.ofNat 8 ((x.vGet reg (i / 4)).toNat >>> (8 * (i % 4))))) k.bytes }

/-- The ranges of a bank that a BFILL of rows, or of scale bytes, writes. -/
def fillSpans (f : FmtA) (act : LaneMask) (fmt slot row0 lo hi : Nat) : List (Nat × Nat) :=
  if fillScale f then (lanesOf act).map fun m => (61440 + slotScales fmt * slot + 4 * m, 4)
  else ((lanesOf act).filter fun m => lo ≤ m && m < hi).flatMap fun m =>
    (List.range (slotPlanes fmt)).map fun p => (slotSize fmt * slot + 256 * p + 8 * (row0 + m), 8)

/-- The format of the bank that a BFILL names, as it stands. -/
def State.fillFmt (s : State) (w : Nat) (f : FmtA) : Nat :=
  match s.unitOf w with
  | some u => btdFmt (s.ubank u ((s.wave w).sSrc .int f.srcA).toNat).btd0
  | none => 0

/-- BFILL (R348), some rows of it or all. -/
def bfillRun (lim : Option Nat) (f : FmtA) (s : State) : Out :=
  let fmt := s.fillFmt s.cur f
  issueP1 f.guard f.neg (sigBfill f fmt) s fun a s => withUnit a s fun u =>
    let b := (a.x.sSrc .int f.srcA).toNat
    let sel := (a.x.sSrc .int f.srcB).toNat
    let slot := sel % 64
    let row0 := sel / 64 % 32
    let cnt := fillCnt f
    let check (s : State) : Option Nat :=
      if slotCount fmt ≤ slot ∨ (!(fillScale f) ∧ 32 < row0 + cnt) ∨ 5 ≤ fmt ∨ cnt ≤ a.e.done then some 0x02
      else if outside u b then some 0x07
      else if !(inMode (s.ubank u b)) then some 0x08 else none
    let act (lo hi : Nat) (s : State) : State :=
      let spans := fillSpans f a.act fmt slot row0 lo hi
      ((s.drainFwd (coreOf a.w) (quadOf a.w)).touchSpans u.core (u.phys b) spans).updBank u.core (u.phys b) fun k =>
        if fillScale f then k.fillScales a.x a.act (operandReg f.srcC) fmt slot
        else k.fillRows a.x a.act (operandReg f.srcC) fmt slot row0 lo hi
    inOrder a s u (if outside u b then 0 else laneBit b) false check id ⟨cnt, lim⟩ act

/-- BFILL (R348). -/
def execBfill (f : FmtA) (s : State) : Out := bfillRun none f s

/-! ## BHAD (R168, R349) -/

/-- The type and element size of a BHAD. -/
def hadType (f : FmtA) : FTy × Nat := if f.mod7.getLsbD 2 then (bf16Ty, 2) else (f32Ty, 4)
def hadLog (f : FmtA) : Nat := 4 + f.mod7.toNat % 4

/-- One stage over a row. -/
def hadStage (ty : FTy) (t : Nat) (row : List Nat) : List Nat :=
  (List.range row.length).map fun i =>
    let j := i ^^^ (2 ^ t)
    let x := row.getD i 0
    let y := row.getD j 0
    if bitOf i t then ty.sub 0 y x else ty.add 0 x y

/-- x × 2^-s rounded to the element type. -/
def hadScale (ty : FTy) (s x : Nat) : Nat :=
  match ty.decode x with
  | .fin neg m e => if m = 0 then x else ty.round 0 neg m (e - s)
  | v => ty.encode 0 v

/-- Stages `lo` to `hi` - 1 of a row, and the scaling after the last. -/
def hadRow (ty : FTy) (k s lo hi : Nat) (row : List Nat) : List Nat :=
  let r := ((List.range (hi - lo)).map (· + lo)).foldl (fun r t => hadStage ty t r) row
  if hi = k then r.map (hadScale ty s) else r

/-- The region of a BHAD stands among its unit's, the last of its wave (R349). -/
def State.holdRegion (s : State) (a : At) (bank off len : Nat) : State :=
  let h : HadRegion := ⟨s.nextId, a.x.idx, a.e.pc, a.e.slot, bank, off, len⟩
  s.updUnit a.x.uid fun u => { u with hads := u.hads.filter (fun x => x.idx ≠ h.idx) ++ [h] }

def State.dropRegion (s : State) (a : At) : State :=
  s.updUnit a.x.uid fun u => { u with hads := u.hads.filter fun x => x.idx ≠ a.x.idx }

/-- BHAD (R349), some stages of it or all. -/
def bhadRun (lim : Option Nat) (f : FmtA) (s : State) : Out :=
  issueP1 f.guard f.neg (sigBhad f) s fun a s => withUnit a s fun u =>
    let b := (a.x.sSrc .int f.srcA).toNat
    let o := (a.x.sSrc .int f.srcB).toNat
    let rows := (a.x.sSrc .int f.srcC).toNat
    let (ty, es) := hadType f
    let k := hadLog f
    let n := 2 ^ k
    let check (s : State) : Option Nat :=
      if rows = 0 ∨ o % (n * es) ≠ 0 ∨ 65536 < o + rows * n * es ∨ k ≤ a.e.done then some 0x02
      else if outside u b then some 0x07
      else if (s.ubank u b).mode ≠ .storage then some 0x08 else none
    let act (lo hi : Nat) (s : State) : State :=
      let s := if hi = k then s.dropRegion a else s
      let s := ((List.range 4).foldl (fun s q => s.drainFwd u.core q) s).touchStore u.core (u.phys b) o (rows * n * es)
      s.updBank u.core (u.phys b) fun kb =>
        (List.range rows).foldl (fun kb r =>
          let at_ := o + r * n * es
          let row := (List.range n).map fun i => ofBytes (kb.readN (at_ + i * es) es)
          kb.write at_ ((hadRow ty k (f.mod7.toNat / 8 % 8) lo hi row).flatMap (toBytes es))) kb
    inOrder a s u (if outside u b then 0 else laneBit b) false check (fun s => s.holdRegion a b o (rows * n * es)) ⟨k, lim⟩ act

/-- BHAD (R349). -/
def execBhad (f : FmtA) (s : State) : Out := bhadRun none f s

end Sys2Proof.Machine
end

