-- ==== Sys2Proof/Machine/EngineIo.lean ====
section
/-! DEFINITION. How the engines reach memory, wait on faults, fail and complete (R115, R121, R125, R173, R190, R391, R392,
R400, R410, R417, R418, R435). -/

namespace Sys2Proof.Machine

/-! ## Access to memory -/

/-- What stops an access of an engine: a translation fault (address, cause, KIND, offset from the start of its operand
region), a line held at its home, or poison at an address. -/
inductive EngStop where
  | fault (va cause kind off : Nat)
  | hold
  | poison (va : Nat)
  deriving DecidableEq, Repr

/-- A read that may be stopped, in the state it leaves. -/
abbrev EngM (α : Type) := Except (EngStop × State) (α × State)

def EngM.bind {α β : Type} (x : EngM α) (f : α → State → EngM β) : EngM β :=
  match x with
  | .error e => .error e
  | .ok (a, s) => f a s

/-- The parts of a range page by page. -/
def pageParts (va n : Nat) : List (Nat × Nat) :=
  if n = 0 then []
  else (List.range ((va + n - 1) / 65536 + 1 - va / 65536)).map fun i =>
    let lo := max va ((va / 65536 + i) * 65536)
    let hi := min (va + n) ((va / 65536 + i + 1) * 65536)
    (lo, hi - lo)

/-- The lines of a location's bytes. -/
def linesIn (l : Loc) (n : Nat) : List Loc :=
  (List.range ((l.ra + n - 1) / 128 + 1 - l.ra / 128)).map fun i => { l with ra := (l.ra / 128 + i) * 128 }

/-- Translation for an engine: only addresses of the global window have a page. Another operand address, which no check has refused,
takes a NOT_PRESENT fault (DESIGN CHOICE, log entry 55). -/
def State.engXl (s : State) (ctx va n : Nat) (k : AccKind) : Except Nat Phys :=
  if 2 ^ 56 < va + n then .error 1 else s.translate ctx va n k

/-- The access waits at its home: a lock, a scrub, a migration, a recovering port. -/
def State.engHold (s : State) (p : Phys) (n : Nat) : Bool :=
  s.wayStops p.loc || (linesIn p.loc n).any fun l => s.locked l || s.homeStops l

/-- A device's own access of a range waits at a home. -/
def State.vaHeld (s : State) (ctx va n : Nat) (k : AccKind) : Bool :=
  (pageParts va n).any fun p =>
    match s.translate ctx p.1 p.2 k with
    | .ok q => s.engHold q p.2
    | .error _ => false

/-- Armed errors and expansion checks of the sectors of a read. -/
def State.meetAll (s : State) (l : Loc) (n : Nat) : State :=
  (linesIn l n).foldl (fun s k =>
    let lo := max k.ra l.ra
    s.meet { l with ra := lo } (min (k.ra + 128) (l.ra + n) - lo)) s

/-- Bytes of one page read at their home (R121). -/
def State.engReadPart (s : State) (ctx base va n kind : Nat) : EngM (List Byte) :=
  match s.engXl ctx va n .load with
  | .error c => .error (.fault va c kind (va - base), s)
  | .ok p =>
    if s.engHold p n then .error (.hold, s)
    else if s.wayOf p.loc = .none then .ok (List.replicate n 0xFF#8, s.postAbandoned p.loc.chip)
    else
      let s := (s.meetAll p.loc n).countMig p
      if s.locPoisoned p.loc p.mxf n then .error (.poison va, s)
      else
        let s := (linesIn p.loc n).foldl State.readyLoc s
        .ok (s.readLoc p.loc p.mxf n, s)

/-- Bytes of a range, page after page, in an operand region that starts at `base`. -/
def State.engReadIn (s : State) (ctx base va n kind : Nat) : EngM (List Byte) :=
  (pageParts va n).foldl (fun acc p =>
    match acc with
    | .error e => .error e
    | .ok (b, s) =>
      match s.engReadPart ctx base p.1 p.2 kind with
      | .error e => .error e
      | .ok (b', s) => .ok (b ++ b', s)) (.ok ([], s))

/-- Bytes of an operand region from its start. -/
def State.engRead (s : State) (ctx va n kind : Nat) : EngM (List Byte) := s.engReadIn ctx va va n kind

/-- Where the bytes of a write go, page by page: each part is stored as elements of `es` bytes. -/
def State.engPlaces (s : State) (ctx va : Nat) (b : List Byte) (es : Nat) : Except EngStop (List (Phys × List Byte)) :=
  (pageParts va b.length).foldl (fun acc p =>
    match acc with
    | .error e => .error e
    | .ok ps =>
      match s.engXl ctx p.1 p.2 .store with
      | .error c => .error (.fault p.1 c 7 (p.1 - va))
      | .ok q =>
        if 2 ≤ q.loc.alop ∧ q.loc.alop ≤ 4 ∧ es ≠ 4 ∧ es ≠ 8 ∧ es ≠ 16 then .error (.fault p.1 6 7 (p.1 - va))
        else if s.engHold q p.2 then .error .hold
        else .ok (ps ++ [(q, (b.drop (p.1 - va)).take p.2)])) (.ok [])

/-- The hub that a location's traffic leaves through. -/
def State.hubOf (s : State) (l : Loc) : Nat :=
  if l.tgt = 2 then 0 else (((s.routePorts l.chip).find? fun i => s.portState i = 2).getD 0) / 8

/-- The bytes of a translated range as pieces of a line each. -/
def piecesOf (p : Phys) (b : List Byte) : List Piece :=
  (linesOf p.loc.ra b.length).map fun k =>
    let lo := max (k * 128) p.loc.ra
    let hi := min (k * 128 + 128) (p.loc.ra + b.length)
    let part := (b.drop (lo - p.loc.ra)).take (hi - lo)
    { vp := p.vps.headD 0, loc := { p.loc with ra := lo }, mxf := p.mxf, past := p.cpol = 2, bytes := part,
      mask := List.replicate part.length true }

/-- Pages of the store room that staged writes take: each launch has its own, in order of need (R392). -/
def State.storePages (s : State) : Nat :=
  let lids := (s.homes.staged.map (·.1)).eraseDups
  lids.foldl (fun n l => n + ceilDiv ((s.homes.staged.filter fun p => p.1 = l).foldl (fun a p => a + 32 * p.2.req.sectors) 0) 65536) 0

/-- The pages of the store room. -/
def storeRoom : Nat := 4092

/-- The store room has no pages for writes of a launch that stages them: they wait (R392). -/
def State.storeFull (s : State) (lid : Nat) (ps : List (Phys × List Byte)) : Bool :=
  let off := ps.filter fun p => p.1.loc.tgt ≠ 0
  cardStage (((s.launch lid).map (·.flags)).getD 0) && off ≠ []
    && storeRoom < s.storePages + ceilDiv (off.foldl (fun n p => n + p.2.length + 64) 0) 65536

/-- A write of a card's or a ring's command performed: at a local home, into the store room of a launch that stages its egress
(R392), or toward a hub, where it stays 640 ns (R391). -/
def State.engPut (s : State) (cmd core ctx lid : Nat) (p : Phys) (b : List Byte) : State :=
  let flags := ((s.launch lid).map (·.flags)).getD 0
  let s := (s.countMig p).snapRoom p.loc b.length
  if p.loc.tgt = 0 then
    if 2 ≤ p.loc.alop ∧ p.loc.alop ≤ 4 then s.alopStore p.loc p.mxf (elemWords b)
    else s.writeLoc p.loc b (List.replicate b.length true)
  else if s.wayOf p.loc = .none then s.postAbandoned p.loc.chip
  else if cardStage flags then
    let (id, s) := s.fresh
    let req : Req := if 2 ≤ p.loc.alop && p.loc.alop ≤ 4 then .alop p.loc p.mxf (elemWords b)
      else .write p.loc b (List.replicate b.length true)
    let e : CellarEntry :=
      { id := id, t := s.time, core := core, uid := 0, ctx := ctx, lid := lid, dep := 0, vps := p.vps, req := req }
    s.updHomes fun h => { h with staged := h.staged ++ [(lid, e)] }
  else
    let (id, s) := s.fresh
    let f : Flit := { t := s.time, hub := s.hubOf p.loc, loc := p.loc, bytes := b, mxf := p.mxf, cmd := cmd, lid := lid,
                      ctx := ctx, die := dieOfCore core, id := id, vp := p.vps.headD 0 }
    s.updHomes fun h => { h with egress := h.egress ++ [f] }

/-- A flit of the command has not left the package. -/
def State.cmdOut (s : State) (cmd : Nat) : Bool := s.homes.egress.any fun f => f.cmd = cmd

/-! ## Commands in their queues -/

/-- The change of one command, wherever it is held. -/
def State.updCmd (s : State) (id : Nat) (f : EngCmd → EngCmd) : State :=
  let g (c : EngCmd) : EngCmd := if c.id = id then f c else c
  let gx (x : XFly) : XFly := { x with cmd := g x.cmd }
  let die (d : Die) : Die := { d with merge := d.merge.map g, xcards := d.xcards.map g, xfly := d.xfly.map gx }
  (s.mapParts (fun c => c) die).updQueues fun q => { q with nmQ := q.nmQ.map g }

/-- A command where it is held. -/
def State.cmdHeld (s : State) (id : Nat) : Option EngCmd :=
  ((s.dies.flatMap fun p => p.2.merge ++ p.2.xcards ++ p.2.xfly.map (·.cmd)) ++ s.queues.nmQ).find? fun c => c.id = id

def State.delCmd (s : State) (id : Nat) : State :=
  let keep (c : EngCmd) : Bool := c.id ≠ id
  let die (d : Die) : Die :=
    { d with merge := d.merge.filter keep, xcards := d.xcards.filter keep, xfly := d.xfly.filter fun x => keep x.cmd }
  (s.mapParts (fun c => c) die).updQueues fun q => { q with nmQ := q.nmQ.filter keep }

/-- The launch of a command: its unit's, or the one recorded for its card. -/
def State.cmdLid (s : State) (c : EngCmd) : Nat :=
  match c.card with
  | some a => ((s.card c.ctx a).map (·.lid)).getD 0
  | none => c.lid

/-- SITE index of a command's engine (Table 18.3). -/
def EngCmd.index (c : EngCmd) : Nat := match c.kind with | 3 => 4 | 4 => 5 | 5 => c.engine | _ => 2

/-- SLOT and UNIT of records about a command. -/
def State.cmdIds (s : State) (c : EngCmd) : Nat × Nat :=
  if c.card.isSome then (0xFFFF, 0xFFFFFFFF) else s.unitIds c.uid

/-- A command waits on a translation fault, which is posted (R417). -/
def State.cmdFault (s : State) (c : EngCmd) (va cause kind off : Nat) : State :=
  let (slot, unit) := s.cmdIds c
  let s := s.postFault c.ctx (faultBytes va cause kind 0xFF 1 true c.ctx slot unit off s.time)
  s.updCmd c.id fun c => { c with waiting := true, page := va / 65536 }

/-! ## Failures (R418, R435) -/

/-- A card goes to the head of its priority in the queue that it was first dispatched from, to run from its start; it waits while that queue has no room (R63). -/
def State.repost (s : State) (c : Card) : State :=
  if s.cardWaits c.ctx c.prio (if c.pkg then none else some c.home) then s.updCard c.ctx c.addr fun x => { x with again := true }
  else
  let s := s.setStat c.ctx c.addr fun x => { x with stat := .posted, again := false }
  let x : QCard := { ctx := c.ctx, addr := c.addr, prio := c.prio, lid := 0, c0 := 0, c1 := 0 }
  if c.pkg then s.toPackage x true else s.toDie c.home x true

/-- The rung of a failed card command, and what it does. -/
def State.cardLadder (s : State) (ctx addr : Nat) (again : Bool) : Nat × State :=
  match s.card ctx addr with
  | none => (3, s.stopContext ctx)
  | some c =>
    if cardSnapshot c.flags then s.containLaunch ctx c.lid again
    else if cardIdemp c.flags ∧ again then (1, s.repost c)
    else (3, s.stopContext ctx)

/-- The ENGINE record of a command (R421). -/
def State.postEngine (s : State) (lid ctx sev die index sub slot unit : Nat) (iter : List Nat) (code role : Nat) : State :=
  s.postRung lid
    { cls := 11, sev := sev, flags := rungFlags sev, ctx := some ctx, slot := slot, unit := unit, die := die, site := 7,
      index := index, sub := sub,
      detail := detailOf [(0, padTo 10 (iter.flatMap (toBytes 2))), (10, toBytes 1 code), (11, toBytes 1 role)] }

/-- What follows a failure of an engine's command. -/
inductive EngFail where
  /-- the datapath checker, a scrub: the owner takes the ladder -/
  | check
  /-- poison was read at an address, which lies in the write regions or not -/
  | poison (va : Nat)
  /-- an owner change, or CTXOFF: nothing follows -/
  | quiet (role : Nat)
  deriving DecidableEq, Repr

/-- The ladder of the owner of a failed command: its record. A ring request has no owner. -/
def State.engLadder (s : State) (f : EngFail) (ctx lid uid : Nat) (card : Option Nat) (owned : Bool) : Nat × State :=
  match f with
  | .quiet _ => (0, s)
  | .check =>
    if !owned then (0, s)
    else match card with
      | some a => s.cardLadder ctx a true
      | none => s.containUnit uid
  | .poison va =>
    if !owned then (0, s)
    else
      let within := s.inRegions lid (va / 32 * 32) 32
      match card with
      | some a =>
        let snap := ((s.card ctx a).map fun c => cardSnapshot c.flags).getD false
        if snap then s.containLaunch ctx lid within else s.containLaunch ctx 0 false
      | none => s.containLaunch ctx lid within

def EngFail.role : EngFail → Nat
  | .quiet r => r
  | _ => 1

/-- The records of a failure: ENGINE, and POISON where poison was read. -/
def State.engFailed (s : State) (f : EngFail) (ctx lid uid : Nat) (card : Option Nat) (owned : Bool)
    (die index sub slot unit : Nat) (iter : List Nat) : State :=
  let (sev, s) := s.engLadder f ctx lid uid card owned
  let s := match f with
    | .poison va =>
      s.postRung lid
        { cls := 6, sev := sev, flags := rungFlags sev + 16, ctx := some ctx, slot := slot, unit := unit, die := die,
          site := 7, index := index, sub := sub, addr := va,
          detail := detailOf [(0, toBytes 1 (if index = 3 then 1 else 2)), (1, toBytes 1 sev)] }
    | _ => s
  s.postEngine lid ctx sev die index sub slot unit iter 5 f.role

/-! ## Completion -/

/-- A card's command is complete: staged writes first (R435), then the card's end. -/
def State.cmdCardEnd (s : State) (ctx addr : Nat) : State :=
  match s.card ctx addr with
  | none => s
  | some c =>
    if cardStage c.flags ∧ (s.homes.staged.any fun p => p.1 = c.lid) then
      s.updLaunch c.lid fun l => { l with flush := true }
    else s.endCard ctx addr 4

/-- The wave that issued a command is still there. -/
def State.issuer (s : State) (uid wid : Nat) : Bool := (s.wave wid).live && (s.wave wid).uid = uid

/-- A command ends with a release of its writes at its scope (R115): from CLUSTER scope on the epoch of its die advances, and what
its core sends from then on comes after them. -/
def State.cmdRelease (s : State) (core scope : Nat) : State := if scope ≤ 1 then s else s.markRelease core

/-- The counter of a command is decremented; its observation acquires the writes (R125). What the core held of a destination has
left its L1 with the writes themselves. -/
def State.cmdCount (s : State) (uid wid : Nat) (ctr : Option Nat) (scope : Nat) : State :=
  if s.issuer uid wid then
    let s := if scope ≤ 1 || ctr.isNone then s else s.acquirePass (coreOf wid)
    let s := if scope = 4 && ctr.isSome then s.acquirePorts (coreOf wid) else s
    s.decDc? wid ctr
  else s

/-- A command with its outputs and status written ends: the status register, the counter, the card. -/
def State.cmdEnd (s : State) (c : EngCmd) (val : Nat) : State :=
  let s := s.delCmd c.id
  match c.card with
  | some addr => (s.advanceEpoch c.die).cmdCardEnd c.ctx addr
  | none =>
    let s := if c.kind = 5 then s else s.cmdRelease (coreOf c.wid) c.scope
    let s := match c.dst with
      | some r => if s.issuer c.uid c.wid then s.updWave c.wid fun x => x.deliver ⟨false, r, 0, BitVec.ofNat 32 val⟩ else s
      | none => s
    s.cmdCount c.uid c.wid c.ctr c.scope

/-- What performing a command comes to: its status code, the value for its register, and the state with the outputs and
status written; or a stop. -/
inductive EngRes where
  | done (code val : Nat) (s : State)
  | stop (e : EngStop) (s : State)

/-- The output of a command that an instruction of a core issued goes through the core's cellar (R111). -/
def EngCmd.viaCore (c : EngCmd) : Bool := c.card.isNone && c.kind ≠ 5

/-- Pieces of a command's output enter the cellar as its room allows. -/
def State.sendPieces (s : State) (c : EngCmd) : List Piece → State × List Piece
  | [] => (s, [])
  | p :: t =>
    if s.wayOf p.loc = .none then State.sendPieces (s.postAbandoned p.loc.chip) c t
    else if s.emitRoom (coreOf c.wid) then State.sendPieces (s.emit c.id (coreOf c.wid) c.uid c.ctx c.lid p) c t
    else (s, p :: t)

/-- A turn of a command whose result stands: its output goes on its way; whether all of it has been performed. -/
def State.cmdFlush (s : State) (c : EngCmd) : State × Bool :=
  if c.viaCore then
    if c.outs = [] then (s, s.applied (coreOf c.wid) c.mark)
    else
      let (s, left) := s.sendPieces c c.outs
      (s.updCmd c.id fun c => { c with outs := left, mark := s.nextId }, false)
  else (s, !(s.cmdOut c.id))

/-- A TURN OF A COMMAND: performed, it ends by `fin` once its writes have been performed, those toward other chips sent; stopped by a fault, it waits; stopped by poison, or made to fail, it ends with CODE FAULT, and its owner takes the
ladder; held at a line, it leaves no trace. `fail` writes the status of a failure. -/
def State.cmdTurn (s : State) (c : EngCmd) (perform : State → EngRes) (fail : State → EngRes)
    (fin : State → EngCmd → Nat → Nat → State := fun s c _ val => s.cmdEnd c val) : State :=
  let s0 := s
  let owned := c.kind ≠ 5 || c.card.isSome
  let lid := s.cmdLid c
  let (slot, unit) := s.cmdIds c
  let desc (s : State) : EngCmd :=
    { c with desc := if c.desc = [] then ((s.cmdHeld c.id).map (·.desc)).getD [] else c.desc }
  let ended (s : State) (code val : Nat) : State :=
    if (c.viaCore && ((s.cmdHeld c.id).map (·.outs)).getD [] ≠ []) || s.cmdOut c.id then
      s.updCmd c.id fun c => { c with result := some (code, val), role := 0 }
    else fin s (desc s) code val
  let broken (f : EngFail) (s : State) : State :=
    match fail s with
    | .stop (.fault va cause kind off) s => s.cmdFault c va cause kind off
    | .stop _ _ => s0
    | .done code val s =>
      let up := match f with | .quiet _ => false | _ => owned
      let s := if up && c.card.isSome then s.delCmd c.id else ended s code val
      s.engFailed f c.ctx lid c.uid c.card up c.die c.index 0 slot unit []
  if c.role = 1 then broken .check s
  else if c.role ≠ 0 then broken (.quiet (if c.role = 2 then 2 else 1)) s
  else if c.waiting then s
  else
    match c.result with
    | some (code, val) =>
      match s.cmdFlush c with
      | (s, true) => fin s c code val
      | (s, false) => s
    | none =>
      match perform s with
      | .done code val s => ended s code val
      | .stop (.fault va cause kind off) s => s.cmdFault c va cause kind off
      | .stop .hold _ => s0
      | .stop (.poison va) s => broken (.poison va) s

/-- Write all or nothing: the places of several writes, or the first stop. -/
def State.engPlaceAll (s : State) (ctx : Nat) : List (Nat × List Byte × Nat) → Except EngStop (List (Phys × List Byte))
  | [] => .ok []
  | (va, b, es) :: t =>
    match s.engPlaces ctx va b es with
    | .error e => .error e
    | .ok ps => match s.engPlaceAll ctx t with | .error e => .error e | .ok qs => .ok (ps ++ qs)

/-- The outputs of a command and its status word are written. -/
def State.cmdWrite (s : State) (c : EngCmd) (ws : List (Nat × List Byte × Nat)) (code val : Nat) : EngRes :=
  let lid := s.cmdLid c
  match s.engPlaceAll c.ctx ws with
  | .error e => .stop e s
  | .ok ps =>
    if c.viaCore then
      let s := ps.foldl (fun s p => s.countMig p.1) s
      .done code val (s.updCmd c.id fun c => { c with outs := ps.flatMap fun p => piecesOf p.1 p.2 })
    else if s.storeFull lid ps then .stop .hold s
    else .done code val (ps.foldl (fun s p => s.engPut c.id (c.die * 16) c.ctx lid p.1 p.2) s)

/-- The status word alone; one that no page of the window can hold is dropped. -/
def State.cmdStatus (s : State) (c : EngCmd) (va : Nat) (word : List Byte) (code val : Nat) : EngRes :=
  if 2 ^ 56 < va + 8 then .done code val s else s.cmdWrite c [(va, word, 8)] code val

/-- The descriptor of a command: read when a card issued it, with KIND 8; a transform ring's request takes its scope
from its block. A merge card's descriptor is read where the card says, aligned or not (DESIGN CHOICE, log entry 55). -/
def State.cmdDesc (s : State) (c : EngCmd) : EngM (List Byte) :=
  if c.desc ≠ [] then .ok (c.desc, s)
  else
    match s.engRead c.ctx c.descVa 64 8 with
    | .error e => .error e
    | .ok (b, s) =>
      let take (c : EngCmd) : EngCmd :=
        { c with desc := b, scope := if c.kind = 5 && c.card.isNone then byteAt b 2 % 8 else c.scope }
      .ok (b, s.updCmd c.id take)

end Sys2Proof.Machine
end

