-- ==== Sys2Proof/Machine/Copy.lean ====
section
/-! DEFINITION. The copy unit: ACOPY and copy cards (R92, R121, R162, R169, R200 to R202, R317, R417, R418). -/

namespace Sys2Proof.Machine

/-! ## The descriptor (Table 9.10) -/

def cpSrc (b : List Byte) : Nat := leAt b 0 8
def cpDst (b : List Byte) : Nat := leAt b 8 8
def cpExt (b : List Byte) : List Nat := (List.range 5).map fun d => leAt b (16 + 2 * d) 2
def cpConv (b : List Byte) : Nat := byteAt b 26
def cpEsz (b : List Byte) : Nat := byteAt b 27
/-- The stride of dimension `d`, 1 to 4, from the strides at `at_`. -/
def cpStride (b : List Byte) (at_ d : Nat) : Int := sext 32 (leAt b (at_ + 4 * (d - 1)) 4)
def cpDone (b : List Byte) : Nat := byteAt b 60
def cpCtr (b : List Byte) : Nat := cpDone b % 8
def cpScope (b : List Byte) : Nat := cpDone b / 16 % 8

/-- A bank-slot code (R169): its unit bank, first slot and format. -/
def slotDst (b : List Byte) : Bool := bitOf (cpDst b) 63
def slotBank (b : List Byte) : Nat := cpDst b % 32
def slotFirst (b : List Byte) : Nat := cpDst b / 32 % 64
def slotFmt (b : List Byte) : Nat := cpDst b / 2048 % 8

/-- Source and destination element sizes. -/
def cpSrcSize (b : List Byte) : Nat := 2 ^ cpEsz b
def cpDstSize (b : List Byte) : Nat := match cpConv b with | 1 => 2 | 2 => 4 | 3 => 2 | 4 => 4 | _ => cpSrcSize b

/-- A descriptor that R200 refuses, with a start vector. A slot format without slots, and extents beyond the first of a bank-slot
destination, are refused with it; reserved bits within a field's byte are ignored (R2). -/
def copyRefused (b : List Byte) (start : List Nat) : Bool :=
  let conv := cpConv b
  let ext := cpExt b
  ext.contains 0 || 7 < conv || !(zeroAt b 61 3)
    || (slotDst b != (5 ≤ conv && conv ≤ 7))
    || (if slotDst b then
          (if conv = 7 then 3 else 4) < slotFmt b
            || (ext.drop 1).any (· ≠ 1) || slotCount (slotFmt b) < slotFirst b + ext.headD 0
        else
          4 < cpEsz b || ((conv = 1 || conv = 3) && cpEsz b ≠ 2) || ((conv = 2 || conv = 4) && cpEsz b ≠ 1))
    || (start.zip ext).any fun p => p.2 ≤ p.1

/-- 0 the global window, 1 the storage aperture, 2 elsewhere. -/
def apertureOf (va : Nat) : Nat := if va < globalEnd then 0 else if va < storageEnd then 1 else 2

/-- An address in the global window, or in the unit's storage aperture. -/
def copyBase (u : WorkUnit) (va : Nat) : Bool :=
  match apertureOf va with | 0 => true | 1 => va - globalEnd < u.nbanks * 65536 | _ => false

/-- Unit banks that an ACOPY names (R92). -/
def State.copyNames (s : State) (u : WorkUnit) (b : List Byte) : LaneMask :=
  let all := maskOfList ((List.range u.nbanks).filter fun i => (s.ubank u i).mode = .storage)
  (if slotDst b then laneBit (slotBank b) else 0)
    ||| (if apertureOf (cpSrc b) = 1 || (!(slotDst b) && apertureOf (cpDst b) = 1) then all else 0)

/-! ## Elements (R201, R202) -/

/-- The iteration after one, in lexicographic order of (i4, …, i0). -/
def nextIter : List Nat → List Nat → Option (List Nat)
  | e :: es, i :: is => if i + 1 < e then some ((i + 1) :: is) else (nextIter es is).map (0 :: ·)
  | _, _ => none

/-- The address of an element. -/
def elemAddr (b : List Byte) (base size stride : Nat) (it : List Nat) : Nat :=
  let off := ((List.range 4).map fun d => (it.getD (d + 1) 0 : Int) * cpStride b stride (d + 1)).foldl (· + ·) 0
  wrapN 64 ((base : Int) + (it.headD 0 * size : Nat) + off)

/-- One element converted. -/
def convElem (conv : Nat) (l : List Byte) : List Byte :=
  match conv with
  | 1 => toBytes 2 (convF f32Ty bf16Ty 0 (ofBytes l))
  | 2 => toBytes 4 (convF bf16Ty f32Ty 0 (ofBytes l))
  | 3 => toBytes 2 (convF f32Ty f16Ty 0 (ofBytes l))
  | 4 => toBytes 4 (convF f16Ty f32Ty 0 (ofBytes l))
  | _ => l

/-- Bytes of a slot's source. -/
def slotSource (conv fmt : Nat) : Nat :=
  match conv with
  | 5 => slotSize fmt + slotScales fmt
  | 6 => 4096
  | _ => (if fmt = 0 then 1024 else 2048) + 64

/-- The block format of a slot format. -/
def slotElem (fmt : Nat) : Elem := match fmt with | 0 => .mxf4 | 1 => .mxi8 | 2 => .mxf8e4 | _ => .mxf8e5

/-- A column of 32 codes as a slot holds it: the stored values and the bytes of its scale entry. -/
def slotStore (fmt : Nat) (codes : List Nat) (sc : Nat) : List Nat × List Byte :=
  if fmt ≤ 1 then (codes, toBytes 1 sc)
  else
    let a := alignWeight fmt codes sc
    let bits := if fmt = 4 then 16 else 8
    (a.a.map (wrapN bits),
      if fmt = 4 then toBytes 1 (if a.bad then 0x80 else wrapN 8 a.emax)
      else toBytes 1 (if a.bad then 0xFF else sc) ++ toBytes 1 (wrapN 8 a.emax))

/-- Column `c` of a slot's source under conversions 6 and 7. -/
def slotCol (conv fmt : Nat) (l : List Byte) (c : Nat) : List Nat × List Byte :=
  if conv = 6 then
    let xs := (List.range 32).map fun k => leAt l (2 * (64 * k + c)) 2
    if fmt = 4 then slotStore 4 xs 0
    else
      let vs := xs.map bf16Ty.decode
      let sc := mxScale (slotElem fmt) vs
      slotStore fmt (if sc = 0xFF then List.replicate 32 0 else vs.map fun v => quant (slotElem fmt) v sc) sc
  else
    let w := if fmt = 0 then 4 else 8
    let codes := (List.range 32).map fun k =>
      bitsOf (byteAt l ((64 * k + c) * w / 8)) ((64 * k + c) * w % 8) w
    slotStore fmt codes (byteAt l (256 * w + c))

/-- A slot written from its source bytes. -/
def Bank.putSlot (k : Bank) (conv fmt slot : Nat) (l : List Byte) : Bank :=
  let n := slotScales fmt
  if conv = 5 then (k.write (slotSize fmt * slot) (l.take (slotSize fmt))).write (61440 + n * slot) (l.drop (slotSize fmt))
  else
    (List.range 64).foldl (fun k c =>
      let (vs, sc) := slotCol conv fmt l c
      let t := ((List.range 32).zip vs).foldl (fun t p => putPlanes t fmt slot p.1 c p.2) k.bytes
      { k with bytes := t }.write (61440 + n * slot + c * sc.length) sc) k

/-! ## The walk -/

/-- What stops a walk: a stop at memory, a copy fault, the cellar or an earlier use of a bank. -/
inductive CopyStop where
  | eng (e : EngStop)
  | bad
  | wait
  deriving DecidableEq, Repr

/-- The bank bytes of a range of the storage aperture: none where one lies outside or out of STORAGE mode. -/
def State.bankBytes (s : State) (k : Copy) (va n : Nat) : Option (List (Nat × Nat)) :=
  match s.unit k.uid with
  | none => none
  | some u =>
    let at_ (i : Nat) : Option (Nat × Nat) :=
      let o := va + i - globalEnd
      let b := o / 65536
      if va < globalEnd ∨ outside u b ∨ (s.ubank u b).mode ≠ .storage then none else some (u.phys b, o % 65536)
    (List.range n).mapM at_

/-- A BHAD issued before an ACOPY transforms bytes of the storage aperture that it comes to (R349). -/
def State.copyHad (s : State) (k : Copy) (va n : Nat) : Bool :=
  ((s.unit k.uid).map fun u => u.hads.any fun h =>
    h.seq ≤ k.id && h.meets ((va - globalEnd) / 65536) ((va - globalEnd) % 65536) n && s.hadOn u h && !(s.hadStopped u h)).getD false

/-- A copy as its core holds it. -/
def State.copyNow (s : State) (k : Copy) : Copy := (((s.core k.core).copies.find? fun x => x.id = k.id).getD k)

def State.updCopy (s : State) (core id : Nat) (f : Copy → Copy) : State :=
  s.updCore core fun c => { c with copies := c.copies.map fun k => if k.id = id then f k else k }
def State.delCopy (s : State) (core id : Nat) : State :=
  s.updCore core fun c => { c with copies := c.copies.filter fun k => k.id ≠ id }

/-- A source sector of the global window, read once: at its home, and for an ACOPY with what its core has performed (R121). -/
def State.copySector (s : State) (k : Copy) (va v : Nat) : Except (CopyStop × State) (List Byte × State) :=
  match Tbl.find (s.copyNow k).rd v with
  | some b => .ok (b, s)
  | none =>
    match s.engRead k.ctx (v * 32) 32 6 with
    | .error (.fault _ c kind off, s) => .error (.eng (.fault (max va (v * 32)) c kind off), s)
    | .error (.poison _, s) => .error (.eng (.poison (max va (v * 32))), s)
    | .error (e, s) => .error (.eng e, s)
    | .ok (home, s) =>
      let asid := (s.ctx k.ctx).asid
      let own (i : Nat) (b : Byte) : Byte :=
        match s.translate k.ctx (v * 32 + i) 1 .load with
        | .ok p => s.coreByte k.core asid false p.loc ((s.stagedByte (((s.unit k.uid).map (·.crec.lid)).getD 0) p.loc).getD b)
        | .error _ => b
      let b := if k.card.isSome then home else ((List.range 32).zip home).map fun p => own p.1 p.2
      .ok (b, s.updCopy k.core k.id fun x => { x with rd := Tbl.set x.rd v b })

/-- A source read of the copy unit. -/
def State.copyRead (s : State) (k : Copy) (va n : Nat) : Except (CopyStop × State) (List Byte × State) :=
  let base := apertureOf (cpSrc k.desc)
  if apertureOf va ≠ base ∨ (base = 0 ∧ globalEnd < va + n) then .error (.bad, s)
  else if base = 1 then
    match s.bankBytes k va n with
    | none => .error (.bad, s)
    | some ps =>
      if s.copyHad k va n then .error (.wait, s)
      else if ps.any fun p => ((s.core k.core).bank p.1).bad.contains p.2 then .error (.eng (.poison va), s)
      else .ok (ps.map fun p => Tbl.get 0#8 ((s.core k.core).bank p.1).bytes p.2, s)
  else if base = 2 then .error (.bad, s)
  else
    let vs := (List.range ((va + n - 1) / 32 + 1 - va / 32)).map (· + va / 32)
    let all := vs.foldl (fun acc v =>
      match acc with
      | .error e => .error e
      | .ok (b, s) =>
        match s.copySector k va v with
        | .error e => .error e
        | .ok (b', s) => .ok (b ++ b', s)) (.ok ([], s) : Except (CopyStop × State) (List Byte × State))
    match all with
    | .error e => .error e
    | .ok (b, s) => .ok ((b.drop (va % 32)).take n, s)

/-- Bytes of a destination sector, to be written with the rest of it (R122). -/
def State.copyHold (s : State) (k : Copy) (va : Nat) (p : Phys) (b : List Byte) : State :=
  let v := va / 32
  let new : Piece := { vp := va / 65536, loc := { p.loc with ra := p.loc.ra / 32 * 32 }, mxf := p.mxf, past := p.cpol = 2,
                       bytes := List.replicate 32 0#8, mask := List.replicate 32 false }
  let put (x : Piece) (q : Nat × Byte) : Piece :=
    { x with bytes := putAt x.bytes (va % 32 + q.1) q.2, mask := putAt x.mask (va % 32 + q.1) true }
  s.updCopy k.core k.id fun x =>
    { x with wr := Tbl.set x.wr v (((List.range b.length).zip b).foldl put ((Tbl.find x.wr v).getD new)) }

/-- The parts of a range sector by sector. -/
def sectorParts (va n : Nat) : List (Nat × Nat) :=
  (List.range ((va + n - 1) / 32 + 1 - va / 32)).map fun i =>
    let lo := max va ((va / 32 + i) * 32)
    (lo, min (va + n) ((va / 32 + i + 1) * 32) - lo)

/-- A destination element written: in its bank; through the cellar, an element under alias 2 to 4 at once, other bytes sector by
sector (R122, R380). -/
def State.copyWrite (s : State) (k : Copy) (lid va : Nat) (l : List Byte) : Except (CopyStop × State) State :=
  let base := apertureOf (cpDst k.desc)
  if apertureOf va ≠ base ∨ (base = 0 ∧ globalEnd < va + l.length) then .error (.bad, s)
  else if base = 1 then
    match s.bankBytes k va l.length with
    | none => .error (.bad, s)
    | some ps =>
      if s.copyHad k va l.length then .error (.wait, s)
      else .ok ((ps.zip l).foldl (fun s p =>
        (s.updBank k.core p.1.1 fun b => { b with bytes := Tbl.set b.bytes p.1.2 p.2 }).touchStore k.core p.1.1 p.1.2 1) s)
  else if base = 2 then .error (.bad, s)
  else if !(s.emitRoom k.core) then .error (.wait, s)
  else
    match s.engPlaces k.ctx va l l.length with
    | .error e => .error (.eng e, s)
    | .ok ps =>
      let put (r : State × Nat) (p : Phys × List Byte) : State × Nat :=
        let s := r.1.countMig p.1
        let at_ := r.2
        let done := at_ + p.2.length
        if s.wayOf p.1.loc = .none then (s.postAbandoned p.1.loc.chip, done)
        else if 2 ≤ p.1.loc.alop && p.1.loc.alop ≤ 4 then
          ((piecesOf p.1 p.2).foldl (fun s q => s.emit k.id k.core k.uid k.ctx lid q) s, done)
        else
          ((sectorParts at_ p.2.length).foldl (fun s q =>
            s.copyHold k q.1 { p.1 with loc := { p.1.loc with ra := p.1.loc.ra + (q.1 - at_) } }
              ((p.2.drop (q.1 - at_)).take q.2)) s, done)
      .ok (ps.foldl put (s, va)).1

/-- The launch that a copy's writes belong to. -/
def State.copyLid (s : State) (k : Copy) : Nat :=
  match k.card with
  | some a => ((s.card k.ctx a).map (·.lid)).getD 0
  | none => ((s.unit k.uid).map (·.crec.lid)).getD 0

/-- Sectors of a copy enter the cellar as its room allows. -/
def State.copySend (s : State) (k : Copy) (lid : Nat) : Tbl Piece → State
  | [] => s
  | (v, p) :: t =>
    let s' := s.updCopy k.core k.id fun x => { x with wr := Tbl.del x.wr v }
    if s.wayOf p.loc = .none then State.copySend (s'.postAbandoned p.loc.chip) k lid t
    else if s.emitRoom k.core then State.copySend (s'.emit k.id k.core k.uid k.ctx lid p) k lid t
    else s

/-- A destination sector that has all its bytes is written at once, the others as the walk ends (R122, R202, R381). -/
def State.copyFull (s : State) (k : Copy) (lid : Nat) : State :=
  s.copySend k lid ((s.copyNow k).wr.filter fun p => p.2.mask.all id)

/-- One element, or one slot, moved. -/
def State.copyStep (s : State) (k : Copy) : Except (CopyStop × State) State :=
  let b := k.desc
  let it := k.iter
  if slotDst b then
    match s.unit k.uid with
    | none => .error (.bad, s)
    | some u =>
      if s.banksBusy k.uid k.slots k.id then .error (.wait, s)
      else
        let fmt := slotFmt b
        match s.copyRead k (wrapN 64 ((cpSrc b : Int) + (it.headD 0 : Int) * cpStride b 28 1)) (slotSource (cpConv b) fmt) with
        | .error e => .error e
        | .ok (l, s) =>
          let slot := slotFirst b + it.headD 0
          let s := s.touchSpans k.core (u.phys (slotBank b))
            [(slotSize fmt * slot, slotSize fmt), (61440 + slotScales fmt * slot, slotScales fmt)]
          .ok (s.updBank k.core (u.phys (slotBank b)) fun x => x.putSlot (cpConv b) fmt slot l)
  else
    match s.copyRead k (elemAddr b (cpSrc b) (cpSrcSize b) 28 it) (cpSrcSize b) with
    | .error e => .error e
    | .ok (l, s) =>
      let lid := s.copyLid k
      (s.copyWrite k lid (elemAddr b (cpDst b) (cpDstSize b) 44 it) (convElem (cpConv b) l)).map fun s => s.copyFull k lid

/-- The walk goes on for at most a number of elements: the iteration it comes to, none at the end, and what stopped it. -/
def State.copyWalk (s : State) (k : Copy) : Nat → Option (List Nat) → State × Option (List Nat) × Option CopyStop
  | 0, it => (s, it, none)
  | _, none => (s, none, none)
  | n + 1, some it =>
    match s.copyStep { k with iter := it } with
    | .error (.eng .hold, _) => (s, some it, some (.eng .hold))
    | .error (.wait, _) => (s, some it, some .wait)
    | .error (e, s) => (s, some it, some e)
    | .ok s => State.copyWalk s k n (nextIter (cpExt k.desc) it)

/-- Elements moved in one step of a copy: where it pauses between elements is not promised. -/
def copyBurst : Nat := 1024

/-! ## Faults, failure, completion -/

def copyIds (s : State) (k : Copy) : Nat × Nat := if k.card.isSome then (0xFFFF, 0xFFFFFFFF) else s.unitIds k.uid

def State.copyRecord (s : State) (k : Copy) (sev code role : Nat) : State :=
  let (slot, unit) := copyIds s k
  s.postEngine (s.copyLid k) k.ctx sev (dieOfCore k.core) 3 (k.core % 16) slot unit k.iter code role

/-- A copy waits on a fault, its vector posted in an ENGINE record; one of an IDEMP unit takes its unit with it (R417). -/
def State.copyFault (s : State) (k : Copy) (va cause kind : Nat) : State :=
  let (slot, unit) := copyIds s k
  let pcit := ((List.range 5).map fun d => k.iter.getD d 0 % 4096 * 2 ^ (12 * d)).foldl (· + ·) 0
  let s := s.postFault k.ctx (faultBytes va cause kind 0xFF 1 true k.ctx slot unit pcit s.time)
  let idemp := k.card.isNone && ((s.unit k.uid).map (·.crec.idemp)).getD false
  if idemp then s.requeue k.uid [va / 65536]
  else
    (s.copyRecord k 0 0 0).updCopy k.core k.id fun k => { k with waiting := true, page := va / 65536 }

/-- A refused descriptor of a card, CODE 3, or a copy fault, CODE 5: the context stops (R418). -/
def State.copyStop (s : State) (k : Copy) (code : Nat) : State :=
  (s.copyRecord k 3 code 3).stopContext k.ctx

/-- A failure of a copy ends its walk; what it has moved is still written. -/
def State.copyFail (s : State) (k : Copy) (role : Nat) (bad : Option Nat) : State :=
  s.updCopy k.core k.id fun x =>
    { x with iter := k.iter, walked := true, failed := true, role := role, badVa := bad, waiting := false }

/-- What follows a failed copy once its writes have been sent: its records, and the ladder of its owner, or, after a copy fault, the stop
of the context (R418). -/
def State.copyFailed (s : State) (k : Copy) : State :=
  if k.role = 4 then s.copyStop k 5
  else
  let (slot, unit) := copyIds s k
  let f : EngFail := match k.badVa, k.role with
    | some va, _ => .poison va
    | none, 1 => .check
    | none, 2 => .quiet 2
    | none, _ => .quiet 1
  let up := match f with | .quiet _ => false | _ => true
  let s := if up && k.card.isSome then s.delCopy k.core k.id else s
  s.engFailed f k.ctx (s.copyLid k) k.uid k.card up (dieOfCore k.core) 3 (k.core % 16) slot unit k.iter

/-- A copy card that failed at an owner change is posted again with the vector of the first element not written. -/
def State.copyAgain (s : State) (k : Copy) (addr : Nat) : State :=
  let s := s.deviceWrite? k.ctx (addr + 16) (padTo 10 (k.iter.flatMap (toBytes 2)))
  match s.card k.ctx addr with
  | some c => s.repost c
  | none => s

/-- Every write of the copy is applied: counter, card decrement, or the end of its card. -/
def State.copyEnd (s : State) (k : Copy) : State :=
  let s := s.delCopy k.core k.id
  match k.card with
  | some addr =>
    if k.failed && k.role = 2 then s.copyAgain k addr else (s.advanceEpoch (dieOfCore k.core)).cmdCardEnd k.ctx addr
  | none =>
    let lid := s.copyLid k
    let s := s.cmdRelease k.core k.scope
    let s := s.cmdCount k.uid k.wid k.ctr k.scope
    let s := match k.cardDec with
      | some a => s.push k.core k.uid k.ctx lid (.preds a (dieOfCore k.core) 0xFF)
      | none => s
    s.pokeRounds k.uid

/-- A copy card's descriptor is read and checked (R200, R417). -/
def State.copyOpen (s : State) (k : Copy) : State :=
  match s.engRead k.ctx k.descVa 64 8 with
  | .error (.fault va cause kind _, s) => s.copyFault k va cause kind
  | .error (.poison va, s) => s.copyFail k 3 (some va)
  | .error (.hold, s) => s
  | .ok (b, s) =>
    if copyRefused b k.iter then s.copyStop k 3 else s.updCopy k.core k.id fun k => { k with desc := b }

/-- The end of a copy: its sectors are sent, a failure takes its course, and all is applied. -/
def State.copyDrain (s : State) (k : Copy) : State :=
  if k.wr ≠ [] then s.copySend k (s.copyLid k) k.wr
  else
    match k.mark with
    | none =>
      let s := s.updCopy k.core k.id fun x => { x with mark := some s.nextId }
      if k.failed then s.copyFailed k else s
    | some m => if s.applied k.core m then s.copyEnd k else s

/-- A turn of a copy. -/
def State.copyTurn (s : State) (k : Copy) : State :=
  if k.walked then s.copyDrain k
  else if k.role ≠ 0 then s.copyFail k k.role none
  else if k.waiting then s
  else if k.desc = [] then s.copyOpen k
  else
    let (s, it, e) := s.copyWalk k copyBurst (some k.iter)
    let k' := { k with iter := it.getD k.iter }
    let s := s.updCopy k.core k.id fun k => { k with iter := it.getD k.iter }
    match it, e with
    | none, _ => s.updCopy k.core k.id fun k => { k with walked := true }
    | _, some (.eng (.fault va cause kind _)) => s.copyFault k' va cause kind
    | _, some (.eng (.poison va)) => s.copyFail k' 3 (some va)
    | _, some .bad => s.copyFail k' 4 none
    | _, _ => s

/-- ACOPY_COMPLETE (R317): a copy among the first 8 of its core goes on, and ends once its writes are applied. -/
def execAcopyComplete (core id : Nat) (s : State) : Out :=
  match ((s.core core).copies.take 8).find? fun k => k.id = id with
  | some k => .next (s.copyTurn k)
  | none => .next s

/-! ## ACOPY (R317) -/

def sigAcopy (f : FmtA) : Sig :=
  { uses := [uScaReg f.srcA f.tA 2, { uScaReg f.srcB f.tB 4 with zero := true }], bad := f.mod7 ≠ 0, noTx := true }

/-- The start vector in four scalars (R317). -/
def startVec (x : Wave) (o : Operand) : List Nat :=
  let w (i : Nat) : Nat := (x.srcN o i 0).toNat
  [w 0 % 65536, w 0 / 65536, w 1 % 65536, w 1 / 65536, w 2 % 65536]

/-- The trap of an ACOPY's descriptor, if any: the bank of a slot code comes before the checks that refuse it (R317, R425). A
counter code of 7 is none of R200's grounds, and names no counter (DESIGN CHOICE, log entry 52). -/
def State.copyTrap (s : State) (u : WorkUnit) (b : List Byte) (start : List Nat) : Option Nat :=
  if slotDst b && outside u (slotBank b) then some 0x07
  else if slotDst b && !(inMode (s.ubank u (slotBank b))) then some 0x08
  else if copyRefused b start || cpScope b < 1 || 4 < cpScope b || !(copyBase u (cpSrc b))
      || !(slotDst b || copyBase u (cpDst b)) then some 0x02
  else none

/-- The copy is handed to the copy unit. -/
def State.copyStart (s : State) (a : At) (u : WorkUnit) (b : List Byte) (start : List Nat) (card : Option Nat) : State :=
  let (id, s) := s.fresh
  let ctr := if cpCtr b < 6 then some (cpCtr b) else none
  let k : Copy :=
    { id := id, core := coreOf a.w, ctx := u.crec.ctx, uid := a.x.uid, wid := a.w, card := none, desc := b, cardDec := card,
      ctr := ctr, scope := cpScope b, iter := start,
      slots := if slotDst b then laneBit (slotBank b) else 0, names := s.copyNames u b }
  let s := s.updCore (coreOf a.w) fun c => { c with copies := c.copies ++ [k] }
  let s := if slotDst b then s.updUnit a.x.uid fun u => { u with fills := u.fills ++ [⟨slotBank b, b⟩] } else s
  match ctr with
  | some n => s.incDc a.w n
  | none => s

def execAcopy (f : FmtA) (s : State) : Out :=
  issueP1 f.guard f.neg (sigAcopy f) s fun a s => withUnit a s fun u =>
    let va := (a.x.sSrc64 f.srcA).toNat
    let start := match f.srcB with | .sca _ => startVec a.x f.srcB | _ => [0, 0, 0, 0, 0]
    let take (s : State) (b : List Byte) (card : Option Nat) : Eff :=
      let names := s.copyNames u b
      if s.modeBusy a.x.uid names then .wait (.banks names s.nextId) s
      else
        match s.copyTrap u b start with
        | some c => trapAll a s c
        | none =>
          if cpCtr b < 6 ∧ 63 ≤ a.x.dcGet (cpCtr b) then .wait (.counters [(cpCtr b, 62)]) s
          else .next ((s.drainFwd (coreOf a.w) (quadOf a.w)).copyStart a u b start card)
    match globalTrap va 64 64 with
    | some c => .next (s.raiseAll a.w [(a.act, c, va)])
    | none =>
      readFor a s va 64 0 .load fun s b =>
        if !(bitOf (cpDone b) 3) then take s b none
        else
          match globalTrap (va + 64) 8 8 with
          | some c => .next (s.raiseAll a.w [(a.act, c, va + 64)])
          | none => readFor a s (va + 64) 8 0 .load fun s d => take s b (some (ofBytes d))

end Sys2Proof.Machine
end

