-- ==== Sys2Proof/Machine/Engines.lean ====
section
/-! DEFINITION. The instructions that hand work to the transform engines, the merge engine, the reduction trees and the
scan engines (R196, R350 to R353). -/

namespace Sys2Proof.Machine

/-! ## XKICK (R196, R350) -/

/-- The request ring of a die: its address under an XRING value (R195). -/
def ringAt (x : Dword) (die : Nat) : Nat := xrBase x + die * 64 * 2 ^ xrLog x
/-- The completion ring of a die. -/
def doneRingAt (x : Dword) (die : Nat) : Nat := xrBase x + 84 * 64 * 2 ^ xrLog x + die * 16 * 2 ^ xrLog x

/-- The lowest ring request of a context that is not complete on a die. -/
def Die.lowRequest (d : Die) (ctx : Nat) : Nat :=
  (d.xfly.filter fun x => x.cmd.ctx = ctx && x.cmd.card.isNone).foldl (fun m x => min m x.i) (d.x ctx).next

/-- A kick reaches a die: refused with a SCHED record, or applied. -/
def State.kickDie (s : State) (die ctx t : Nat) : State :=
  let d := s.die die
  let x := d.x ctx
  if !(x.ring.getLsbD 0) || t < x.kick || d.lowRequest ctx + 2 ^ xrLog x.ring < t then
    s.postSched ctx 0x24 (ringAt x.ring die) t
  else s.setDie die { d with xctx := Tbl.set d.xctx ctx { x with kick := t } }

def sigXkick (f : FmtA) : Sig := { uses := [uSca f.srcA f.tA], bad := f.mod7 ≠ 0, noTx := true }

/-- XKICK (R350). -/
def execXkick (f : FmtA) (s : State) : Out :=
  issueP1 f.guard f.neg (sigXkick f) s fun a s =>
    let t := (a.x.sSrc .int f.srcA).toNat
    releaseThen a s fun a s => .next (s.kickDie (dieOf a.w) (s.ctxOf a.w) t)

/-! ## Commands by descriptor (R351, R352) -/

def sigEngine (f : FmtA) : Sig :=
  { uses := [uScaReg f.srcA f.tA 2, uDstS f.dst], bad := f.mod7 ≠ 0, noTx := true }

/-- The status register of a command. -/
def engDst (o : Operand) : Option Nat := match o with | .sca n => some n | _ => none

/-- A command enters its engine's queue; its counter rises and its status register becomes empty. -/
def State.handOver (s : State) (a : At) (c : EngCmd) : State :=
  let (id, s) := s.fresh
  let s := match c.dst with
    | some r => s.updWave a.w fun x => x.markS r
    | none => s
  let s := match c.ctr with
    | some k => s.incDc a.w k
    | none => s
  let c := { c with id := id, t := s.time }
  if c.kind = 3 ∨ c.kind = 4 then s.updQueues fun q => { q with nmQ := q.nmQ ++ [c] }
  else s.updDie c.die fun d => { d with merge := d.merge ++ [c] }

/-- The command of a wave, with what its unit gives it. -/
def cmdOf (s : State) (a : At) (kind die : Nat) (desc : List Byte) (dst ctr : Option Nat) (scope : Nat) : EngCmd :=
  { id := 0, kind := kind, die := die, ctx := s.ctxOf a.w, job := ((s.launch (s.lidOf a.w)).map (·.job)).getD 0,
    uid := a.x.uid, wid := a.w, lid := s.lidOf a.w, desc := desc, dst := dst, ctr := ctr, scope := scope }

/-- MERGE, UNMERGE, NMRED and NMSCAN: checks of the address, release, descriptor, completion byte at `at_`. -/
def issueEngine (f : FmtA) (kind at_ : Nat) (s : State) : Out :=
  issueP1 f.guard f.neg (sigEngine f) s fun a s =>
    let va := (a.x.sSrc64 f.srcA).toNat
    match globalTrap va 64 64 with
    | some c => .next (s.raiseAll a.w [(a.act, c, va)])
    | none =>
      releaseThen a s fun a s => readFor a s va 64 0 .load fun s b =>
        let k := byteAt b at_ % 8
        let scope := byteAt b at_ / 8 % 8
        if k = 7 || scope < 1 || 4 < scope || 64 ≤ byteAt b at_ then trapAll a s 0x02
        else
          let ctr := if k < 6 then some k else none
          if k < 6 ∧ 63 ≤ a.x.dcGet k then .wait (.counters [(k, 62)]) s
          else
            let die := if kind = 3 ∨ kind = 4 then byteAt b 2 else dieOf a.w
            .next (s.handOver a (cmdOf s a kind die b (engDst f.dst) ctr scope))

/-- MERGE (R352). -/
def execMerge (f : FmtA) (s : State) : Out := issueEngine f 0 12 s
/-- UNMERGE (R352). -/
def execUnmerge (f : FmtA) (s : State) : Out := issueEngine f 1 12 s
/-- NMRED (R352). -/
def execNmred (f : FmtA) (s : State) : Out := issueEngine f 3 3 s
/-- NMSCAN (R352). -/
def execNmscan (f : FmtA) (s : State) : Out := issueEngine f 4 3 s

/-! ## MAPREL (R353) -/

def relCtr (f : FmtA) : Nat := f.mod7.toNat % 8
def relScope (f : FmtA) : Nat := f.mod7.toNat / 8 % 8
def sigMaprel (f : FmtA) : Sig :=
  { uses := [uSca f.srcA f.tA, uScaReg f.srcB f.tB 2, uDstS f.dst],
    bad := f.mod7.getLsbD 6 || relCtr f = 7 || relScope f < 1 || 4 < relScope f, noTx := true }

/-- MAPREL (R353). -/
def execMaprel (f : FmtA) (s : State) : Out :=
  issueP1 f.guard f.neg (sigMaprel f) s fun a s =>
    let h := (a.x.sSrc .int f.srcA).toNat % 65536
    let va := (a.x.sSrc64 f.srcB).toNat
    match globalTrap va 8 8 with
    | some c => .next (s.raiseAll a.w [(a.act, c, va)])
    | none =>
      releaseThen a s fun a s =>
        let k := relCtr f
        if k < 6 ∧ 63 ≤ a.x.dcGet k then .wait (.counters [(k, 62)]) s
        else
          let c := cmdOf s a 2 (dieOf a.w) [] (engDst f.dst) (if k < 6 then some k else none) (relScope f)
          .next (s.handOver a { c with handle := h, status := va })

end Sys2Proof.Machine
end

