-- ==== Sys2Proof/Machine/Scalar.lean ====
section
/-! DEFINITION. The scalar arithmetic of group 0 (R246 to R259): performed once for each issue, under a q guard. -/

namespace Sys2Proof.Machine

/-! ## What the instructions ask -/

/-- The operands of a scalar form: dst, and the first `k` sources, of `n` registers each. -/
def scaUses (f : FmtA) (dn n k : Nat) : List Use :=
  uDstS f.dst dn :: [uSca f.srcA f.tA n, uSca f.srcB f.tB n, uSca f.srcC f.tC n].take k

/-- Integer arithmetic of Tables 12.1 and of R250 to R253. -/
def sigSInt (f : FmtA) (types : List Nat) (sat : Bool) (k : Nat) : Sig :=
  { uses := scaUses f (regsOf f.type) (regsOf f.type) k, bad := badMod f types false sat }
/-- Counts: one register of result (R253). -/
def sigSCount (f : FmtA) : Sig := { uses := scaUses f 1 (regsOf f.type) 1, bad := badMod f tyPlain false false }
def sigNop (f : FmtA) : Sig := { bad := f.mod7 ≠ 0 }
def sigSmovi (f : FmtC) : Sig :=
  { uses := [uDstS f.dst (if f.mod8.toNat % 4 = 0 then 1 else 2)], bad := 4 ≤ f.mod8.toNat }
def sigSsel (f : FmtA) : Sig :=
  let n := if f.mod7.getLsbD 4 then 2 else 1
  { uses := scaUses f n n 2, bad := 32 ≤ f.mod7.toNat }
/-- Immediate forms (R255): which of mod5 [60] and [61] are named, and whether imm24[23:6] is reserved. -/
def sigSImm (f : FmtB) (sat arith shift : Bool) : Sig :=
  let n := if f.mod5.getLsbD 0 then 2 else 1
  { uses := [uDstS f.dst n, uSca f.srcA f.tA n],
    bad := (!sat && f.mod5.getLsbD 1) || (!arith && f.mod5.getLsbD 2) || 8 ≤ f.mod5.toNat
      || (shift && 64 ≤ f.imm24.toNat) }
/-- f32 arithmetic (R256). -/
def sigSFlt (f : FmtA) (k : Nat) : Sig := { uses := scaUses f 1 1 k, bad := badMod f [0] true false }
def sigSfcvt (f : FmtA) : Sig :=
  { uses := scaUses f 1 1 1, bad := f.sat || f.mod7.getLsbD 6 }
def sigScmp (f : FmtP) : Sig :=
  let n := if 2 ≤ f.ty.toNat then 2 else 1
  { uses := [uSca f.srcA f.tA n, uSca f.srcB f.tB n], bad := badCmp f 6 4 }
def sigSfcmp (f : FmtP) : Sig := { uses := [uSca f.srcA f.tA, uSca f.srcB f.tB], bad := badCmp f 8 1 }
/-- The predicate selectors are no registers, and their t bits are reserved (R259). -/
def sigQlog (f : FmtP) : Sig := { bad := badLog f || f.tA || (f.tB && f.cond ≠ 3) }

/-! ## Integer arithmetic -/

/-- A scalar instruction that writes one result computed from the registers alone. -/
def scalarOp (guard : BitVec 3) (neg : Bool) (g : Sig) (f : Wave → Wave) (s : State) : Out :=
  issueQ guard neg g s fun a s => .next (s.updWave a.w f)

/-- dst := the operation on the words of the sources. -/
def scalarWide (f : FmtA) (g : Sig) (op : Dword → Dword → Dword → Dword) (s : State) : Out :=
  scalarOp f.guard f.neg g (fun x => x.putST f.type f.dst
    (op (x.srcT f.type f.srcA 0) (x.srcT f.type f.srcB 0) (x.srcT f.type f.srcC 0))) s

/-- An exact operation on elements, clamped or wrapped (R249). -/
def scalarInt (f : FmtA) (g : Sig) (op : Int → Int → Int → Int) (s : State) : Out :=
  scalarWide f g (mapI f.type f.sat op) s

/-- NOP (R248). -/
def execNop (f : FmtA) (s : State) : Out := scalarOp f.guard f.neg (sigNop f) id s
/-- SMOV (R254): TYPE 6 and 7 move a pair, every other TYPE 32 bits. -/
def execSmov (f : FmtA) (s : State) : Out :=
  scalarOp f.guard f.neg (sigSInt f tyAll false 1) (fun x =>
    if wide f.type then x.putS64 f.dst (x.sSrc64 f.srcA) else x.putS f.dst (x.sSrc .int f.srcA)) s
/-- The register that `.hi` writes. -/
def hiReg (o : Operand) : Operand := match o with | .sca n => .sca (n + 1) | .vec n => .vec (n + 1) | o => o
/-- SMOVI (R254). -/
def execSmovi (f : FmtC) (s : State) : Out :=
  scalarOp f.guard f.neg (sigSmovi f) (fun x =>
    match f.mod8.toNat % 4 with
    | 0 => x.putS f.dst f.imm32
    | 1 => x.putS64 f.dst (f.imm32.signExtend 64)
    | 2 => x.putS64 f.dst (f.imm32.setWidth 64)
    | _ => x.putS (hiReg f.dst) f.imm32) s
/-- SADD (R249). -/
def execSadd (f : FmtA) (s : State) : Out := scalarInt f (sigSInt f tyAll true 2) (fun a b _ => a + b) s
/-- SSUB (R249). -/
def execSsub (f : FmtA) (s : State) : Out := scalarInt f (sigSInt f tyAll true 2) (fun a b _ => a - b) s
/-- SMUL (R249). -/
def execSmul (f : FmtA) (s : State) : Out := scalarInt f (sigSInt f tyPlain true 2) (fun a b _ => a * b) s
/-- SMULH (R249). -/
def execSmulh (f : FmtA) (s : State) : Out :=
  scalarInt f (sigSInt f tyWord false 2) (fun a b _ => mulHigh 32 a b) s
/-- SMAD (R249). -/
def execSmad (f : FmtA) (s : State) : Out := scalarInt f (sigSInt f tyPlain true 3) (fun a b c => a * b + c) s
/-- SDIV (R250); the one overflowing case is settled by SAT. -/
def execSdiv (f : FmtA) (s : State) : Out :=
  scalarInt f (sigSInt f tyPlain true 2) (fun a b _ => divQ f.type f.sat a b) s
/-- SREM (R250). -/
def execSrem (f : FmtA) (s : State) : Out := scalarInt f (sigSInt f tyPlain true 2) (fun a b _ => divR a b) s
/-- SMIN (R249). -/
def execSmin (f : FmtA) (s : State) : Out := scalarInt f (sigSInt f tyAll false 2) (fun a b _ => minI a b) s
/-- SMAX (R249). -/
def execSmax (f : FmtA) (s : State) : Out := scalarInt f (sigSInt f tyAll false 2) (fun a b _ => maxI a b) s
/-- SAND (R249). -/
def execSand (f : FmtA) (s : State) : Out := scalarWide f (sigSInt f tyAll false 2) (fun a b _ => a &&& b) s
/-- SOR (R249). -/
def execSor (f : FmtA) (s : State) : Out := scalarWide f (sigSInt f tyAll false 2) (fun a b _ => a ||| b) s
/-- SXOR (R249). -/
def execSxor (f : FmtA) (s : State) : Out := scalarWide f (sigSInt f tyAll false 2) (fun a b _ => a ^^^ b) s
/-- SANDN (R249). -/
def execSandn (f : FmtA) (s : State) : Out := scalarWide f (sigSInt f tyAll false 2) (fun a b _ => a &&& ~~~ b) s
/-- SSHL (R251). -/
def execSshl (f : FmtA) (s : State) : Out :=
  scalarWide f (sigSInt f tyPlain false 2) (fun a b _ => shiftI .left f.type a b) s
/-- SSHR (R251). -/
def execSshr (f : FmtA) (s : State) : Out :=
  scalarWide f (sigSInt f tyPlain false 2) (fun a b _ => shiftI .right f.type a b) s
/-- SSRA (R251). -/
def execSsra (f : FmtA) (s : State) : Out :=
  scalarWide f (sigSInt f tyPlain false 2) (fun a b _ => shiftI .arith f.type a b) s
/-- SBFE (R252). -/
def execSbfe (f : FmtA) (s : State) : Out :=
  scalarWide f (sigSInt f tyPlain false 2) (fun a b _ => bfe f.type a b) s
/-- SBFI (R252). -/
def execSbfi (f : FmtA) (s : State) : Out :=
  scalarWide f (sigSInt f tyPlain false 3) (fun a b c => bfi f.type a b c) s
/-- SPOPC (R253). -/
def execSpopc (f : FmtA) (s : State) : Out :=
  scalarOp f.guard f.neg (sigSCount f) (fun x => x.putS f.dst (popc f.type (x.srcT f.type f.srcA 0))) s
/-- SCLZ (R253). -/
def execSclz (f : FmtA) (s : State) : Out :=
  scalarOp f.guard f.neg (sigSCount f) (fun x => x.putS f.dst (clz f.type (x.srcT f.type f.srcA 0))) s
/-- The selector of SSEL and VSEL: index and inversion (R254, R287). -/
def selIdx (f : FmtA) : Nat := f.mod7.toNat % 8
def selNeg (f : FmtA) : Bool := f.mod7.getLsbD 3
/-- SSEL (R254). -/
def execSsel (f : FmtA) (s : State) : Out :=
  scalarOp f.guard f.neg (sigSsel f) (fun x =>
    let o := if x.qGet (selIdx f) != selNeg f then f.srcA else f.srcB
    if f.mod7.getLsbD 4 then x.putS64 f.dst (x.sSrc64 o) else x.putS f.dst (x.sSrc .int o)) s

/-! ## Immediate forms (R255) -/

/-- The TYPE code of the operands, and the sign-extended immediate. -/
def immTy (f : FmtB) : Nat := ty64 (f.mod5.getLsbD 0)
def immI (f : FmtB) : Int := f.imm24.toInt
def immD (f : FmtB) : Dword := f.imm24.signExtend 64

def scalarImm (f : FmtB) (g : Sig) (op : Dword → Dword) (s : State) : Out :=
  scalarOp f.guard f.neg g (fun x => x.putST (immTy f) f.dst (op (x.srcT (immTy f) f.srcA 0))) s

/-- SADDI (R255). -/
def execSaddi (f : FmtB) (s : State) : Out :=
  scalarImm f (sigSImm f true false false)
    (fun a => mapI (immTy f) (f.mod5.getLsbD 1) (fun x _ _ => x + immI f) a 0 0) s
/-- SMULI (R255). -/
def execSmuli (f : FmtB) (s : State) : Out :=
  scalarImm f (sigSImm f true false false)
    (fun a => mapI (immTy f) (f.mod5.getLsbD 1) (fun x _ _ => x * immI f) a 0 0) s
/-- SANDI (R255). -/
def execSandi (f : FmtB) (s : State) : Out := scalarImm f (sigSImm f false false false) (fun a => a &&& immD f) s
/-- SORI (R255). -/
def execSori (f : FmtB) (s : State) : Out := scalarImm f (sigSImm f false false false) (fun a => a ||| immD f) s
/-- SXORI (R255). -/
def execSxori (f : FmtB) (s : State) : Out := scalarImm f (sigSImm f false false false) (fun a => a ^^^ immD f) s
/-- SSHLI (R255). -/
def execSshli (f : FmtB) (s : State) : Out :=
  scalarImm f (sigSImm f false false true)
    (fun a => shiftI .left (immTy f) a (BitVec.ofNat 64 (f.imm24.toNat % 64))) s
/-- SSHRI (R255). -/
def execSshri (f : FmtB) (s : State) : Out :=
  scalarImm f (sigSImm f false true true)
    (fun a => shiftI (if f.mod5.getLsbD 2 then .arith else .right) (immTy f) a
      (BitVec.ofNat 64 (f.imm24.toNat % 64))) s

/-! ## Floating point (R256, R257) -/

/-- A scalar f32 result. -/
def scalarFlt (f : FmtA) (g : Sig) (op : Nat → Nat → Nat → Nat) (s : State) : Out :=
  let rd (x : Wave) (o : Operand) : Nat := (x.sSrc .f32 o).toNat
  scalarOp f.guard f.neg g (fun x =>
    x.putS f.dst (BitVec.ofNat 32 (op (rd x f.srcA) (rd x f.srcB) (rd x f.srcC)))) s

/-- SFADD (R256). -/
def execSfadd (f : FmtA) (s : State) : Out := scalarFlt f (sigSFlt f 2) (fun a b _ => f32Ty.add f.round a b) s
/-- SFMUL (R256). -/
def execSfmul (f : FmtA) (s : State) : Out := scalarFlt f (sigSFlt f 2) (fun a b _ => f32Ty.mul f.round a b) s
/-- SFFMA (R256). -/
def execSffma (f : FmtA) (s : State) : Out := scalarFlt f (sigSFlt f 3) (fun a b c => f32Ty.fma f.round a b c) s

/-- The conversions of Table 12.3; f16 and bf16 in bits [15:0]. -/
def sfcvt (code mode x : Nat) : Nat :=
  match code with
  | 0 => wrapN 32 (f32Ty.toInt mode (-(2 ^ 31)) (2 ^ 31 - 1) x)
  | 1 => wrapN 32 (f32Ty.toInt mode 0 (2 ^ 32 - 1) x)
  | 2 => f32Ty.ofInt mode (sext 32 x)
  | 3 => f32Ty.ofInt mode x
  | 4 => convF f32Ty f16Ty mode x
  | 5 => convF f16Ty f32Ty 0 (x % 65536)
  | 6 => convF f32Ty bf16Ty mode x
  | _ => convF bf16Ty f32Ty 0 (x % 65536)

/-- How a conversion reads a constant: as its source type (R237). -/
def sfcvtCK (code : Nat) : CK :=
  match code with
  | 2 => .int | 3 => .int | 5 => .f16 | 7 => .bf16 | _ => .f32

/-- SFCVT (R257). -/
def execSfcvt (f : FmtA) (s : State) : Out :=
  scalarOp f.guard f.neg (sigSfcvt f) (fun x =>
    x.putS f.dst (BitVec.ofNat 32 (sfcvt f.type f.round (x.sSrc (sfcvtCK f.type) f.srcA).toNat))) s

/-! ## Compares and predicate logic (R258, R259) -/

/-- The TYPE of a compare's type field: 0 i32, 1 n32, 2 i64, 3 n64. -/
def cmpTy (f : FmtP) : Nat := if 2 ≤ f.ty.toNat then f.ty.toNat + 4 else f.ty.toNat

/-- SCMP (R258). -/
def execScmp (f : FmtP) (s : State) : Out :=
  scalarOp f.guard f.neg (sigScmp f) (fun x =>
    x.putCondQ f (condInt f.cond.toNat (elemI (cmpTy f) (x.srcT (cmpTy f) f.srcA 0) 0)
      (elemI (cmpTy f) (x.srcT (cmpTy f) f.srcB 0) 0))) s
/-- SFCMP (R258). -/
def execSfcmp (f : FmtP) (s : State) : Out :=
  scalarOp f.guard f.neg (sigSfcmp f) (fun x =>
    x.putCondQ f (condOrd f.cond.toNat
      (f32Ty.compare (x.sSrc .f32 f.srcA).toNat (x.sSrc .f32 f.srcB).toNat))) s
/-- QLOG (R259). -/
def execQlog (f : FmtP) (s : State) : Out :=
  scalarOp f.guard f.neg (sigQlog f) (fun x =>
    x.putCondQ f (condLogic f.cond.toNat (x.selQ f.srcA) (x.selQ f.srcB) ≠ 0)) s

end Sys2Proof.Machine
end

