-- ==== Sys2Proof/Machine/Vector.lean ====
section
/-! DEFINITION. The vector integer, move, predicate and cross-lane instructions of group 2 (R278 to R294). -/

namespace Sys2Proof.Machine

/-! ## What the instructions ask -/

/-- A vector destination and the first `k` sources. -/
def vecUses (f : FmtA) (dn n k : Nat) : List Use :=
  uDstV f.dst dn :: [uSrc f.srcA f.tA n, uSrc f.srcB f.tB n, uSrc f.srcC f.tC n].take k

def sigVInt (f : FmtA) (types : List Nat) (sat : Bool) (k : Nat) : Sig :=
  { uses := vecUses f (regsOf f.type) (regsOf f.type) k, bad := badMod f types false sat }
def sigVCount (f : FmtA) : Sig := { uses := vecUses f 1 (regsOf f.type) 1, bad := badMod f tyPlain false false }
def sigVdot4 (f : FmtA) : Sig := { uses := vecUses f 1 1 3, bad := badMod f [4, 5] false true }
def sigVmovi (f : FmtC) : Sig :=
  { uses := [uDstV f.dst (if f.mod8.toNat % 4 = 0 then 1 else 2)], bad := 4 ≤ f.mod8.toNat }
def sigVsel (f : FmtA) : Sig :=
  let n := if f.mod7.getLsbD 4 then 2 else 1
  { uses := vecUses f n n 2, bad := 32 ≤ f.mod7.toNat }
def sigVImm (f : FmtB) (sat arith shift : Bool) : Sig :=
  let n := if f.mod5.getLsbD 0 then 2 else 1
  { uses := [uDstV f.dst n, uSrc f.srcA f.tA n],
    bad := (!sat && f.mod5.getLsbD 1) || (!arith && f.mod5.getLsbD 2) || 8 ≤ f.mod5.toNat
      || (shift && 64 ≤ f.imm24.toNat) }
def sigVprmt (f : FmtA) : Sig := { uses := vecUses f 1 1 3, bad := f.mod7 ≠ 0 }
def sigVcmp (f : FmtP) : Sig :=
  let n := if 2 ≤ f.ty.toNat then 2 else 1
  { uses := [uSrc f.srcA f.tA n, uSrc f.srcB f.tB n], bad := badCmp f 6 4 }
def sigPlog (f : FmtP) : Sig := { bad := badLog f }
/-- A p index in an operand field, upper bits zero. -/
def idxOf (o : Operand) : Option Nat :=
  match o with
  | .vec n => if n.toNat < 8 then some n.toNat else none
  | _ => none
def sigPmov (f : FmtA) : Sig :=
  if f.mod7.getLsbD 0 then { uses := [uSrc f.srcA f.tA], bad := 2 ≤ f.mod7.toNat || (idxOf f.dst).isNone }
  else { uses := [uDst f.dst], bad := 2 ≤ f.mod7.toNat || (selOf f.srcA).isNone }
def sigVote (f : FmtA) : Sig := { uses := [uDst f.dst], bad := 3 ≤ f.mod7.toNat || (selOf f.srcA).isNone }
/-- The registers of SHFL's srcA are read in the source lanes, which `execShfl` awaits itself (R291). -/
def sigShfl (f : FmtA) : Sig :=
  let n := if f.mod7.getLsbD 2 then 2 else 1
  { uses := [uDstV f.dst n, { uSrc f.srcA false n with rd := false, far := true }, uSrc f.srcB f.tB], bad := 8 ≤ f.mod7.toNat }
/-- The operation of VRED and VSCAN: 0 add, 1 min, 2 max. -/
def redOp (f : FmtA) : Option Nat := match f.srcC with | .con c => if c < 3 then some c else none | _ => none
def redF32 (f : FmtA) : Bool := f.mod7.getLsbD 6
def sigRed (f : FmtA) (scalarDst : Bool) : Sig :=
  let add := redOp f = some 0
  let n := if redF32 f then 1 else regsOf f.type
  { uses := [if scalarDst then uDst f.dst n else uDstV f.dst n, uSrc f.srcA f.tA n],
    bad := (redOp f).isNone
      || (if redF32 f then f.type ≠ 0 || f.sat || (!add && f.round ≠ 0)
          else !(tyPlain.contains f.type) || f.round ≠ 0 || (!add && f.sat)) }

/-! ## Lane-wise arithmetic -/

/-- A vector instruction that changes registers of its ACTIVE lanes alone. -/
def vectorOp (guard : BitVec 3) (neg : Bool) (g : Sig) (f : Wave → LaneMask → Wave) (s : State) : Out :=
  issueP guard neg g s fun a s => .next (s.updWave a.w fun x => f x a.act)

def vectorWide (f : FmtA) (g : Sig) (op : Dword → Dword → Dword → Dword) (s : State) : Out :=
  vectorOp f.guard f.neg g (fun x m => x.putVT f.type f.dst m fun l =>
    op (x.srcT f.type f.srcA l) (x.srcT f.type f.srcB l) (x.srcT f.type f.srcC l)) s

def vectorInt (f : FmtA) (g : Sig) (op : Int → Int → Int → Int) (s : State) : Out :=
  vectorWide f g (mapI f.type f.sat op) s

/-- VADD (R282). -/
def execVadd (f : FmtA) (s : State) : Out := vectorInt f (sigVInt f tyAll true 2) (fun a b _ => a + b) s
/-- VSUB (R282). -/
def execVsub (f : FmtA) (s : State) : Out := vectorInt f (sigVInt f tyAll true 2) (fun a b _ => a - b) s
/-- VMUL (R282). -/
def execVmul (f : FmtA) (s : State) : Out := vectorInt f (sigVInt f tyAll true 2) (fun a b _ => a * b) s
/-- VMULH (R282). -/
def execVmulh (f : FmtA) (s : State) : Out :=
  vectorInt f (sigVInt f tyAll false 2) (fun a b _ => mulHigh (elemW f.type) a b) s
/-- VMAD (R282). -/
def execVmad (f : FmtA) (s : State) : Out := vectorInt f (sigVInt f tyAll true 3) (fun a b c => a * b + c) s
/-- VMIN (R282). -/
def execVmin (f : FmtA) (s : State) : Out := vectorInt f (sigVInt f tyAll false 2) (fun a b _ => minI a b) s
/-- VMAX (R282). -/
def execVmax (f : FmtA) (s : State) : Out := vectorInt f (sigVInt f tyAll false 2) (fun a b _ => maxI a b) s
/-- VABS (R282). -/
def execVabs (f : FmtA) (s : State) : Out :=
  vectorInt f (sigVInt f [0, 2, 4, 6] true 1) (fun a _ _ => (a.natAbs : Int)) s
/-- VAND (R282). -/
def execVand (f : FmtA) (s : State) : Out := vectorWide f (sigVInt f tyAll false 2) (fun a b _ => a &&& b) s
/-- VOR (R282). -/
def execVor (f : FmtA) (s : State) : Out := vectorWide f (sigVInt f tyAll false 2) (fun a b _ => a ||| b) s
/-- VXOR (R282). -/
def execVxor (f : FmtA) (s : State) : Out := vectorWide f (sigVInt f tyAll false 2) (fun a b _ => a ^^^ b) s
/-- VANDN (R282). -/
def execVandn (f : FmtA) (s : State) : Out := vectorWide f (sigVInt f tyAll false 2) (fun a b _ => a &&& ~~~ b) s
/-- VSHL (R284). -/
def execVshl (f : FmtA) (s : State) : Out :=
  vectorWide f (sigVInt f tyAll false 2) (fun a b _ => shiftI .left f.type a b) s
/-- VSHR (R284). -/
def execVshr (f : FmtA) (s : State) : Out :=
  vectorWide f (sigVInt f tyAll false 2) (fun a b _ => shiftI .right f.type a b) s
/-- VSRA (R284). -/
def execVsra (f : FmtA) (s : State) : Out :=
  vectorWide f (sigVInt f tyAll false 2) (fun a b _ => shiftI .arith f.type a b) s
/-- VBFE (R285). -/
def execVbfe (f : FmtA) (s : State) : Out :=
  vectorWide f (sigVInt f tyPlain false 2) (fun a b _ => bfe f.type a b) s
/-- VBFI (R285). -/
def execVbfi (f : FmtA) (s : State) : Out :=
  vectorWide f (sigVInt f tyPlain false 3) (fun a b c => bfi f.type a b c) s
/-- VPOPC (R285). -/
def execVpopc (f : FmtA) (s : State) : Out :=
  vectorOp f.guard f.neg (sigVCount f) (fun x m => x.putV f.dst m fun l => popc f.type (x.srcT f.type f.srcA l)) s
/-- VCLZ (R285). -/
def execVclz (f : FmtA) (s : State) : Out :=
  vectorOp f.guard f.neg (sigVCount f) (fun x m => x.putV f.dst m fun l => clz f.type (x.srcT f.type f.srcA l)) s

/-- The exact sum of four 8-bit products and the 32-bit addend (R283). -/
def dot4 (ty : Nat) (a b c : Dword) : Int :=
  ((List.range 4).map fun i => elemI ty a i * elemI ty b i).foldl (· + ·) (elemI (ty - 4) c 0)

/-- VDOT4 (R283). -/
def execVdot4 (f : FmtA) (s : State) : Out :=
  vectorOp f.guard f.neg (sigVdot4 f) (fun x m => x.putV f.dst m fun l =>
    BitVec.ofNat 32 (fitI (f.type - 4) f.sat
      (dot4 f.type (x.srcT f.type f.srcA l) (x.srcT f.type f.srcB l) (x.srcT (f.type - 4) f.srcC l)))) s

/-! ## Immediate forms (R286) -/

def vectorImm (f : FmtB) (g : Sig) (op : Dword → Dword) (s : State) : Out :=
  vectorOp f.guard f.neg g (fun x m => x.putVT (immTy f) f.dst m fun l => op (x.srcT (immTy f) f.srcA l)) s

/-- VADDI (R286). -/
def execVaddi (f : FmtB) (s : State) : Out :=
  vectorImm f (sigVImm f true false false)
    (fun a => mapI (immTy f) (f.mod5.getLsbD 1) (fun x _ _ => x + immI f) a 0 0) s
/-- VANDI (R286). -/
def execVandi (f : FmtB) (s : State) : Out := vectorImm f (sigVImm f false false false) (fun a => a &&& immD f) s
/-- VSHLI (R286). -/
def execVshli (f : FmtB) (s : State) : Out :=
  vectorImm f (sigVImm f false false true)
    (fun a => shiftI .left (immTy f) a (BitVec.ofNat 64 (f.imm24.toNat % 64))) s
/-- VSHRI (R286). -/
def execVshri (f : FmtB) (s : State) : Out :=
  vectorImm f (sigVImm f false true true)
    (fun a => shiftI (if f.mod5.getLsbD 2 then .arith else .right) (immTy f) a
      (BitVec.ofNat 64 (f.imm24.toNat % 64))) s

/-! ## Moves and selection (R287) -/

/-- VMOV (R287). -/
def execVmov (f : FmtA) (s : State) : Out :=
  vectorOp f.guard f.neg (sigVInt f tyAll false 1) (fun x m =>
    if wide f.type then x.putV64 f.dst m (x.src64 f.srcA) else x.putV f.dst m (x.src .int f.srcA)) s
/-- VMOVI (R287). -/
def execVmovi (f : FmtC) (s : State) : Out :=
  vectorOp f.guard f.neg (sigVmovi f) (fun x m =>
    match f.mod8.toNat % 4 with
    | 0 => x.putV f.dst m fun _ => f.imm32
    | 1 => x.putV64 f.dst m fun _ => f.imm32.signExtend 64
    | 2 => x.putV64 f.dst m fun _ => f.imm32.setWidth 64
    | _ => x.putV (hiReg f.dst) m fun _ => f.imm32) s
/-- VSEL (R287). -/
def execVsel (f : FmtA) (s : State) : Out :=
  vectorOp f.guard f.neg (sigVsel f) (fun x m =>
    let pick (l : Nat) : Operand := if inMask (x.pGet (selIdx f)) l != selNeg f then f.srcA else f.srcB
    if f.mod7.getLsbD 4 then x.putV64 f.dst m fun l => x.src64 (pick l) l
    else x.putV f.dst m fun l => x.src .int (pick l) l) s
/-- VIDX (R287). -/
def execVidx (f : FmtA) (s : State) : Out :=
  vectorOp f.guard f.neg (sigVInt f [0, 6] false 2) (fun x m => x.putVT f.type f.dst m fun l =>
    mapI f.type false (fun a b c => a + c * b) (x.srcT f.type f.srcA l) (x.srcT f.type f.srcB l)
      (BitVec.ofNat 64 l)) s

/-- The byte permutation of VPRMT (R287). -/
def prmt (a b c : Word) : Word :=
  let all := a.toNat + 2 ^ 32 * b.toNat
  BitVec.ofNat 32 (packBits 8 ((List.range 4).map fun i =>
    let x := bitsOf all (8 * fieldN c (4 * i) 3) 8
    if bitOf c.toNat (4 * i + 3) then (if 128 ≤ x then 0xFF else 0) else x))

/-- VPRMT (R287). -/
def execVprmt (f : FmtA) (s : State) : Out :=
  vectorOp f.guard f.neg (sigVprmt f) (fun x m => x.putV f.dst m fun l =>
    prmt (x.src .int f.srcA l) (x.src .int f.srcB l) (x.src .int f.srcC l)) s

/-! ## Compares and predicates (R288 to R290, R292) -/

/-- VCMP (R288). -/
def execVcmp (f : FmtP) (s : State) : Out :=
  vectorOp f.guard f.neg (sigVcmp f) (fun x m =>
    x.putCondP f m (maskOf fun l => condInt f.cond.toNat (elemI (cmpTy f) (x.srcT (cmpTy f) f.srcA l) 0)
      (elemI (cmpTy f) (x.srcT (cmpTy f) f.srcB l) 0))) s
/-- PLOG (R289). -/
def execPlog (f : FmtP) (s : State) : Out :=
  vectorOp f.guard f.neg (sigPlog f) (fun x m =>
    x.putCondP f m (condLogic f.cond.toNat (x.selP f.srcA) (x.selP f.srcB))) s
/-- PMOV (R290). -/
def execPmov (f : FmtA) (s : State) : Out :=
  vectorOp f.guard f.neg (sigPmov f) (fun x m =>
    if f.mod7.getLsbD 0 then
      x.pSet ((idxOf f.dst).getD 7) m (maskOf fun l => inMask (x.src .int f.srcA l) l)
    else x.putAny f.dst m (x.selP f.srcA)) s
/-- VOTE (R292). -/
def execVote (f : FmtA) (s : State) : Out :=
  vectorOp f.guard f.neg (sigVote f) (fun x m =>
    let b := x.selP f.srcA &&& m
    x.putAny f.dst m (match f.mod7.toNat with
      | 0 => if b ≠ 0 then 1 else 0
      | 1 => if b = m then 1 else 0
      | _ => b)) s

/-! ## Across lanes (R291, R293, R294) -/

/-- The source lane of SHFL. -/
def shflLane (mode k l : Nat) : Nat :=
  match mode with
  | 0 => k % 32
  | 1 => l ^^^ (k % 32)
  | 2 => if k ≤ l then l - k else l
  | _ => if l + k < 32 then l + k else l

/-- SHFL (R291): every source lane read is awaited; with tA set the lanes that read an empty one take EMPTY_READ
(R428). -/
def execShfl (f : FmtA) (s : State) : Out :=
  issueP f.guard f.neg (sigShfl f) s fun a s =>
    let x := a.x
    let wd := f.mod7.getLsbD 2
    let from_ (l : Nat) : Nat := shflLane (f.mod7.toNat % 4) (x.src .int f.srcB l).toNat l
    let rs := (uSrc f.srcA f.tA (if wd then 2 else 1)).vregs
    let ss := (uSrc f.srcA f.tA (if wd then 2 else 1)).sregs
    let need := maskOfList ((lanesOf a.act).map from_)
    let empty (l : Nat) : Bool := rs.any fun r => inMask (x.vEmpty r) (from_ l)
    let noS := ss.any x.sEmpty
    if !f.tA && (rs.any (fun r => x.vEmpty r &&& need ≠ 0) || noS) then .wait (.full (rs.map fun r => (r, need)) ss) s
    else
      let bad := maskOf fun l => inMask a.act l && (empty l || noS)
      let s := if bad = 0 then s else s.raiseAll a.w [(bad, 0x04, 0)]
      let m := a.act &&& ~~~ bad
      .next (s.updWave a.w fun y =>
        if wd then y.putV64 f.dst m fun l => x.src64 f.srcA (from_ l)
        else y.putV f.dst m fun l => x.src .int f.srcA (from_ l))

/-- One step of a reduction on exact integers, or on f32 (R293). -/
def redInt (op : Nat) (a b : Int) : Int := match op with | 0 => a + b | 1 => minI a b | _ => maxI a b
def redFlt (op mode : Nat) (a b : Nat) : Nat :=
  match op with | 0 => f32Ty.add mode a b | 1 => f32Ty.minmax false a b | _ => f32Ty.minmax true a b

/-- The identities of R151. -/
def redIdI (ty op : Nat) : Int :=
  let w := elemW ty
  match op with
  | 0 => 0
  | 1 => if isSigned ty then 2 ^ (w - 1) - 1 else 2 ^ w - 1
  | _ => if isSigned ty then -(2 ^ (w - 1)) else 0
def redIdF (op : Nat) : Nat := match op with | 0 => 0x80000000 | 1 => fInf | _ => fNegInf

/-- Adjacent elements combined, `n` times: a binary tree over 2^n elements (Table 6.9). -/
def pairUp {α : Type} (op : α → α → α) : List α → List α
  | a :: b :: t => op a b :: pairUp op t
  | l => l
def treeUp {α : Type} (op : α → α → α) : Nat → List α → List α
  | 0, l => l
  | n + 1, l => treeUp op n (pairUp op l)

/-- The reduction of VRED over lanes 0 to 31. -/
def vred (f : FmtA) (x : Wave) (m : LaneMask) : Dword :=
  let op := (redOp f).getD 0
  if redF32 f then
    let v (l : Nat) : Nat := (x.src .f32 f.srcA l).toNat
    let t := if op = 0 then (List.range 32).map fun l => if inMask m l then v l else redIdF op
      else (lanesOf m).map v
    let r := if op = 0 then (treeUp (redFlt op f.round) 5 t).headD 0
      else match t with
        | [] => redIdF op
        | a :: u => let r := u.foldl (redFlt op 0) a; if f32Ty.isNan r then fNaN else r
    BitVec.ofNat 64 r
  else
    let t := (lanesOf m).map fun l => elemI f.type (x.srcT f.type f.srcA l) 0
    BitVec.ofNat 64 (fitI f.type f.sat (t.foldl (redInt op) (redIdI f.type op)))

/-- A result of wave scope at the width of a TYPE. -/
def Wave.putAnyT (x : Wave) (ty : Nat) (o : Operand) (m : LaneMask) (v : Dword) : Wave :=
  match o with
  | .sca _ => x.putST ty o v
  | _ => x.putVT ty o m fun _ => v

/-- VRED (R293). -/
def execVred (f : FmtA) (s : State) : Out :=
  vectorOp f.guard f.neg (sigRed f true) (fun x m =>
    x.putAnyT (if redF32 f then 0 else f.type) f.dst m (vred f x m)) s

/-- The five steps of VSCAN. -/
def scanUp {α : Type} (op : α → α → α) (d : α) (t : List α) : List α :=
  [1, 2, 4, 8, 16].foldl (fun t off =>
    (List.range 32).map fun l => if off ≤ l then op (t.getD (l - off) d) (t.getD l d) else t.getD l d) t

/-- VSCAN (R294). Integer addition is exact to the end and then wraps or saturates (notes/assumptions/15.md). -/
def execVscan (f : FmtA) (s : State) : Out :=
  vectorOp f.guard f.neg (sigRed f false) (fun x m =>
    let op := (redOp f).getD 0
    if redF32 f then
      let t := (List.range 32).map fun l => if inMask m l then (x.src .f32 f.srcA l).toNat else redIdF op
      let u := scanUp (redFlt op f.round) 0 t
      x.putV f.dst m fun l => BitVec.ofNat 32 (if f32Ty.isNan (u.getD l 0) then fNaN else u.getD l 0)
    else
      let t := (List.range 32).map fun l =>
        if inMask m l then elemI f.type (x.srcT f.type f.srcA l) 0 else redIdI f.type op
      let u := scanUp (redInt op) 0 t
      x.putVT f.type f.dst m fun l => BitVec.ofNat 64 (fitI f.type f.sat (u.getD l 0))) s

end Sys2Proof.Machine
end

