-- ==== Sys2Proof/Machine/VectorFloat.lean ====
section
/-! DEFINITION. The floating-point, conversion and block-scale instructions of group 3 (R295 to R307). -/

namespace Sys2Proof.Machine

/-! ## What the instructions ask -/

/-- TYPE 0 to 2 with SAT reserved (R295). -/
def sigFlt (f : FmtA) (types : List Nat) (round : Bool) (k : Nat) : Sig :=
  { uses := vecUses f 1 1 k, bad := badMod f types round false }
def sigFmov (f : FmtA) : Sig := { uses := vecUses f 1 1 1, bad := 3 ≤ f.type || 32 ≤ f.mod7.toNat }
def sigFcmp (f : FmtP) : Sig := { uses := [uSrc f.srcA f.tA, uSrc f.srcB f.tB], bad := badCmp f 8 3 }
/-- The code of FCVT (R303). -/
def cvtCode (f : FmtA) : Nat := (if f.mod7.getLsbD 6 then 8 else 0) + f.type
def sigFcvt (f : FmtA) : Sig :=
  let c := cvtCode f
  { uses := uDstV f.dst (if c = 12 then 2 else 1) :: uSrc f.srcA f.tA (if c = 13 then 2 else 1)
      :: (if c = 8 ∨ c = 9 then [uSrc f.srcB f.tB] else []),
    bad := f.sat }
/-- NCODE and BFMT (Table 13.4). -/
def packN (f : FmtA) : Nat := 2 * 2 ^ (f.mod7.toNat % 4)
def packFmt (f : FmtA) : Nat := f.mod7.toNat / 4 % 8
def bfmtElem (b : Nat) : Elem :=
  match b with | 0 => .mxf4 | 1 => .mxi8 | 2 => .mxf8e4 | 3 => .mxf8e5 | _ => .kq4
def badPack (f : FmtA) : Bool :=
  f.mod7.toNat % 4 = 3 || 5 ≤ packFmt f || 32 ≤ f.mod7.toNat || (packN f = 8 && (bfmtElem (packFmt f)).bits = 8)
def sigFpack (f : FmtA) : Sig :=
  { uses := [uDstV f.dst, uVecReg f.srcA f.tA (packN f), uSrc f.srcB f.tB], bad := badPack f }
def sigFunpack (f : FmtA) : Sig :=
  { uses := [uDstV f.dst (packN f), uSrc f.srcA f.tA, uSrc f.srcB f.tB], bad := badPack f }
def sigFbscale (f : FmtA) : Sig :=
  { uses := [uDst f.dst, uSrc f.srcA f.tA],
    bad := f.mod7.toNat % 4 ≠ 0 || 5 ≤ packFmt f || 32 ≤ f.mod7.toNat }

/-! ## Element-wise arithmetic -/

/-- The type, constant kind and element count of TYPE 0 to 2. -/
def fltTy (ty : Nat) : FTy := match ty with | 0 => f32Ty | 1 => f16Ty | _ => bf16Ty
def fltCK (ty : Nat) : CK := match ty with | 0 => .f32 | 1 => .f16 | _ => .bf16
def fltN (ty : Nat) : Nat := if ty = 0 then 1 else 2
def fltW (ty : Nat) : Nat := if ty = 0 then 32 else 16

/-- An operation on the elements of three registers. -/
def mapF (ty : Nat) (op : FTy → Nat → Nat → Nat → Nat) (a b c : Word) : Word :=
  let e (x : Word) (i : Nat) : Nat := bitsOf x.toNat (fltW ty * i) (fltW ty)
  BitVec.ofNat 32 (packBits (fltW ty) ((List.range (fltN ty)).map fun i => op (fltTy ty) (e a i) (e b i) (e c i)))

def vectorFlt (f : FmtA) (g : Sig) (op : FTy → Nat → Nat → Nat → Nat) (s : State) : Out :=
  let k := fltCK f.type
  vectorOp f.guard f.neg g (fun x m => x.putV f.dst m fun l =>
    mapF f.type op (x.src k f.srcA l) (x.src k f.srcB l) (x.src k f.srcC l)) s

/-- FADD (R296). -/
def execFadd (f : FmtA) (s : State) : Out :=
  vectorFlt f (sigFlt f [0, 1, 2] true 2) (fun t a b _ => t.add f.round a b) s
/-- FSUB (R296). -/
def execFsub (f : FmtA) (s : State) : Out :=
  vectorFlt f (sigFlt f [0, 1, 2] true 2) (fun t a b _ => t.sub f.round a b) s
/-- FMUL (R296). -/
def execFmul (f : FmtA) (s : State) : Out :=
  vectorFlt f (sigFlt f [0, 1, 2] true 2) (fun t a b _ => t.mul f.round a b) s
/-- FFMA (R296). -/
def execFfma (f : FmtA) (s : State) : Out :=
  vectorFlt f (sigFlt f [0, 1, 2] true 3) (fun t a b c => t.fma f.round a b c) s
/-- FMIN (R296). -/
def execFmin (f : FmtA) (s : State) : Out :=
  vectorFlt f (sigFlt f [0, 1, 2] false 2) (fun t a b _ => t.minmax false a b) s
/-- FMAX (R296). -/
def execFmax (f : FmtA) (s : State) : Out :=
  vectorFlt f (sigFlt f [0, 1, 2] false 2) (fun t a b _ => t.minmax true a b) s

/-- FMOV of one element (R297). -/
def fmovElem (abs neg : Bool) (t : FTy) (a : Nat) : Nat :=
  if t.isNan a then t.nan
  else
    let half := 2 ^ (t.ew + t.fw)
    let a := if abs then a % half else a
    if neg then a ^^^ half else a

/-- FMOV (R297). -/
def execFmov (f : FmtA) (s : State) : Out :=
  vectorFlt f (sigFmov f) (fun t a _ _ => fmovElem (f.mod7.getLsbD 3) (f.mod7.getLsbD 4) t a) s

/-- FCMP (R298): f16 and bf16 taken from bits [15:0]. -/
def execFcmp (f : FmtP) (s : State) : Out :=
  let ty := f.ty.toNat
  vectorOp f.guard f.neg (sigFcmp f) (fun x m =>
    let e (o : Operand) (l : Nat) : Nat := (x.src (fltCK ty) o l).toNat % 2 ^ fltW ty
    x.putCondP f m (maskOf fun l => condOrd f.cond.toNat ((fltTy ty).compare (e f.srcA l) (e f.srcB l)))) s

/-- FRCP (R299). -/
def execFrcp (f : FmtA) (s : State) : Out :=
  vectorFlt f (sigFlt f [0] false 1) (fun _ a _ _ => f32Ty.div 0 fOne a) s
/-- FRSQ (R299). -/
def execFrsq (f : FmtA) (s : State) : Out := vectorFlt f (sigFlt f [0] false 1) (fun _ a _ _ => f32Ty.rsqrt a) s
/-- FSQRT (R299). -/
def execFsqrt (f : FmtA) (s : State) : Out := vectorFlt f (sigFlt f [0] false 1) (fun _ a _ _ => f32Ty.sqrt a) s
/-- FDIV (R299). -/
def execFdiv (f : FmtA) (s : State) : Out :=
  vectorFlt f (sigFlt f [0] false 2) (fun _ a b _ => f32Ty.div 0 a b) s
/-- FEXP2 (R300). -/
def execFexp2 (f : FmtA) (s : State) : Out := vectorFlt f (sigFlt f [0] false 1) (fun _ a _ _ => fexp2 a) s
/-- FLOG2 (R300). -/
def execFlog2 (f : FmtA) (s : State) : Out := vectorFlt f (sigFlt f [0] false 1) (fun _ a _ _ => flog2 a) s
/-- FSINPI (R300). -/
def execFsinpi (f : FmtA) (s : State) : Out := vectorFlt f (sigFlt f [0] false 1) (fun _ a _ _ => fsinpi a) s
/-- FCOSPI (R300). -/
def execFcospi (f : FmtA) (s : State) : Out := vectorFlt f (sigFlt f [0] false 1) (fun _ a _ _ => fcospi a) s

/-- FRND of one element (R301). -/
def frndElem (mode : Nat) (t : FTy) (a : Nat) : Nat :=
  match t.decode a with
  | .nan => t.nan
  | .inf _ => a
  | .fin neg m e => if m = 0 then a else t.round 0 neg (roundInt mode neg m e).natAbs 0

/-- FRND (R301). -/
def execFrnd (f : FmtA) (s : State) : Out :=
  vectorFlt f (sigFlt f [0, 1, 2] true 1) (fun t a _ _ => frndElem f.round t a) s

/-- FLDEXP of one element (R302). An exponent beyond ±400 gives what ±400 gives. -/
def ldexp (mode a : Nat) (k : Int) : Nat :=
  match f32Ty.decode a with
  | .nan => fNaN
  | .inf _ => a
  | .fin neg m e => if m = 0 then a else f32Ty.round mode neg m (e + clampI (-400) 400 k)

/-- FLDEXP (R302). -/
def execFldexp (f : FmtA) (s : State) : Out :=
  vectorOp f.guard f.neg (sigFlt f [0] true 2) (fun x m => x.putV f.dst m fun l =>
    BitVec.ofNat 32 (ldexp f.round (x.src .f32 f.srcA l).toNat (sext 32 (x.src .int f.srcB l).toNat))) s

/-! ## Conversions (R303) -/

/-- Codes 8 to 15 of Table 13.3 on the words of srcA and srcB. -/
def fcvtHigh (code mode : Nat) (a b : Nat) (a64 : Dword) : Nat :=
  let lo (x : Nat) : Nat := x % 65536
  let hi (x : Nat) : Nat := x / 65536 % 65536
  match code with
  | 8 => convF f32Ty f16Ty mode a + 65536 * convF f32Ty f16Ty mode b
  | 9 => convF f32Ty bf16Ty mode a + 65536 * convF f32Ty bf16Ty mode b
  | 10 => convF f16Ty f32Ty 0 (hi a)
  | 11 => convF bf16Ty f32Ty 0 (hi a)
  | 12 => wrapN 64 (f32Ty.toInt mode (-(2 ^ 63)) (2 ^ 63 - 1) a)
  | 13 => f32Ty.ofInt mode (sext 64 a64.toNat)
  | 14 => convF f16Ty bf16Ty mode (lo a) + 65536 * convF f16Ty bf16Ty mode (hi a)
  | _ => convF bf16Ty f16Ty mode (lo a) + 65536 * convF bf16Ty f16Ty mode (hi a)

/-- How a conversion reads a constant. -/
def fcvtCK (code : Nat) : CK :=
  match code with
  | 10 => .f16 | 14 => .f16 | 11 => .bf16 | 15 => .bf16 | 8 => .f32 | 9 => .f32 | 12 => .f32 | 13 => .int
  | c => sfcvtCK c

/-- FCVT (R303). -/
def execFcvt (f : FmtA) (s : State) : Out :=
  let c := cvtCode f
  vectorOp f.guard f.neg (sigFcvt f) (fun x m =>
    let v (l : Nat) : Nat :=
      let a := (x.src (fcvtCK c) f.srcA l).toNat
      if c < 8 then sfcvt c f.round a
      else fcvtHigh c f.round a (x.src (fcvtCK c) f.srcB l).toNat (x.src64 f.srcA l)
    if c = 12 then x.putV64 f.dst m fun l => BitVec.ofNat 64 (v l)
    else x.putV f.dst m fun l => BitVec.ofNat 32 (v l)) s

/-! ## Block formats (R304, R305) -/

/-- The code of one f32 under a scale byte (R304). -/
def packCode (e : Elem) (sc x : Nat) : Nat :=
  if sc = 0xFF then 0
  else if f32Ty.isNan x then
    let sgn := x / 2 ^ 31 * 128
    match e with | .mxf8e4 => sgn + 0x7F | .mxf8e5 => sgn + 0x7F | _ => 0
  else quant e (f32Ty.decode x) sc

/-- FPACK (R304). -/
def execFpack (f : FmtA) (s : State) : Out :=
  let e := bfmtElem (packFmt f)
  vectorOp f.guard f.neg (sigFpack f) (fun x m => x.putV f.dst m fun l =>
    let sc := (x.src .int f.srcB l).toNat % 256
    BitVec.ofNat 32 (packBits e.bits ((List.range (packN f)).map fun i =>
      packCode e sc (x.srcN f.srcA i l).toNat))) s

/-- FUNPACK (R304). -/
def execFunpack (f : FmtA) (s : State) : Out :=
  let e := bfmtElem (packFmt f)
  vectorOp f.guard f.neg (sigFunpack f) (fun x m =>
    let v (i l : Nat) : Word :=
      BitVec.ofNat 32 (e.decodeTo f32Ty (bitsOf (x.src .int f.srcA l).toNat (e.bits * i) e.bits)
        ((x.src .int f.srcB l).toNat % 256))
    match f.dst with
    | .vec n => (List.range (packN f)).foldl (fun y i => y.vSet (n.toNat + i) m (v i)) x
    | _ => x) s

/-- FBSCALE (R305). -/
def execFbscale (f : FmtA) (s : State) : Out :=
  vectorOp f.guard f.neg (sigFbscale f) (fun x m =>
    let xs := (List.range 32).map fun l =>
      if inMask m l then f32Ty.decode (x.src .f32 f.srcA l).toNat else .fin false 0 0
    x.putAny f.dst m (BitVec.ofNat 32 (mxScale (bfmtElem (packFmt f)) xs))) s

/-! ## Dot products and classes (R306, R307) -/

/-- FDOT2 (R306). -/
def fdot2 (t : FTy) (mode : Nat) (a b c : Nat) : Nat :=
  let v (x i : Nat) : FVal := t.decode (bitsOf x (16 * i) 16)
  f32Ty.encode mode (FVal.sum mode [(v a 0).mul (v b 0), (v a 1).mul (v b 1), f32Ty.decode c])

def execFdot2 (f : FmtA) (s : State) : Out :=
  vectorOp f.guard f.neg (sigFlt f [1, 2] true 3) (fun x m => x.putV f.dst m fun l =>
    BitVec.ofNat 32 (fdot2 (fltTy f.type) f.round (x.src (fltCK f.type) f.srcA l).toNat
      (x.src (fltCK f.type) f.srcB l).toNat (x.src .f32 f.srcC l).toNat)) s

/-- The class mask of one element (R307). -/
def fclassElem (t : FTy) (a : Nat) : Nat :=
  let neg := bitOf a (t.ew + t.fw)
  let den := a % 2 ^ (t.ew + t.fw) < 2 ^ t.fw
  match t.decode a with
  | .nan => if bitOf a (t.fw - 1) then 512 else 256
  | .inf n => if n then 1 else 128
  | .fin _ m _ =>
    if m = 0 then (if neg then 8 else 16)
    else if den then (if neg then 4 else 32)
    else if neg then 2 else 64

/-- FCLASS (R307). -/
def execFclass (f : FmtA) (s : State) : Out :=
  let ty := f.type
  vectorOp f.guard f.neg (sigFlt f [0, 1, 2] false 1) (fun x m => x.putV f.dst m fun l =>
    let a := (x.src (fltCK ty) f.srcA l).toNat
    BitVec.ofNat 32 ((List.range (fltN ty)).foldl (fun r i =>
      r + fclassElem (fltTy ty) (bitsOf a (fltW ty * i) (fltW ty)) * 65536 ^ i) 0)) s

end Sys2Proof.Machine
end

