-- ==== Sys2Proof/Machine/Xform.lean ====
section
/-! DEFINITION. The transform engines (R195 to R199). -/

namespace Sys2Proof.Machine

/-! ## Types (Table 9.7) -/

/-- An element type: floating point, or a block format. -/
inductive XTy where
  | flt (t : FTy)
  | blk (e : Elem)
  deriving DecidableEq, Repr

def xTy (n : Nat) : Option XTy :=
  match n with
  | 0 => some (.flt f32Ty) | 1 => some (.flt bf16Ty) | 2 => some (.flt f16Ty) | 3 => some (.blk .mxf4)
  | 4 => some (.blk .mxi8) | 5 => some (.blk .mxf8e4) | 6 => some (.blk .mxf8e5) | 7 => some (.blk .kq4) | _ => none

def XTy.bits : XTy → Nat
  | .flt t => t.width
  | .blk e => e.bits
def XTy.isBlk : XTy → Bool
  | .flt _ => false
  | .blk _ => true

/-! ## The request block -/

def xfFunc (b : List Byte) : Nat := byteAt b 0
def xfDst (b : List Byte) : Nat := byteAt b 1 % 16
def xfSrc (b : List Byte) : Nat := byteAt b 1 / 16
def xfRows (b : List Byte) : Nat := leAt b 8 4
def xfCols (b : List Byte) : Nat := leAt b 12 4
def xfAddr (b : List Byte) (i : Nat) : Nat := leAt b (16 + 8 * i) 8
def xfStride (b : List Byte) : Nat := leAt b 56 4
def xfAttr (b : List Byte) : Nat := leAt b 60 4
/-- SRC, DSTA, DSTB, SCA, SCB. -/
def xSRC (b : List Byte) : Nat := xfAddr b 0
def xDSTA (b : List Byte) : Nat := xfAddr b 1
def xDSTB (b : List Byte) : Nat := xfAddr b 2
def xSCA (b : List Byte) : Nat := xfAddr b 3
def xSCB (b : List Byte) : Nat := xfAddr b 4

/-- Elements as bytes, each of the width of its type. -/
def packElems (t : XTy) (l : List Nat) : List Byte := toBytes (ceilDiv (t.bits * l.length) 8) (packBits t.bits l)

/-- Bytes of a source row. -/
def rowBytes (bits cols : Nat) : Nat := ceilDiv (bits * cols) 8

def outside56 (va n : Nat) : Bool := 2 ^ 56 < va + n
/-- The rows of the source leave the window. -/
def srcOut (b : List Byte) (n : Nat) : Bool := outside56 (xSRC b) ((xfRows b - 1) * xfStride b + n)
def not32 (b : List Byte) : Bool := xfRows b % 32 ≠ 0 || xfCols b % 32 ≠ 0
def bitsOfTy (n : Nat) : Nat := ((xTy n).map XTy.bits).getD 0
def isBlkTy (n : Nat) : Bool := ((xTy n).map XTy.isBlk).getD false

/-- A block that R197 refuses. -/
def xformBad (b : List Byte) : Bool :=
  let n := xfRows b * xfCols b
  let src := bitsOfTy (xfSrc b)
  let dst := bitsOfTy (xfDst b)
  let sc := byteAt b 2
  sc < 1 || 4 < sc || byteAt b 3 ≠ 0 ||
    match xfFunc b with
    | 1 => 1 < xfSrc b || xfDst b < 3 || 7 < xfDst b || xfAttr b ≠ 0 || not32 b || srcOut b (rowBytes src (xfCols b))
        || outside56 (xDSTA b) (rowBytes dst n) || outside56 (xDSTB b) (rowBytes dst n)
        || outside56 (xSCA b) (n / 32) || outside56 (xSCB b) (n / 32)
    | 2 => 1 < xfSrc b || xfDst b ≠ 0 || xDSTB b ≠ 0 || xSCA b ≠ 0 || 2 < xfAttr b || (xfAttr b ≠ 0 && not32 b)
        || srcOut b (rowBytes src (xfCols b)) || outside56 (xDSTA b) (rowBytes src n)
        || (xfAttr b = 2 && outside56 (xSCB b) (n / 32))
    | 3 => xfSrc b ≠ 0 || 1 < xfDst b || xDSTB b ≠ 0 || xSCB b ≠ 0 || xfAttr b < 1 || 2 < xfAttr b || not32 b
        || srcOut b (rowBytes (if xfAttr b = 1 then 1 else 4) (xfCols b)) || outside56 (xDSTA b) (rowBytes dst n)
        || (xfAttr b = 2 && outside56 (xSCA b) (n / 32))
    | 4 => byteAt b 1 ≠ 0 || xfCols b ≠ 0 || xSCA b ≠ 0 || xSCB b ≠ 0 || xfAttr b ≠ 0 || srcOut b 256
        || outside56 (xDSTA b) (264 * xfRows b) || outside56 (xDSTB b) (4 * xfRows b)
    | 5 => byteAt b 1 ≠ 0 || xfCols b ≠ 0 || xfStride b ≠ 0 || xSCA b ≠ 0 || xSCB b ≠ 0 || xfAttr b ≠ 0
        || outside56 (xSRC b) 8 || outside56 (xDSTA b) (256 * xfRows b) || outside56 (xDSTB b) (4 * xfRows b)
    | 6 => byteAt b 1 ≠ 0 || xfStride b ≠ 0 || xSCA b ≠ 0 || xSCB b ≠ 0 || xfAttr b ≠ 0
        || outside56 (xSRC b) (xfRows b * 2 ^ 32 + xfCols b) || outside56 (xDSTA b) 64 || outside56 (xDSTB b) 64
    | 7 => 7 < xfSrc b || 7 < xfDst b || xDSTB b ≠ 0 || xfAttr b ≠ 0
        || ((isBlkTy (xfSrc b) || isBlkTy (xfDst b)) && not32 b) || srcOut b (rowBytes src (xfCols b))
        || outside56 (xDSTA b) (rowBytes dst n) || (isBlkTy (xfSrc b) && outside56 (xSCA b) (n / 32))
        || (isBlkTy (xfDst b) && outside56 (xSCB b) (n / 32))
    | _ => true

/-! ## Values -/

/-- What a request makes of its source: writes, code, and RESULT. -/
structure XOut where
  writes : List (Nat × List Byte × Nat) := []
  code : Nat := 0
  result : Nat := 0

/-- A value as numbers. -/
def FVal.key : FVal → List Nat
  | .nan => [0]
  | .inf neg => [1, boolN neg]
  | .fin neg m e => [2, boolN neg, m, e.toNat, (-e).toNat]

/-- A block of 32 quantised: codes and scale; the codes under scale 0xFF, to which the manual gives none, are free values, the same
for the same block (R152). -/
def quantBlock (e : Elem) (vs : List FVal) : List Nat × Nat :=
  let sc := mxScale e vs
  let free (k : Nat) : Nat := (Config.freeOf (k :: e.bits :: vs.flatMap FVal.key)).toNat
  (if sc = 0xFF then (List.range 32).map fun k => free k % 2 ^ e.bits else vs.map fun v => quant e v sc, sc)

/-- Lists of 32. -/
def chunks32 {α : Type} (l : List α) : List (List α) := (List.range (l.length / 32)).map fun i => (l.drop (32 * i)).take 32

/-- Rows of values quantised: packed codes, scales. -/
def quantRows (e : Elem) (vs : List FVal) : List Byte × List Byte :=
  let qs := (chunks32 vs).map (quantBlock e)
  (packElems (.blk e) (qs.flatMap (·.1)), qs.flatMap fun q => toBytes 1 q.2)

/-- The codes of a source's rows, and its scales. -/
def State.xformRows (s : State) (ctx : Nat) (b : List Byte) (bits : Nat) (scales : Bool) : EngM (List Nat × List Byte) :=
  let w := rowBytes bits (xfCols b)
  let rows := (List.range (xfRows b)).foldl (fun acc r =>
    EngM.bind acc fun l s =>
    EngM.bind (s.engReadIn ctx (xSRC b) (xSRC b + r * xfStride b) w 6) fun row s =>
      .ok (l ++ (List.range (xfCols b)).map fun i => bitsOf (leAt row (i * bits / 8) ((bits + 7) / 8)) (i * bits % 8) bits, s))
    (.ok ([], s))
  EngM.bind rows fun l s =>
    if scales then EngM.bind (s.engRead ctx (xSCA b) (xfRows b * xfCols b / 32) 6) fun sc s => .ok ((l, sc), s)
    else .ok ((l, []), s)

/-- The exact value of an element; one of a block is decoded to f32 first where it is quantised again. -/
def xVal (t : XTy) (scales : List Byte) (requant : Bool) (i c : Nat) : FVal :=
  match t with
  | .flt f => f.decode c
  | .blk e =>
    let sc := byteAt scales (i / 32)
    if requant then f32Ty.decode (e.decodeTo f32Ty c sc) else e.scaled c sc

/-- The transpose of a matrix held row-major. -/
def transpose {α : Type} (d : α) (rows cols : Nat) (l : List α) : List α :=
  (List.range cols).flatMap fun c => (List.range rows).map fun r => l.getD (r * cols + c) d

/-- The size that alias stores of an output see. -/
def xSize (t : XTy) : Nat := match t with | .flt f => f.width / 8 | .blk _ => 1

def indexed {α : Type} (l : List α) : List (Nat × α) := (List.range l.length).zip l

/-- Values written in a type, with scales at `sca` for a block format. -/
def xStore (t : XTy) (dst sca : Nat) (vs : List FVal) : List (Nat × List Byte × Nat) :=
  match t with
  | .flt f => [(dst, packElems t (vs.map fun v => f.encode 0 v), xSize t)]
  | .blk e =>
    let q := quantRows e vs
    [(dst, q.1, 1), (sca, q.2, 1)]

/-! ## The functions (Table 9.8) -/

def tyOf (n : Nat) : XTy := (xTy n).getD (.flt f32Ty)

def State.xQuant2 (s : State) (ctx : Nat) (b : List Byte) : EngM XOut :=
  EngM.bind (s.xformRows ctx b (bitsOfTy (xfSrc b)) false) fun p s =>
    let src := tyOf (xfSrc b)
    let vs := (indexed p.1).map fun q => xVal src [] true q.1 q.2
    .ok ({ writes := xStore (tyOf (xfDst b)) (xDSTA b) (xSCA b) vs ++
             xStore (tyOf (xfDst b)) (xDSTB b) (xSCB b) (transpose .nan (xfRows b) (xfCols b) vs) }, s)

def State.xPack (s : State) (ctx : Nat) (b : List Byte) : EngM XOut :=
  let t := tyOf (xfSrc b)
  EngM.bind (s.xformRows ctx b t.bits false) fun p s =>
    match xfAttr b with
    | 0 => .ok ({ writes := [(xDSTA b, packElems t p.1, xSize t)] }, s)
    | 1 =>
      let signs := p.1.map fun c => c / 2 ^ (t.bits - 1)
      .ok ({ writes := [(xDSTA b, toBytes (signs.length / 8) (packBits 1 signs), 1)] }, s)
    | _ =>
      let vs := (indexed p.1).map fun q => xVal t [] true q.1 q.2
      .ok ({ writes := xStore (.blk .kq4) (xDSTA b) (xSCB b) vs }, s)

def State.xUnpack (s : State) (ctx : Nat) (b : List Byte) : EngM XOut :=
  let sb := xfAttr b = 1
  let t := tyOf (xfDst b)
  EngM.bind (s.xformRows ctx b (if sb then 1 else 4) (!sb)) fun p s =>
    let vs := (indexed p.1).map fun q =>
      if sb then FVal.fin (q.2 = 1) 1 0 else xVal (.blk .kq4) p.2 false q.1 q.2
    .ok ({ writes := xStore t (xDSTA b) 0 vs }, s)

/-- A unit's block: header, then chunks. -/
def unitBlock (u : List Byte) : List Byte :=
  let (codec, n, payload) := compressUnit u
  toBytes 8 (blockHeader codec n false (crc32c u)) ++ toBytes (32 * n) payload

def State.xCompress (s : State) (ctx : Nat) (b : List Byte) : EngM XOut :=
  let units := (List.range (xfRows b)).foldl (fun acc r =>
    EngM.bind acc fun l s =>
    EngM.bind (s.engReadIn ctx (xSRC b) (xSRC b + r * xfStride b) 256 6) fun u s => .ok (l ++ [unitBlock u], s))
    (.ok ([], s))
  EngM.bind units fun l s =>
    let offs := (List.range l.length).map fun i => ((l.take i).map List.length).foldl (· + ·) 0
    let all := l.flatMap id
    .ok ({ writes := [(xDSTA b, all, 4), (xDSTB b, offs.flatMap (toBytes 4), 4)], result := all.length % 2 ^ 32 }, s)

/-- A unit expanded from the block at an address: none where its check fails or POISON is set. -/
def State.xUnit (s : State) (ctx base va : Nat) : EngM (Option (List Byte)) :=
  EngM.bind (s.engReadIn ctx base va 8 6) fun h s =>
    let hdr := ofBytes h
    match codecChunks (hdr % 8) with
    | none => .ok (none, s)
    | some n =>
      EngM.bind (s.engReadIn ctx base (va + 8) (32 * n) 6) fun p s =>
        .ok (if bitOf hdr 6 then none else expandBlock hdr (ofBytes p), s)

def State.xExpand (s : State) (ctx : Nat) (b : List Byte) : EngM XOut :=
  EngM.bind (s.engRead ctx (xDSTB b) (4 * xfRows b) 6) fun offs s =>
    (List.range (xfRows b)).foldl (fun acc r =>
      EngM.bind acc fun o s =>
      EngM.bind (s.xUnit ctx (xSRC b) (xSRC b + leAt offs (4 * r) 4)) fun u s =>
        match u with
        | some u => .ok ({ o with writes := o.writes ++ [(xDSTA b + 256 * r, u, 4)] }, s)
        | none => .ok ({ o with code := 7 }, s)) (.ok ({}, s))

def State.xDigest (s : State) (ctx : Nat) (b : List Byte) : EngM XOut :=
  EngM.bind (s.engRead ctx (xSRC b) (xfRows b * 2 ^ 32 + xfCols b) 6) fun l s =>
    let d := sha512 l
    let w := [(xDSTA b, d, 4)]
    if xDSTB b = 0 then .ok ({ writes := w }, s)
    else EngM.bind (s.engRead ctx (xDSTB b) 64 6) fun x s => .ok ({ writes := w, code := if x = d then 0 else 8 }, s)

def State.xConvert (s : State) (ctx : Nat) (b : List Byte) : EngM XOut :=
  let src := tyOf (xfSrc b)
  let dst := tyOf (xfDst b)
  EngM.bind (s.xformRows ctx b src.bits src.isBlk) fun p s =>
    let vs := (indexed p.1).map fun q => xVal src p.2 dst.isBlk q.1 q.2
    .ok ({ writes := xStore dst (xDSTA b) (xSCB b) vs }, s)

def State.xformOut (s : State) (ctx : Nat) (b : List Byte) : EngM XOut :=
  match xfFunc b with
  | 1 => s.xQuant2 ctx b
  | 2 => s.xPack ctx b
  | 3 => s.xUnpack ctx b
  | 4 => s.xCompress ctx b
  | 5 => s.xExpand ctx b
  | 6 => s.xDigest ctx b
  | _ => s.xConvert ctx b

/-- A request performed: its outputs written. The scope of its release is that of its block. -/
def State.xformPerform (s : State) (c : EngCmd) : EngRes :=
  match s.cmdDesc c with
  | .error e => .stop e.1 e.2
  | .ok (b, s) =>
    if xformBad b then .done 3 0 s
    else
      match s.xformOut c.ctx b with
      | .error e => .stop e.1 e.2
      | .ok (o, s) => s.cmdWrite c o.writes o.code o.result

/-! ## Completion (R199) -/

/-- The completion record (Table 9.9). -/
def xRecord (b : List Byte) (code engine i rlog result t : Nat) : List Byte :=
  (b.drop 4).take 4 ++ b.take 1 ++ toBytes 1 code ++ toBytes 1 engine ++ toBytes 1 (i / 2 ^ rlog % 2) ++ toBytes 4 result
    ++ toBytes 4 t

/-- A request ends: a ring request's record is written to its slot; one whose block was not read holds free values for
its TAG and FUNC. A record that takes a fault waits on it, and one that fails while it waits is dropped. -/
def State.xformEnd (s : State) (i : Nat) (c : EngCmd) (code val : Nat) : State :=
  if c.card.isSome then s.cmdEnd c val
  else
    let ring := ((s.die c.die).x c.ctx).ring
    let va := doneRingAt ring c.die + i % 2 ^ xrLog ring * 16
    let (f, s) := if c.desc = [] then s.drawFree else (0, s)
    let b := if c.desc = [] then toBytes 8 f.toNat else c.desc
    match s.engPlaces c.ctx va (xRecord b code c.engine i (xrLog ring) val (s.refTime c.die)) 16 with
    | .ok ps => (ps.foldl (fun s p => s.engPut c.id (c.die * 16) c.ctx 0 p.1 p.2) s).cmdEnd c val
    | .error (.fault pva cause kind off) =>
      if c.role ≠ 0 then s.delCmd c.id
      else (s.updCmd c.id fun x => { x with result := some (code, val) }).cmdFault c pva cause kind off
    | .error _ => s.updCmd c.id fun x => { x with result := some (code, val), role := 0 }

/-- The request that an engine of a die performs. -/
def Die.flying (d : Die) (engine : Nat) : Option XFly := d.xfly.find? fun x => x.cmd.engine = engine

/-- XFORM_REQUEST_COMPLETE (R199). -/
def execXformRequestComplete (die engine : Nat) (s : State) : Out :=
  match (s.die die).flying engine with
  | none => .next s
  | some x => .next (s.cmdTurn x.cmd (fun s => s.xformPerform x.cmd) (fun s => .done 5 0 s)
      fun s c code val => s.xformEnd x.i c code val)

/-! ## Start (R196) -/

/-- XFORM_REQUEST_START (R196): a card whose turn has come, or the next ring request below the kick index. -/
def execXformRequestStart (die engine : Nat) (s : State) : Out :=
  let d := s.die die
  match d.owner with
  | none => .next s
  | some ctx =>
    if (d.flying engine).isSome then .next s
    else
      let x := d.x ctx
      match d.xcards.find? fun c => c.ctx = ctx && c.handle ≤ x.next with
      | some c =>
        if c.engine = 0xFF ∨ c.engine = engine then
          .next (s.setDie die { d with
            xcards := d.xcards.filter fun y => y.id ≠ c.id
            xfly := d.xfly ++ [⟨0, { c with engine := engine }⟩] })
        else .next s
      | none =>
        if x.ring.getLsbD 0 && x.next < x.kick then
          let (id, s) := s.fresh
          let c : EngCmd :=
            { id := id, kind := 5, die := die, ctx := ctx, job := 0, uid := 0, wid := 0, desc := [], scope := 4, t := s.time,
              engine := engine, descVa := ringAt x.ring die + x.next % 2 ^ xrLog x.ring * 64 }
          .next (s.setDie die { d with
            xctx := Tbl.set d.xctx ctx { x with next := x.next + 1 }
            xfly := d.xfly ++ [⟨x.next, c⟩] })
        else .next s

end Sys2Proof.Machine
end

