-- ==== Sys2Proof/Machine/Signature.lean ====
section
/-! DEFINITION. What each instruction asks of its operands, gathered for the readiness of a wave (R34) and the start of a
packed slot (R230). -/

namespace Sys2Proof.Machine

/-- The signature of an instruction of a wave; a step of the device outside a word asks nothing. -/
def State.sigOf (s : State) (w : Nat) (i : Instr) : Sig :=
  match i with
  | .nop f => sigNop f
  | .smov f => sigSInt f tyAll false 1
  | .smovi f => sigSmovi f
  | .sadd f => sigSInt f tyAll true 2
  | .ssub f => sigSInt f tyAll true 2
  | .smul f => sigSInt f tyPlain true 2
  | .smulh f => sigSInt f tyWord false 2
  | .smad f => sigSInt f tyPlain true 3
  | .sdiv f => sigSInt f tyPlain true 2
  | .srem f => sigSInt f tyPlain true 2
  | .smin f => sigSInt f tyAll false 2
  | .smax f => sigSInt f tyAll false 2
  | .sand f => sigSInt f tyAll false 2
  | .sor f => sigSInt f tyAll false 2
  | .sxor f => sigSInt f tyAll false 2
  | .sandn f => sigSInt f tyAll false 2
  | .sshl f => sigSInt f tyPlain false 2
  | .sshr f => sigSInt f tyPlain false 2
  | .ssra f => sigSInt f tyPlain false 2
  | .sbfe f => sigSInt f tyPlain false 2
  | .sbfi f => sigSInt f tyPlain false 3
  | .spopc f => sigSCount f
  | .sclz f => sigSCount f
  | .ssel f => sigSsel f
  | .scmp f => sigScmp f
  | .saddi f => sigSImm f true false false
  | .smuli f => sigSImm f true false false
  | .sandi f => sigSImm f false false false
  | .sori f => sigSImm f false false false
  | .sxori f => sigSImm f false false false
  | .sshli f => sigSImm f false false true
  | .sshri f => sigSImm f false true true
  | .sfadd f => sigSFlt f 2
  | .sfmul f => sigSFlt f 2
  | .sffma f => sigSFlt f 3
  | .sfcmp f => sigSfcmp f
  | .sfcvt f => sigSfcvt f
  | .qlog f => sigQlog f
  | .crd f => sigCrd f
  | .cwr f => sigCwr f
  | .sld f => sigSld f
  | .sst f => sigSst f
  | .sldk f => sigSldk f
  | .vtos f => sigVtos f
  | .bra f => sigX f false
  | .brx f => sigX f false
  | .jmpi f => sigJump f false
  | .call f => sigX f true
  | .calli f => sigJump f true
  | .ret f => sigJump f false
  | .exit f => sigExit f
  | .yield f => sigPlainA f
  | .sleep f => sigPlainB f
  | .waitdc f => sigPlainB f
  | .wsync f => sigPlainA f
  | .bar f => sigBar f
  | .spawn f => sigSpawn f
  | .carddec f => sigCreate f
  | .cont f => sigCreate f
  | .jcdec f => sigCreate f
  | .cancel f => sigCancel f
  | .trap f => sigTrap f
  | .bkpt f => sigTrap f
  | .hret f => sigHret f
  | .frget f => sigFrget f
  | .frset f => sigFrset f
  | .feget f => sigFeget f
  | .feset f => sigFeset f
  | .reggrow f => sigReg f
  | .regshrink f => sigReg f
  | .vmov f => sigVInt f tyAll false 1
  | .vmovi f => sigVmovi f
  | .vadd f => sigVInt f tyAll true 2
  | .vsub f => sigVInt f tyAll true 2
  | .vmul f => sigVInt f tyAll true 2
  | .vmulh f => sigVInt f tyAll false 2
  | .vmad f => sigVInt f tyAll true 3
  | .vmin f => sigVInt f tyAll false 2
  | .vmax f => sigVInt f tyAll false 2
  | .vabs f => sigVInt f [0, 2, 4, 6] true 1
  | .vand f => sigVInt f tyAll false 2
  | .vor f => sigVInt f tyAll false 2
  | .vxor f => sigVInt f tyAll false 2
  | .vandn f => sigVInt f tyAll false 2
  | .vshl f => sigVInt f tyAll false 2
  | .vshr f => sigVInt f tyAll false 2
  | .vsra f => sigVInt f tyAll false 2
  | .vbfe f => sigVInt f tyPlain false 2
  | .vbfi f => sigVInt f tyPlain false 3
  | .vpopc f => sigVCount f
  | .vclz f => sigVCount f
  | .vsel f => sigVsel f
  | .vcmp f => sigVcmp f
  | .vaddi f => sigVImm f true false false
  | .vandi f => sigVImm f false false false
  | .vshli f => sigVImm f false false true
  | .vshri f => sigVImm f false true true
  | .vidx f => sigVInt f [0, 6] false 2
  | .vdot4 f => sigVdot4 f
  | .vprmt f => sigVprmt f
  | .shfl f => sigShfl f
  | .vote f => sigVote f
  | .plog f => sigPlog f
  | .pmov f => sigPmov f
  | .vred f => sigRed f true
  | .vscan f => sigRed f false
  | .fadd f => sigFlt f [0, 1, 2] true 2
  | .fsub f => sigFlt f [0, 1, 2] true 2
  | .fmul f => sigFlt f [0, 1, 2] true 2
  | .ffma f => sigFlt f [0, 1, 2] true 3
  | .fmin f => sigFlt f [0, 1, 2] false 2
  | .fmax f => sigFlt f [0, 1, 2] false 2
  | .fmov f => sigFmov f
  | .fcmp f => sigFcmp f
  | .frcp f => sigFlt f [0] false 1
  | .frsq f => sigFlt f [0] false 1
  | .fsqrt f => sigFlt f [0] false 1
  | .fdiv f => sigFlt f [0] false 2
  | .fexp2 f => sigFlt f [0] false 1
  | .flog2 f => sigFlt f [0] false 1
  | .fsinpi f => sigFlt f [0] false 1
  | .fcospi f => sigFlt f [0] false 1
  | .frnd f => sigFlt f [0, 1, 2] true 1
  | .fldexp f => sigFlt f [0] true 2
  | .fcvt f => sigFcvt f
  | .fpack f => sigFpack f
  | .funpack f => sigFunpack f
  | .fbscale f => sigFbscale f
  | .fdot2 f => sigFlt f [1, 2] true 3
  | .fclass f => sigFlt f [0, 1, 2] false 1
  | .ld f => sigLd f
  | .st f => sigSt f
  | .lds f => sigLds f
  | .sts f => sigSts f
  | .ldb f => sigLdb f
  | .stb f => sigStb f
  | .pref f => sigPref f
  | .acopy f => sigAcopy f
  | .fence f => sigFence f
  | .cinv f => sigCache f
  | .cwb f => sigCache f
  | .atom f => sigAtom f
  | .red f => sigAtomRed f
  | .cas f => sigCas f
  | .txbegin f => sigTxbegin f
  | .txend f => sigTxPlain f
  | .txabort f => sigTxabort f
  | .txstat f => sigTxstat f
  | .txserial f => sigTxPlain f
  | .bankmode f => sigBankmode f
  | .cvset f => sigCvset f
  | .bmac f => sigBmac f
  | .brdacc f => sigBrdacc f
  | .bwracc f => sigBwracc f
  | .baccz f => sigBaccz f
  | .bfill f => sigBfill f (s.fillFmt w f)
  | .bhad f => sigBhad f
  | .oprdy f => sigOprdy f
  | .xkick f => sigXkick f
  | .merge f => sigEngine f
  | .unmerge f => sigEngine f
  | .maprel f => sigMaprel f
  | .nmred f => sigEngine f
  | .nmscan f => sigEngine f
  | .progidxWrite f => sigCwr f
  | .dcCounterWrite f => sigCwr f
  | .btdWrite f => sigCwr f
  | .cvcfgWrite f => sigCwr f
  | .mapspillWrite f => sigCwr f
  | .xringWrite f => sigCwr f
  | .txlogWrite f => sigCwr f
  | .txretryWrite f => sigCwr f
  | _ => {}

end Sys2Proof.Machine
end

