-- ==== Sys2Proof/Machine/Fetch.lean ====
section
/-! DEFINITION. Clauses: fetch and its checks, the dictionary, packed slots; the waits of a wave; the issue choice of a
quadrant (R34, R35, R223 to R230, R423). -/

namespace Sys2Proof.Machine

/-! ## The dictionary (R227, R228) -/

/-- The dictionary of a kernel as the core reads it, or the address and cause of a fault: bad where the kernel's head is
not as R228 asks, or lies below address 0. -/
def State.readDict (s : State) (ctx code : Nat) : Except (Nat × Nat) (Bool × List Dword) :=
  if code < 16 then .ok (true, [])
  else
    match s.readVa ctx (code - 16) 16 .fetch with
    | .error e => .error e
    | .ok h =>
      let n := leAt h 8 2
      if leAt h 10 6 ≠ 0 ∨ 1024 < n ∨ leAt h 0 8 % 8 ≠ 0 then .ok (true, [])
      else if n = 0 then .ok (false, [])
      else
        match s.readVa ctx (leAt h 0 8) (8 * n) .fetch with
        | .error e => .error e
        | .ok b => .ok (false, (List.range n).map fun i => BitVec.ofNat 64 (leAt b (8 * i) 8))

/-- A launch's dictionary in a place of the core: the place's number and the state with it loaded. -/
def State.loadDict (s : State) (core : Nat) (l : Launch) : Except (Nat × Nat) (Nat × State) :=
  match s.dictPlace core l with
  | none => .ok (0, s)
  | some i =>
    let (t, s) := s.fresh
    if s.placeUsed core i then
      .ok (i, s.updCore core fun c => { c with dicts := c.dicts.modify i fun d => { d with used := t } })
    else
      match s.readDict l.ctx l.code with
      | .error e => .error e
      | .ok (bad, ws) =>
        let d : DictPlace := ⟨kernelHead l.code, l.ctx, bad, ws, t⟩
        .ok (i, s.updCore core fun c => { c with dicts := if i < c.dicts.length then putAt c.dicts i d else c.dicts ++ [d] })

/-- The dictionary of a wave's unit: bad, and its entries. -/
def State.dictOf (s : State) (w : Nat) : Bool × List Dword :=
  if (s.wx w).handler.isSome then (true, [])
  else match (s.unitOf w).bind (·.dict) with
  | some i => match (s.core (coreOf w)).dicts[i]? with | some d => (d.bad, d.words) | none => (true, [])
  | none => (true, [])

/-! ## The words of a clause (R224, R225, R229, R230, Table 21.1) -/

def wordOp (x : Dword) : Nat := fieldN x 0 10

/-- The control transfers (R225). -/
def isTransfer (op : Nat) : Bool := (0x080 ≤ op && op ≤ 0x086) || op = 0x283

/-- A packable opcode (R230). -/
def packable (op : Nat) : Bool :=
  (op / 128 = 0 || op / 128 = 2 || op / 128 = 3) && !([0x026, 0x027, 0x028, 0x029, 0x02A, 0x02B].contains op)

def hdrSlots (h : Dword) : Nat := fieldN h 0 4 + 1
def hdrPacked (h : Dword) (i : Nat) : Bool := h.getLsbD (4 + i)
def hdrWaits (h : Dword) : List (Nat × Nat) := ((List.range 6).filter fun n => h.getLsbD (23 + n)).map fun n => (n, 0)

/-- Rows 1 and 2. -/
def hdrBad (h : Dword) : Bool := fieldN h 42 22 ≠ 0 || fieldN h 4 16 / 2 ^ hdrSlots h ≠ 0

/-- The codes of a packed slot that are no fillers: code index, INDEX, VOFF. -/
def slotCodes (x : Dword) : List (Nat × Nat × Nat) :=
  ((List.range 4).map fun i => (i, fieldN x (16 * i) 10, fieldN x (16 * i + 10) 6)).filter fun p =>
    !(p.2.1 = 1023 && p.2.2 = 63)

/-- One slot: its instructions, or the trap and the code index it names. -/
def slotInstrs (bad : Bool) (dict : List Dword) (i n : Nat) (packed : Bool) (x : Dword) : Except (Nat × Nat) (List SlotWord) :=
  if !packed then
    if isTransfer (wordOp x) && i + 1 ≠ n then .error (0x05, 0) else .ok [⟨i, 0, x, false⟩]
  else
    let cs := slotCodes x
    let at_ (k : Nat) : Option Dword := dict[k]?
    if cs.any fun c => match at_ c.2.1 with | some y => isTransfer (wordOp y) | none => false then .error (0x05, 0)
    else if cs = [] then .error (0x05, 0)
    else if bad then .error (0x0F, 0)
    else
      cs.foldl (fun acc c =>
        match acc with
        | .error e => .error e
        | .ok l =>
          match at_ c.2.1 with
          | none => .error (0x0F, c.1)
          | some y => if packable (wordOp y) then .ok (l ++ [⟨i, c.1, applyVoff c.2.2 y, true⟩]) else .error (0x05, c.1)) (.ok [])

/-- The instructions of a clause, or the trap with its slot and code index. -/
def clauseInstrs (bad : Bool) (dict : List Dword) (h : Dword) (slots : List Dword) : Except (Nat × Nat × Nat) (List SlotWord) :=
  if hdrBad h then .error (0x05, 0, 0)
  else
    ((List.range slots.length).zip slots).foldl (fun acc p =>
      match acc with
      | .error e => .error e
      | .ok l =>
        match slotInstrs bad dict p.1 slots.length (hdrPacked h p.1) p.2 with
        | .error e => .error (e.1, p.1, e.2)
        | .ok l' => .ok (l ++ l')) (.ok [])

/-! ## CLAUSE_FETCH (R226, R423) -/

/-- A piece of a fetch: bytes and where they lie, a walk or a home to wait for, or a fault. -/
inductive Fetched where
  | ok (b : List Byte) (ps : List Phys)
  | walk (va : Nat)
  | wait (x : Wait)
  | fault (va cause id : Nat)

/-- Instruction bytes, page by page, from their homes (R16, R388). -/
def State.fetchBytes (s : State) (w va n : Nat) : Fetched :=
  let one (va n : Nat) : Fetched :=
    if 2 ^ 56 < va + n then .fault va 1 s.nextId
    else match s.xlate w va n .fetch with
      | .walk => .walk va
      | .fault c id => .fault va c id
      | .ok p =>
        match (linesIn p.loc n).find? s.homeStops with
        | some l => .wait (.scrub (homeSlice l.ra / 2) (lineQuadrant l.ra))
        | none => .ok (s.readLoc p.loc p.mxf n) [p]
  let n1 := min n (65536 - va % 65536)
  match one va n1 with
  | .ok b ps =>
    if n1 = n then .ok b ps
    else match one (va + n1) (n - n1) with
      | .ok b' ps' => .ok (b ++ b') (ps ++ ps')
      | x => x
  | x => x

/-- Every lane of the entry faults at the clause (R400), with KIND 3. -/
def State.fetchFault (s : State) (w : Nat) (e : Entry) (va cause id : Nat) : State :=
  let f : LFault := ⟨lowestLane e.mask, va, cause, id, 3⟩
  let new := e.mark ≤ id
  let s := if new then s.postGroup w [f] e.pc.toNat else s
  if s.idempUnit w then s.requeue (s.wave w).uid [va / 65536]
  else
    let id := s.nextId
    (s.fresh.2.updIssuing w fun e => { e with stat := .fault, mark := if new then id else e.mark, asked := none }).freeSlot w |>.markFault w

/-- The entry begins its clause: the other entries' demotion ends and they stand in order (R32, R33), and the watchdog starts
again (R405). -/
def State.beginClause (s : State) (w : Nat) (h : Dword) (todo : List SlotWord) : State :=
  let left (e : Entry) : List SlotWord := todo.filter fun x => e.slot < x.slot || (e.slot = x.slot && e.code ≤ x.code)
  let s := s.updWave w fun x =>
    match x.issuing with
    | none => x
    | some e =>
      let others := sortBy Entry.before ((setIssuing x.frontier none).map fun y => { y with demoted := false })
      let mine := { e with hdr := h, prio := bitsOf h.toNat 29 12, fetched := true, todo := left e, mark := 0, asked := none }
      { x with frontier := mine :: others }
  s.updWx w fun y => { y with lastIssue := s.time }

/-- CLAUSE_FETCH (R423): the clause of the current wave's issuing entry. -/
def execClauseFetch (s : State) : Out :=
  let w := s.cur
  match (s.wave w).issuing with
  | none => .next s
  | some e =>
    if e.fetched then .next s
    else
      let core := coreOf w
      let ctx := s.ctxOf w
      let stop (s : State) (x : Fetched) (k : List Byte → State → State) : State :=
        match x with
        | .ok b ps => k b (ps.foldl State.countMig s)
        | .wait x => s.block w x
        | .walk va => (s.walkFor core ctx va).block w (.walk (s.ctx ctx).asid (va / 65536))
        | .fault va c id => s.fetchFault w e va c id
      .next <| stop s (s.fetchBytes w e.pc.toNat 8) fun hb s =>
        let h : Dword := BitVec.ofNat 64 (ofBytes hb)
        let trap (code slot idx : Nat) : State :=
          ((s.updIssuing w fun e => { e with hdr := h, slot := slot, code := idx }).raiseAll w [(e.mask, code, 0)]).settle w
            |>.freeSlot w
        if hdrBad h then trap 0x05 0 0
        else
          stop s (s.fetchBytes w (e.pc.toNat + 8) (8 * hdrSlots h)) fun b s =>
            let slots := (List.range (hdrSlots h)).map fun i => (BitVec.ofNat 64 (leAt b (8 * i) 8) : Dword)
            let (bad, dict) := s.dictOf w
            match clauseInstrs bad dict h slots with
            | .error (code, slot, idx) => trap code slot idx
            | .ok todo =>
              let waits := if e.slot = 0 && e.code = 0 then hdrWaits h else []
              if !((s.wave w).counted waits) then s.block w (.counters waits)
              else
                let s := ((s.observe w waits).beginClause w h todo).resumeCheck w
                match (s.wave w).issuing with
                | some e => if e.todo = [] then ((s.endClause w [(allLanes, fallThrough e.pc h)] 0 false).settle w).syncUp w else s
                | none => s

/-! ## Packed slots (R230) -/

/-- The guard of an instruction word, over the lanes of the entry. -/
def Wave.guardOf (x : Wave) (op : Nat) (word : Dword) : LaneMask :=
  let g : BitVec 3 := word.extractLsb' 10 3
  if op / 128 = 0 || (op / 128 = 1 && op ≠ 0x081) then x.guardQ g (word.getLsbD 13) else x.guardP g (word.getLsbD 13)

/-- Registers that a word awaits, under lanes, in a packed slot or a full one; none where it fails its checks of decode. -/
def State.wordAwaits (s : State) (w : Nat) (packed : Bool) (word : Dword) (m : LaneMask) : List (Nat × LaneMask) × List Nat :=
  let g := s.sigOf w (decode word)
  if (g.trap (s.wave w) (s.wx w).handler.isSome).isSome then ([], []) else if packed then g.names m else g.awaits m

/-- What a packed slot at its first code waits for: every register that its instructions read or write. -/
def State.packedWait (s : State) (w : Nat) : Option Wait :=
  match (s.wave w).issuing with
  | none => none
  | some e =>
    match e.todo with
    | [] => none
    | k :: _ =>
      let mine := e.todo.filter fun x => x.slot = k.slot
      if !k.packed || e.stage ≠ 0 || mine.any (fun x => x.code < k.code) then none
      else
        let qs := mine.map fun x => s.wordAwaits w true x.word e.mask
        let vs := qs.flatMap (·.1)
        let ss := qs.flatMap (·.2)
        if (s.wave w).allFull vs ss then none else some (.full vs ss)

/-! ## Waits (R34) -/

/-- Whether what a wave waits for has come. -/
def State.waitOver (s : State) (w : Nat) (x : Wait) : Bool :=
  let wv := s.wave w
  match x with
  | .full vs ss => wv.allFull vs ss
  | .counters l => wv.counted l
  | .barrier key phase => phase < s.barPhase w key
  | .time t => t ≤ s.time
  | .requests n => s.outstanding (coreOf w) + n ≤ 512
  | .grow => !(((s.core (coreOf w)).quad (quadOf w)).grows.contains w)
  | .applied core mark => s.applied core mark
  | .room n => (s.core (coreOf w)).room n && !(s.epochHeld (dieOf w))
  | .banks m seq => !(s.banksBusy wv.uid m seq)
  | .walk asid page =>
    let d := s.die (dieOf w)
    s.knows w page ≠ .miss || (!(d.walks.any fun k => k.asid = asid && k.page = page) && d.walks.length < 32)
  | .fault => !(s.faultHeld w)
  | .round cv => ((s.unitOf w).map fun u => decide ((u.cv cv).rounds = [])).getD true
  | .cvFree => s.cvBound (coreOf w) < 16
  | .rings => s.ringsIdle (s.ctxOf w)
  | .lines ls => !(s.homes.locks.any fun k => ls.contains k.line)
  | .scrub d q => (Tbl.find (s.die d).scrubs q).isNone && (s.die d).clk.relock.isNone
  | .alias24 line => !(s.alopPending (coreOf w) line)
  | .atoms l => !(s.atomPending (coreOf w) l)
  | .returns m => !(s.loadsOut w m)
  | .stores => !(s.storesHeld w)
  | .peer chip ra => !(s.wayStops ⟨1, chip, 0, ra⟩)
  | .remote d mark => s.remoteDone d mark
  | .left ctx mark => s.leftDone ctx mark
  | .hadamard idx => s.hadOver w idx
  | .gather cv =>
    match s.unitOf w with
    | none => true
    | some u => !((u.cv cv).rounds.any fun r => !r.issued && r.resumed && r.ops.any fun o => o.wid = w)

/-! ## The issue choice (R34) -/

/-- The clause header and the first instruction of an entry, as far as they can be read. -/
def State.peek (s : State) (w : Nat) (e : Entry) : Option (Dword × List SlotWord) :=
  if e.fetched then some (e.hdr, e.todo)
  else
    let ctx := s.ctxOf w
    match s.deviceRead ctx e.pc.toNat 8 .fetch with
    | .error _ => none
    | .ok hb =>
      let h : Dword := BitVec.ofNat 64 (ofBytes hb)
      match s.readVa ctx (e.pc.toNat + 8) (8 * hdrSlots h) .fetch with
      | .error _ => none
      | .ok b =>
        let slots := (List.range (hdrSlots h)).map fun i => (BitVec.ofNat 64 (leAt b (8 * i) 8) : Dword)
        let (bad, dict) := s.dictOf w
        match clauseInstrs bad dict h slots with
        | .error _ => none
        | .ok l => some (h, l.filter fun x => e.slot < x.slot || (e.slot = x.slot && e.code ≤ x.code))

/-- The wait mask is satisfied and the first instruction has no blocked operand. -/
def State.headReady (s : State) (w : Nat) : Bool :=
  match (s.wave w).issuing with
  | none => false
  | some e =>
    match s.peek w e with
    | none => true
    | some (h, todo) =>
      (e.fetched || !(e.slot = 0 && e.code = 0) || (s.wave w).counted (hdrWaits h)) &&
        match todo with
        | [] => true
        | k :: t =>
          let mine := k :: (if k.packed then t.filter fun x => x.slot = k.slot else [])
          mine.all fun x =>
            let m := if k.packed then e.mask else e.mask &&& (s.wave w).guardOf (wordOp x.word) x.word
            let (vs, ss) := s.wordAwaits w k.packed x.word m
            m = 0 || e.stage ≠ 0 || e.left.isSome || (s.wave w).allFull vs ss

/-- A packed slot has begun: its instructions issue with no wave switch (R230). -/
def inPacked (e : Entry) : Bool :=
  match e.todo with
  | k :: _ => k.packed && e.code ≠ 0 && e.fetched
  | [] => false

/-- The wave may issue at all: resident, not stopped by a pre-emption (R45), its core and die at work. -/
def State.mayIssue (s : State) (w : Nat) : Bool :=
  let x := s.wave w
  let y := s.wx w
  let c := s.core (coreOf w)
  let trapped := x.frontier.any Entry.isTrapped
  let stopped := (y.preempt || y.halt) && y.handler.isNone && !trapped && !((x.issuing.map inPacked).getD false)
  x.live && x.issuing.isSome && !y.parked && !stopped && c.scrub.isNone && !c.frozen && !c.retired
    && (s.die (dieOf w)).clk.relock.isNone
    && ((s.unit x.uid).map fun u => decide (u.stat = .resident)).getD false

/-- A ready wave (R34). -/
def State.ready (s : State) (w : Nat) : Bool :=
  s.mayIssue w && (match (s.wx w).wait with | some x => s.waitOver w x | none => true) && s.headReady w

/-- Effective priority: that of the card, or 4 for a wave passed over at 48 choices. -/
def State.effPrio (s : State) (w : Nat) : Nat :=
  if 48 ≤ (s.wx w).passed then 4 else ((s.unitOf w).map (·.crec.prio)).getD 0

/-- The wave slots of a quadrant of the module. -/
def quadWaves (quad : Nat) : List Nat := (List.range 24).map fun k => quad * 24 + k

/-- ISSUE_CHOICE (R34, R35, R44): the ready waves of the highest effective priority, round-robin after the last chosen at it. -/
def execIssueChoice (quad : Nat) (s : State) : Out :=
  let core := quad / 4
  let q := (s.core core).quad (quad % 4)
  if q.holder.isSome then .next s
  else
    let ready := (quadWaves quad).filter s.ready
    match ready with
    | [] => .next s
    | w0 :: rest =>
      let top := rest.foldl (fun p w => max p (s.effPrio w)) (s.effPrio w0)
      let at_ := ready.filter fun w => s.effPrio w = top
      let last := Tbl.find q.last top
      let chosen := match last with
        | some k => (at_.find? fun w => k < slotOf w).getD (at_.headD w0)
        | none => at_.headD w0
      let s := ready.foldl (fun s w => s.updWx w fun y => { y with passed := if w = chosen then 0 else y.passed + 1 }) s
      let s := (quadWaves quad).foldl (fun s w =>
        if ready.contains w || (s.wx w).passed = 0 then s else s.updWx w fun y => { y with passed := if 48 ≤ y.passed then y.passed else 0 }) s
      let s := s.updWx chosen fun y => { y with wait := none }
      let s := s.updQuad core (quad % 4) fun q => { q with holder := some chosen, last := Tbl.set q.last top (slotOf chosen) }
      .next { s with cur := chosen }

end Sys2Proof.Machine
end

