-- ==== Sys2Proof/Machine/Merge.lean ====
section
/-! DEFINITION. The merge engine: descriptors, matching, averaging, maps, MERGE, UNMERGE and MAPREL performed (R170 to
R180). -/

namespace Sys2Proof.Machine

/-! ## Matching (R174) -/

/-- The row of keys of a token. -/
def keyRow (keys : List Byte) (d t : Nat) : List FVal :=
  (List.range d).map fun k => bf16Ty.decode (leAt keys (2 * (t * d + k)) 2)

/-- score(a, b): the exact sum of the products, rounded once. -/
def mergeScore (a b : List FVal) : Nat := f32Ty.encode 0 (FVal.sum 0 ((a.zip b).map fun p => p.1.mul p.2))

/-- The order of scores: by value, NaN below every number. -/
def scoreKey (x : Nat) : Int :=
  match f32Ty.decode x with
  | .nan => -(2 ^ 300)
  | .inf neg => if neg then -(2 ^ 299) else 2 ^ 299
  | .fin _ _ _ => fixed149 x

/-- The best partner of a token among those listed, with its score's order; ties to the first. -/
def bestOf (key : List FVal) (bs : List (Nat × List FVal)) : Option (Nat × Int) :=
  bs.foldl (fun best p =>
    let k := scoreKey (mergeScore key p.2)
    match best with
    | none => some (p.1, k)
    | some (i, m) => if m < k then some (p.1, k) else some (i, m)) none

def protBit (prot : List Byte) (t : Nat) : Bool := bitOf (byteAt prot (t / 8)) (t % 8)

/-- The partition: A, then B. -/
def partA (halves : Bool) (n : Nat) : List Nat :=
  (List.range n).filter fun i => if halves then i < (n + 1) / 2 else i % 2 = 0
def partB (halves : Bool) (n : Nat) : List Nat :=
  (List.range n).filter fun i => !(if halves then i < (n + 1) / 2 else i % 2 = 0)

/-- The merged tokens with their receivers, in ascending index. -/
def mergeSet (halves : Bool) (n d rcnt : Nat) (keys prot : List Byte) : List (Nat × Nat) :=
  let ua := (partA halves n).filter fun t => !(protBit prot t)
  let ub := ((partB halves n).filter fun t => !(protBit prot t)).map fun t => (t, keyRow keys d t)
  let cand := ua.filterMap fun a => (bestOf (keyRow keys d a) ub).map fun r => (a, r.1, r.2)
  let top := (sortBy (fun (p q : Nat × Nat × Int) => q.2.2 < p.2.2) cand).take rcnt
  sortBy (fun (p q : Nat × Nat) => p.1 < q.1) (top.map fun p => (p.1, p.2.1))

/-! ## Averaging (R175) -/

def wordOf (l : List Byte) (i : Nat) : Nat := leAt l (4 * i) 4

/-- The size of an output token. -/
def mergedSize (size : Nat → Nat) (t : Nat) (ms : List Nat) : Nat := ms.foldl (fun x a => fAdd x (size a)) (size t)

/-- One element of an output token. -/
def mergedElem (size val : Nat → Nat) (t : Nat) (ms : List Nat) (total : Nat) : Nat :=
  if ms = [] then val t
  else f32Ty.div 0 (ms.foldl (fun x a => fAdd x (fMul (size a) (val a))) (fMul (size t) (val t))) total

/-- The output tokens in order (R176). -/
def mergeOrder (halves : Bool) (n : Nat) (merged : List (Nat × Nat)) : List Nat :=
  ((partA halves n).filter fun a => !(merged.any fun p => p.1 = a)) ++ partB halves n

/-- The local map (R177): the output row of every token. -/
def mergeMap (n : Nat) (order : List Nat) (merged : List (Nat × Nat)) : List Nat :=
  (List.range n).map fun i =>
    let t := match merged.find? fun p => p.1 = i with | some p => p.2 | none => i
    (posOf (fun x => x = t) order).getD 0

/-- The output region: rows, sizes and biases. -/
def mergeOutput (w : Nat) (vals : List Byte) (size : Nat → Nat) (order : List Nat) (merged : List (Nat × Nat)) : List Byte :=
  let of (t : Nat) : List Nat := (merged.filter fun p => p.2 = t).map (·.1)
  let sizes := order.map fun t => mergedSize size t (of t)
  let rows := (order.zip sizes).flatMap fun p =>
    (List.range w).flatMap fun e =>
      toBytes 4 (mergedElem size (fun t => wordOf vals (t * w + e)) p.1 (of p.1) p.2)
  rows ++ sizes.flatMap (toBytes 4) ++ sizes.flatMap fun x => toBytes 4 (flog2 x)

/-! ## The loft (R178) -/

def mapBlocks (m : LoftMap) : Nat := if m.lost ∨ m.spilled then 0 else ceilDiv m.n0 128
def Die.loftFree (d : Die) : Nat := 16384 - (d.loft.map mapBlocks).foldl (· + ·) 0

/-- The lowest free map index. -/
def Die.mapIndex (d : Die) : Option Nat := (List.range 512).find? fun i => !(d.loft.any fun m => m.handle % 512 = i)

/-- The map that a handle names for a context on a die: its die field is that die's. -/
def State.heldMap (s : State) (die ctx h : Nat) : Option LoftMap :=
  if h / 512 = die then (s.die die).loft.find? fun m => m.handle = h && m.ctx = ctx else none

/-! ## Status (Table 8.3) -/

def mergeWord (handle code count : Nat) : List Byte := toBytes 2 handle ++ toBytes 1 code ++ [0#8] ++ toBytes 4 count
/-- Status bytes 0 to 3, for the status register. -/
def mergeVal (handle code : Nat) : Nat := handle + 65536 * code

/-- A command that writes its status word only. -/
def State.mergeFail (s : State) (c : EngCmd) (desc : List Byte) (code : Nat) : EngRes :=
  let h := if c.kind = 0 then 0xFFFF else leAt desc 10 2
  s.cmdStatus c (leAt desc 56 8) (mergeWord h code 0) code (mergeVal h code)

/-- A region that is misaligned, or does not lie in the global window: the manual names no status for the latter, which counts as a
field outside its range (DESIGN CHOICE, log entry 55). -/
def badRegion (va n al : Nat) : Bool := va % al ≠ 0 || 2 ^ 56 ≤ va || 2 ^ 56 < va + n

/-! ## MERGE (R171, R173 to R177) -/

def mergeBad (b : List Byte) : Bool :=
  let n := leAt b 0 2
  let d := leAt b 2 2
  let w := leAt b 4 2
  n < 2 || 16384 < n || d < 1 || 256 < d || w < 1 || 8192 < w || (n + 1) / 2 < leAt b 6 2 || 1 < byteAt b 8 || byteAt b 9 ≠ 0
    || !(zeroAt b 13 3) || badRegion (leAt b 16 8) (2 * n * d) 2 || badRegion (leAt b 24 8) (4 * n * w) 4
    || badRegion (leAt b 32 8) (4 * n) 4 || badRegion (leAt b 40 8) (ceilDiv n 8) 8 || badRegion (leAt b 48 8) (4 * (n - leAt b 6 2) * (w + 2)) 4
    || badRegion (leAt b 56 8) 8 8

/-- The status of the first failing check after the fields, or the parent map. -/
def State.parentOf (s : State) (c : EngCmd) (b : List Byte) : Except Nat (Option LoftMap) :=
  let h := leAt b 10 2
  if h = 0xFFFF then .ok none
  else
    match s.heldMap c.die c.ctx h with
    | none => .error 4
    | some m => if m.lost then .error 1 else if m.nout ≠ leAt b 0 2 then .error 4 else .ok (some m)

/-- The operands of a MERGE: keys, values, sizes, protection bits. -/
def State.mergeReads (s : State) (c : EngCmd) (b : List Byte) : EngM (List Byte × List Byte × List Byte × List Byte) :=
  let n := leAt b 0 2
  let rd (s : State) (va k : Nat) : EngM (List Byte) := if va = 0 then .ok ([], s) else s.engRead c.ctx va k 6
  EngM.bind (s.engRead c.ctx (leAt b 16 8) (2 * n * leAt b 2 2) 6) fun keys s =>
  EngM.bind (s.engRead c.ctx (leAt b 24 8) (4 * n * leAt b 4 2) 6) fun vals s =>
  EngM.bind (rd s (leAt b 32 8) (4 * n)) fun sizes s =>
  EngM.bind (rd s (leAt b 40 8) (ceilDiv n 8)) fun prot s => .ok ((keys, vals, sizes, prot), s)

/-- MERGE (R173 to R178); a map whose job has been cancelled meanwhile is not held. -/
def State.mergePerform (s : State) (c : EngCmd) : EngRes :=
  match s.cmdDesc c with
  | .error e => .stop e.1 e.2
  | .ok (b, s) =>
    if mergeBad b then s.mergeFail c b 3
    else
      match s.parentOf c b with
      | .error code => s.mergeFail c b code
      | .ok par =>
        let n := leAt b 0 2
        let n0 := match par with | some m => m.n0 | none => n
        let d := s.die c.die
        match d.mapIndex with
        | none => s.mergeFail c b 2
        | some i =>
          if d.loftFree < ceilDiv n0 128 then s.mergeFail c b 2
          else
            match s.mergeReads c b with
            | .error e => .stop e.1 e.2
            | .ok ((keys, vals, sizes, prot), s) =>
              let halves := byteAt b 8 = 1
              let size (t : Nat) : Nat := if leAt b 32 8 = 0 then fOne else wordOf sizes t
              let merged := mergeSet halves n (leAt b 2 2) (leAt b 6 2) keys prot
              let order := mergeOrder halves n merged
              let out := mergeOutput (leAt b 4 2) vals size order merged
              let loc := mergeMap n order merged
              let ents := match par with | some m => m.entries.map fun j => loc.getD j 0 | none => loc
              let h := c.die * 512 + i
              let m : LoftMap := ⟨h, c.ctx, c.job, n0, order.length, ents, false, false⟩
              if badRegion (leAt b 48 8) out.length 4 then s.mergeFail c b 3
              else
              let gone := s.cancelIn c.ctx 4 c.job
              match s.cmdWrite c [(leAt b 48 8, out, 4), (leAt b 56 8, mergeWord h 0 order.length, 8)] 0 (mergeVal h 0) with
              | .stop e s => .stop e s
              | .done code val s => .done code val (if gone then s else s.updDie c.die fun d => { d with loft := d.loft ++ [m] })

/-! ## UNMERGE (R172, R179) -/

/-- The checks of an UNMERGE descriptor that need no map; a reserved byte that is not zero is BADDESC, as R173 and Table 8.3 say,
where R172 points to R2 (DEDUCED, log entry 55). -/
def unmergeBad (b : List Byte) : Bool :=
  let w := leAt b 4 2
  !(zeroAt b 0 4) || w < 1 || 8192 < w || !(zeroAt b 6 4) || !(zeroAt b 13 3) || badRegion (leAt b 16 8) 0 4
    || badRegion (leAt b 24 8) 0 4 || !(zeroAt b 32 24) || badRegion (leAt b 56 8) 8 8

def State.unmergePerform (s : State) (c : EngCmd) : EngRes :=
  match s.cmdDesc c with
  | .error e => .stop e.1 e.2
  | .ok (b, s) =>
    if unmergeBad b then s.mergeFail c b 3
    else
      let h := leAt b 10 2
      match s.heldMap c.die c.ctx h with
      | none => s.mergeFail c b 4
      | some m =>
        if m.lost then s.mergeFail c b 1
        else
          let w := 4 * leAt b 4 2
          if badRegion (leAt b 16 8) (w * m.nout) 4 || badRegion (leAt b 24 8) (w * m.n0) 4 then s.mergeFail c b 3
          else
          match s.engRead c.ctx (leAt b 16 8) (w * m.nout) 6 with
          | .error e => .stop e.1 e.2
          | .ok (rows, s) =>
            let out := m.entries.flatMap fun r => (rows.drop (w * r)).take w
            s.cmdWrite c [(leAt b 24 8, out, 4), (leAt b 56 8, mergeWord h 0 m.n0, 8)] 0 (mergeVal h 0)

/-! ## MAPREL (R180) -/

def State.maprelStatus (s : State) (c : EngCmd) (code : Nat) : EngRes :=
  s.cmdStatus c c.status (mergeWord c.handle code 0) code (mergeVal c.handle code)

def State.maprelPerform (s : State) (c : EngCmd) : EngRes :=
  match s.heldMap c.die c.ctx c.handle with
  | none => s.maprelStatus c 4
  | some _ =>
    match s.maprelStatus c 0 with
    | .stop e s => .stop e s
    | .done code val s =>
      .done code val (s.updDie c.die fun d => { d with loft := d.loft.filter fun m => m.handle ≠ c.handle })

/-! ## Turns of the engine (R170) -/

/-- The status of a command that fails (R418): the descriptor as far as it has been read. -/
def State.mergeBroken (s : State) (c : EngCmd) : EngRes :=
  if c.kind = 2 then s.maprelStatus c 5
  else
    match s.cmdDesc c with
    | .error _ => .done 5 (mergeVal 0xFFFF 5) s
    | .ok (b, s) =>
      match s.mergeFail c b 5 with
      | .stop _ s => .done 5 (mergeVal (if c.kind = 0 then 0xFFFF else leAt b 10 2) 5) s
      | r => r

/-- A turn of the command at the head of a die's merge engine, where it is of the kind given. -/
def State.mergeTurn (s : State) (die kind : Nat) : State :=
  match (s.die die).merge with
  | [] => s
  | c :: _ =>
    if c.kind ≠ kind then s
    else
      let perform (s : State) : EngRes :=
        match kind with | 0 => s.mergePerform c | 1 => s.unmergePerform c | _ => s.maprelPerform c
      s.cmdTurn c perform fun s => s.mergeBroken c

/-- MERGE_COMPLETE (R173). -/
def execMergeComplete (die : Nat) (s : State) : Out := .next (s.mergeTurn die 0)
/-- UNMERGE_COMPLETE (R179). -/
def execUnmergeComplete (die : Nat) (s : State) : Out := .next (s.mergeTurn die 1)
/-- MAPREL_COMPLETE (R180). -/
def execMaprelComplete (die : Nat) (s : State) : Out := .next (s.mergeTurn die 2)

end Sys2Proof.Machine
end

