-- ==== Sys2Proof/Machine/NearMem.lean ====
section
/-! DEFINITION. The reduction trees and the scan engines of the base dies (R183 to R193). -/

namespace Sys2Proof.Machine

/-! ## Source sectors (R185) -/

/-- Bytes of one page read from DRAM, after the home slices have written their dirty bytes of the lines back. -/
def State.nmPart (s : State) (ctx base va n : Nat) : EngM (List Byte) :=
  match s.engXl ctx va n .load with
  | .error c => .error (.fault va c 6 (va - base), s)
  | .ok p =>
    if p.loc.tgt ≠ 0 ∨ (p.loc.alop ≠ 0 ∧ p.loc.alop ≠ 5) ∨ hbmEnd ≤ p.loc.ra then .error (.fault va 6 6 (va - base), s)
    else if s.engHold p n then .error (.hold, s)
    else
      let s := s.meetAll p.loc n
      if s.locPoisoned p.loc p.mxf n then .error (.poison va, s)
      else
        let at_ (a : Nat) : Nat := if p.loc.alop = 5 then interleavedOf a else a
        let s := (linesIn p.loc n).foldl (fun s l => s.l2Clean (at_ l.ra / 128)) s
        .ok ((List.range n).map fun i => Mem.read s.homes.dram (at_ (p.loc.ra + i)), s)

/-- Bytes of a range, page after page, `base` the start of the operand region. -/
def State.nmRead (s : State) (ctx base va n : Nat) : EngM (List Byte) :=
  (pageParts va n).foldl (fun acc p =>
    EngM.bind acc fun b s => EngM.bind (s.nmPart ctx base p.1 p.2) fun b' s => .ok (b ++ b', s)) (.ok ([], s))

/-! ## Nodes (R186 to R189) -/

/-- A node's exact state. -/
structure Node where
  acc : Int := 0
  m : Int := -2147483648
  nan : Bool := false
  pinf : Bool := false
  ninf : Bool := false
  negz : Bool := false
  empty : Bool := false
  deriving DecidableEq, Repr

/-- The ceiling of a finite f32. -/
def ceilF (x : Nat) : Int := roundInt 3 (fixed149 x < 0) (fixed149 x).natAbs (-149)

/-- The node of one term of 32 bits. -/
def termNode (op x : Nat) : Node :=
  match op with
  | 0 =>
    match f32Ty.decode x with
    | .nan => { nan := true }
    | .inf neg => { pinf := !neg, ninf := neg }
    | .fin _ _ _ => { acc := fixed149 x, negz := x = 0x80000000 }
  | 1 => { acc := sext 32 x }
  | 2 => { acc := (if f32Ty.isNan x then fNaN else x : Nat) }
  | 3 => { acc := sext 32 x }
  | _ =>
    match f32Ty.decode (flush x) with
    | .nan => { nan := true, empty := true }
    | .inf neg => { pinf := !neg, empty := true }
    | .fin _ _ _ =>
      let f := fixed149 (flush x)
      if 128 * 2 ^ 149 ≤ f then { pinf := true, empty := true }
      else if f < -160 * 2 ^ 149 then { empty := true }
      else
        let (k, y) := exp2Parts (flush x)
        match f32Ty.decode y with
        | .fin neg m e => { acc := signedAt (-183) neg m (e + k), m := ceilF x }
        | _ => { empty := true }

/-- The node that a wide record holds (Table 9.3). -/
def wideNode (op : Nat) (b : List Byte) : Node :=
  let acc : Int := match op with
    | 0 => sext 320 (leAt b 0 40)
    | 1 => sext 64 (leAt b 0 8)
    | 2 => (leAt b 0 4 : Nat)
    | 3 => sext 32 (leAt b 0 4)
    | _ => (leAt b 0 44 : Nat)
  let f := byteAt b 48
  { acc := acc, m := sext 32 (leAt b 44 4), nan := bitOf f 0, pinf := bitOf f 1, ninf := bitOf f 2, negz := bitOf f 3,
    empty := bitOf f 4 }

/-- Two nodes combined. -/
def Node.join (op : Nat) (a b : Node) : Node :=
  let acc : Int := match op with
    | 2 => (f32Ty.totalMinmax true a.acc.toNat b.acc.toNat : Nat)
    | 3 => max a.acc b.acc
    | _ => a.acc + b.acc
  let m := if a.empty then b.m else if b.empty then a.m else max a.m b.m
  { acc := acc, m := m, nan := a.nan || b.nan, pinf := a.pinf || b.pinf, ninf := a.ninf || b.ninf,
    negz := a.negz && b.negz, empty := a.empty && b.empty }

def joinAll (op : Nat) (l : List Node) : Node :=
  match l with
  | [] => {}
  | n :: t => t.foldl (Node.join op) n

/-- A wide record (Table 9.3). -/
def Node.wide (op : Nat) (n : Node) : List Byte :=
  let acc : List Byte := match op with
    | 0 => toBytes 40 (wrapN 320 n.acc)
    | 1 => toBytes 8 (wrapN 64 n.acc)
    | 2 => toBytes 4 n.acc.toNat
    | 3 => toBytes 4 (wrapN 32 n.acc)
    | _ => toBytes 44 (wrapN 352 n.acc)
  let m : Int := if op < 4 then 0 else if n.empty then -2147483648 else n.m
  padTo 44 acc ++ toBytes 4 (wrapN 32 m)
    ++ toBytes 1 (boolN n.nan + 2 * boolN n.pinf + 4 * boolN n.ninf + 8 * boolN n.negz + 16 * boolN (n.empty && op = 4))
    ++ List.replicate 15 0#8

/-- The pair that SEXP delivers; M is a free value beside a NaN, to which the manual gives none, the same for the same operands
(R152). -/
def Node.sexp (n : Node) (free : Nat) : Nat × Nat :=
  if n.nan then (free, fNaN)
  else if n.pinf then (128, fInf)
  else if n.empty then (0x80000000, 0)
  else (wrapN 32 n.m, f32Ty.round 0 false n.acc.natAbs (-183 - n.m))

/-- An output (Tables 9.2 and 9.3). -/
def Node.out (op : Nat) (wide : Bool) (free : Nat) (n : Node) : List Byte :=
  if wide then n.wide op
  else match op with
    | 0 =>
      toBytes 4 (if n.nan || (n.pinf && n.ninf) then fNaN else if n.pinf then fInf else if n.ninf then fNegInf
        else if n.acc = 0 then (if n.negz then 0x80000000 else 0) else f32Ty.round 0 (n.acc < 0) n.acc.natAbs (-149))
    | 1 => toBytes 8 (wrapN 64 n.acc)
    | 2 => toBytes 4 n.acc.toNat
    | 3 => toBytes 4 (wrapN 32 n.acc)
    | _ => toBytes 4 (n.sexp free).1 ++ toBytes 4 (n.sexp free).2

/-! ## Status (R190) -/

def nmWord (count code : Nat) : List Byte := toBytes 4 count ++ toBytes 1 code ++ List.replicate 3 0#8

/-- A command that writes its status word only. -/
def State.nmFail (s : State) (c : EngCmd) (desc : List Byte) (code : Nat) : EngRes :=
  s.cmdStatus c (leAt desc 40 8) (nmWord 0 code) code code

/-- The status of a command that fails (R418). -/
def State.nmBroken (s : State) (c : EngCmd) : EngRes :=
  match s.cmdDesc c with
  | .error _ => .done 5 5 s
  | .ok (b, s) =>
    match s.nmFail c b 5 with
    | .stop _ s => .done 5 5 s
    | r => r

/-- The fields that both descriptors share: ROOT, reserved bytes, STATUS. -/
def nmBad (c : EngCmd) (b : List Byte) : Bool :=
  (c.card.isNone && (byteAt b 2 < 84 || 95 < byteAt b 2)) || !(zeroAt b 12 4) || !(zeroAt b 48 16)
    || leAt b 40 8 % 8 ≠ 0 || 2 ^ 56 < leAt b 40 8 + 8

/-! ## NMRED (R184 to R190) -/

def nrOp (b : List Byte) : Nat := byteAt b 0
def nrByRow (b : List Byte) : Bool := bitOf (byteAt b 1) 0
def nrWideIn (b : List Byte) : Bool := bitOf (byteAt b 1) 1
def nrWideOut (b : List Byte) : Bool := bitOf (byteAt b 1) 2
def nrLen (b : List Byte) : Nat := leAt b 4 4
def nrRows (b : List Byte) : Nat := leAt b 8 4
def nrSize (b : List Byte) : Nat := if nrWideIn b then 64 else 4
def nrOutSize (b : List Byte) : Nat := if nrWideOut b then 64 else match nrOp b with | 1 => 8 | 4 => 8 | _ => 4
def nrOuts (b : List Byte) : Nat := if nrByRow b then nrRows b else nrLen b

def nmredBad (c : EngCmd) (b : List Byte) : Bool :=
  nmBad c b || 4 < nrOp b || 8 ≤ byteAt b 1 || nrLen b = 0 || nrRows b = 0 || 2 ^ 32 ≤ nrLen b * nrRows b
    || leAt b 16 8 % nrSize b ≠ 0 || leAt b 24 8 % nrSize b ≠ 0 || leAt b 32 8 % nrOutSize b ≠ 0
    || 2 ^ 56 < leAt b 16 8 + (nrRows b - 1) * leAt b 24 8 + nrLen b * nrSize b
    || 2 ^ 56 < leAt b 32 8 + nrOuts b * nrOutSize b

/-- The elements of each row. -/
def State.nmRows (s : State) (ctx : Nat) (b : List Byte) : EngM (List (List Nat)) :=
  let z := nrSize b
  let src := leAt b 16 8
  (List.range (nrRows b)).foldl (fun acc r =>
    EngM.bind acc fun rows s =>
    EngM.bind (s.nmRead ctx src (src + r * leAt b 24 8) (nrLen b * z)) fun row s =>
      .ok (rows ++ [(List.range (nrLen b)).map fun e => leAt row (z * e) z], s)) (.ok ([], s))

/-- The node of an element. -/
def nrNode (b : List Byte) (x : Nat) : Node := if nrWideIn b then wideNode (nrOp b) (toBytes 64 x) else termNode (nrOp b) x

def State.nmredPerform (s : State) (c : EngCmd) : EngRes :=
  match s.cmdDesc c with
  | .error e => .stop e.1 e.2
  | .ok (b, s) =>
    if nmredBad c b then s.nmFail c b 3
    else
      match s.nmRows c.ctx b with
      | .error e => .stop e.1 e.2
      | .ok (rows, s) =>
        let op := nrOp b
        let groups : List (List Nat) :=
          if nrByRow b then rows else (List.range (nrLen b)).map fun e => rows.map fun r => r.getD e 0
        let outs := groups.flatMap fun g =>
          (joinAll op (g.map (nrNode b))).out op (nrWideOut b) (loHalf (Config.freeOf g)).toNat
        s.cmdWrite c [(leAt b 32 8, outs, nrOutSize b), (leAt b 40 8, nmWord groups.length 0, 8)] 0 0

/-! ## NMSCAN (R191 to R193) -/

def nsPred (b : List Byte) : Nat := byteAt b 0
def nsType (b : List Byte) : Nat := byteAt b 1
def nsCount (b : List Byte) : Nat := leAt b 4 4
def nsCap (b : List Byte) : Nat := leAt b 8 4
def nsSize (b : List Byte) : Nat := if nsType b = 1 then 2 else 4

def nmscanBad (c : EngCmd) (b : List Byte) : Bool :=
  nmBad c b || 8 < nsPred b || 2 < nsType b || nsCount b = 0 || nsCap b = 0
    || (if nsPred b = 8 then 4096 else 2 ^ 24) < nsCap b || leAt b 16 8 % nsSize b ≠ 0 || leAt b 32 8 % 8 ≠ 0
    || 2 ^ 56 < leAt b 16 8 + nsCount b * nsSize b || 2 ^ 56 < leAt b 32 8 + 8 * min (nsCap b) (nsCount b)

/-- The order of two elements of a type: none where either is a NaN. -/
def scanCmp (ty a b : Nat) : Option Ordering :=
  match ty with
  | 0 => f32Ty.compare a b
  | 1 => bf16Ty.compare (a % 65536) (b % 65536)
  | _ => some (compare (sext 32 a) (sext 32 b))

/-- Predicates 0 to 7 (Table 9.5). -/
def scanHit (pred ty c0 c1 v : Nat) : Bool :=
  let o := scanCmp ty v c0
  match pred with
  | 0 => o = some .eq
  | 1 => o ≠ some .eq
  | 2 => o = some .lt
  | 3 => o = some .lt || o = some .eq
  | 4 => o = some .gt
  | 5 => o = some .gt || o = some .eq
  | 6 =>
    let p := scanCmp ty v c1
    (o = some .gt || o = some .eq) && (p = some .lt || p = some .eq)
  | _ => v &&& c0 ≠ 0

/-- The pairs written, the count, and the code. -/
def scanResult (b : List Byte) (vs : List (Nat × Nat)) : List (Nat × Nat) × Nat × Nat :=
  if nsPred b = 8 then
    let ok := vs.filter fun p => scanCmp (nsType b) p.2 p.2 ≠ none
    let top := (sortBy (fun p q => scanCmp (nsType b) p.2 q.2 = some .gt) ok).take (nsCap b)
    (top, top.length, 0)
  else
    let hits := vs.filter fun p => scanHit (nsPred b) (nsType b) (leAt b 24 4) (leAt b 28 4) p.2
    (hits.take (nsCap b), hits.length, if nsCap b < hits.length then 6 else 0)

def State.nmscanPerform (s : State) (c : EngCmd) : EngRes :=
  match s.cmdDesc c with
  | .error e => .stop e.1 e.2
  | .ok (b, s) =>
    if nmscanBad c b then s.nmFail c b 3
    else
      let z := nsSize b
      match s.nmRead c.ctx (leAt b 16 8) (leAt b 16 8) (nsCount b * z) with
      | .error e => .stop e.1 e.2
      | .ok (l, s) =>
        let (ps, count, code) := scanResult b ((List.range (nsCount b)).map fun i => (i, leAt l (z * i) z))
        let out := ps.flatMap fun p => toBytes 4 p.1 ++ toBytes 4 p.2
        s.cmdWrite c [(leAt b 32 8, out, 8), (leAt b 40 8, nmWord count code, 8)] code code

/-! ## Turns -/

def State.nmTurn (s : State) (k kind : Nat) (perform : State → EngCmd → EngRes) : State :=
  match s.queues.nmQ.find? fun c => c.id = k && c.kind = kind with
  | none => s
  | some c => s.cmdTurn c (fun s => perform s c) fun s => s.nmBroken c

/-- NMRED_COMPLETE (R190). -/
def execNmredComplete (k : Nat) (s : State) : Out := .next (s.nmTurn k 3 State.nmredPerform)
/-- NMSCAN_COMPLETE (R190, R193). -/
def execNmscanComplete (k : Nat) (s : State) : Out := .next (s.nmTurn k 4 State.nmscanPerform)

end Sys2Proof.Machine
end

