-- ==== Sys2Proof/Machine/Waves.lean ====
section
/-! DEFINITION. What happens to waves beside their instructions: taking a trap, register grants, mirrors, expiries, the end of
a wave, pre-emption (R37, R45 to R50, R266, R267, R372 to R374, R396, R397, R403 to R406). -/

namespace Sys2Proof.Machine

/-! ## PROGRAM_TRAP_TAKEN (R372 to R374) -/

/-- The wave holds its quadrant's issue slot. -/
def State.holds (s : State) (w : Nat) : Bool := ((s.core (coreOf w)).quad (quadOf w)).holder = some w

/-- No entry but trapped ones can issue: each has exited, is held, or is blocked by a wait (rule 3). -/
def State.onlyTraps (s : State) (w : Nat) : Bool :=
  let blocked := match (s.wx w).wait with | some x => !(s.waitOver w x) | none => false
  !(s.holds w) && ((s.wave w).issuing.isNone || blocked || !(s.headReady w))

/-- The trapped entry that was raised first. -/
def Wave.firstTrap (x : Wave) : Option Entry :=
  (x.frontier.filter Entry.isTrapped).foldl (fun b e =>
    match b with
    | none => some e
    | some y => if e.seq < y.seq then some e else some y) none

/-- A trap that is not delivered: a CONTEXT-FATAL TRAP record (R373), and the context stops. -/
def State.undelivered (s : State) (w : Nat) (e : Entry) (why : Nat) : State :=
  let (code, addr) := match e.stat with | .trapped c a => (c, a) | _ => (0, 0)
  let f := s.errOf w 10 code (detailOf
    [(0, toBytes 4 e.mask.toNat), (4, toBytes 1 e.slot), (5, toBytes 1 e.code), (6, toBytes 1 (slotOf w)), (7, toBytes 1 why)])
  let va := code = 0x06 ∨ code = 0x07
  (s.postErr { f with sev := 3, pc := e.pc.toNat, addr := addr, flags := if va then 16 else 0 }).stopContext (s.ctxOf w)

/-- PROGRAM_TRAP_TAKEN (R374). -/
def execProgramTrapTaken (w : Nat) (s : State) : Out :=
  match (s.wave w).firstTrap with
  | none => .next s
  | some e =>
    if (s.wx w).handler.isSome then .next (s.undelivered w e 1)
    else if !(s.onlyTraps w) then .next s
    else if (s.ctx (s.ctxOf w)).handler = 0 then .next (s.undelivered w e 0)
    else .next (s.enterHandler w (some e) false)

/-! ## REGGROW_GRANT (R37), MIRROR_COPY_DONE (R396, R397) -/

/-- Every mirror of a quadrant is dropped. -/
def State.dropMirrors (s : State) (quad : Nat) : State :=
  (quadWaves quad).foldl (fun s w => if (s.wx w).mirrored = [] then s else s.updWx w fun y => { y with mirrored := [] }) s

/-- Mirroring follows the total of the quadrant's allotments (R396, R397). -/
def State.mirrorCheck (s : State) (quad : Nat) : State :=
  if s.quadHeld (quad / 4) (quad % 4) ≤ 512 then s else s.dropMirrors quad

/-- REGGROW_GRANT (R37): the first request of a quadrant, once the space is free. -/
def execReggrowGrant (quad : Nat) (s : State) : Out :=
  match ((s.core (quad / 4)).quad (quad % 4)).grows with
  | [] => .next s
  | w :: rest =>
    let n := (s.wx w).growWant
    if s.quadUsed (quad / 4) (quad % 4) + n ≤ 1024 then
      let s := s.updWave w fun x => x.grow n
      let s := s.setStage w 1 0
      let s := s.updQuad (quad / 4) (quad % 4) fun q => { q with grows := rest }
      .next (s.mirrorCheck quad)
    else .next s

/-- MIRROR_COPY_DONE (R397): register `r` of a MIRROR_OK wave is mirrored once no write to it is pending. -/
def execMirrorCopyDone (w r : Nat) (s : State) : Out :=
  let ok := ((s.unitOf w).map fun u => u.crec.mirrorOk).getD false
  let q := coreOf w * 4 + quadOf w
  let s := s.mirrorCheck q
  if ok && s.quadHeld (coreOf w) (quadOf w) ≤ 512 && r < (s.wave w).valloc && (s.wave w).vEmpty r = 0
      && !((s.wx w).mirrored.contains r) then
    .next (s.updWx w fun y => { y with mirrored := y.mirrored ++ [r] })
  else .next s

/-! ## SLEEP_EXPIRY (R267) -/

/-- SLEEP_EXPIRY. -/
def execSleepExpiry (w : Nat) (s : State) : Out :=
  match (s.wx w).wait with
  | some (.time t) => if t ≤ s.time then .next (s.updWx w fun y => { y with wait := none }) else .next s
  | _ => .next s

/-! ## Traps raised from outside: watchdog and peers (R405, R406) -/

/-- Lanes of `m` leave whatever entries hold them for trapped entries where they stand; transactions of theirs abort first
(R429). -/
def State.trapAt (s : State) (w : Nat) (m : LaneMask) (code : Nat) : State :=
  let s := s.abortLanes w (s.txLanes w m) 6 0
  let seq := (s.wx w).trapSeq
  let out (e : Entry) : List Entry :=
    if e.isTrapped || e.mask &&& m = 0 then [e]
    else [{ e with mask := e.mask &&& ~~~ m }, e.trap (e.mask &&& m) code 0 seq]
  let s := s.updWave w fun x => { x with frontier := (x.frontier.flatMap out).filter fun e => e.mask ≠ 0 }
  (s.updWx w fun y => { y with trapSeq := seq + 1, wait := none }).freeSlot w

/-- An instruction that waits for its turn at banks gives its place up (R162), a BANKMODE its request (R335); the columns that a
BRDACC has not read leave their destinations full, as they were. -/
def State.dropBankOps (s : State) (w : Nat) : State :=
  let s := match (s.wave w).issuing with
    | some e =>
      match e.headInstr with
      | some (.brdacc f) =>
        if e.stage = 1 then
          s.updWave w fun x => (((List.range (cntOf f)).filter (e.done ≤ ·)).map (· + operandReg f.dst)).foldl
            (fun x r => x.fillV r (e.left.getD 0)) x
        else s
      | _ => s
    | none => s
  let uid := (s.wave w).uid
  (s.updUnit uid fun u => { u with bankOps := u.bankOps.filter (fun o => o.wid ≠ w), modeCh := u.modeCh.filter fun m => m.wid ≠ w }).pokeRounds uid

/-- The chip of an atomic on its way that waits for a port to recover. -/
def State.recovering (s : State) (e : CellarEntry) : Option Nat :=
  match e.req with
  | .atomic l _ => if s.wayOf l = .recovering then some l.chip else none
  | _ => none

/-- The atomics of a wave on their way. -/
def State.atomicsOf (s : State) (w : Nat) : List CellarEntry :=
  (s.homes.flight ++ (s.core (coreOf w)).cellar).filter fun e => match e.req with | .atomic _ a => a.wid = w | _ => false

/-- The loads of a wave that wait for a port to recover. -/
def State.loadsAway (s : State) (w : Nat) : List HeldLoad :=
  (s.heldLoads w).filter fun h => s.wayOf h.loc = .recovering

/-- Every outstanding request that the wave waits for goes to a chip whose way is recovering (R406). -/
def State.peerWait (s : State) (w : Nat) : Bool :=
  match (s.wx w).wait with
  | some (.full _ _) | some (.counters _) | some (.returns _) =>
    let es := s.atomicsOf w
    let hs := s.heldLoads w
    (es ≠ [] || hs ≠ []) && es.all (fun e => (s.recovering e).isSome) && hs.all (fun h => s.wayOf h.loc = .recovering)
      && (s.wx w).returns.all fun r => r.vals = []
  | _ => false

/-- A wave whose watchdog counts: resident, not in handler mode, no lane waiting on a fault. -/
def State.watched (s : State) (w : Nat) : Bool :=
  (s.wave w).live && (s.wave w).frontier ≠ [] && (s.wx w).handler.isNone && !((s.wx w).parked) && !(s.faultHeld w)
    && (s.wx w).suspended.isNone && !(s.peerWait w)

/-- WATCHDOG_EXPIRY (R405). -/
def execWatchdogExpiry (w : Nat) (s : State) : Out :=
  if !(s.watched w) ∨ s.time < (s.wx w).lastIssue + 1000000000 then .next s
  else
    let m := ((s.wave w).frontier.filter fun e => !e.isTrapped).foldl (fun m e => m ||| e.mask) (0 : LaneMask)
    if m = 0 then .next s
    else
      let f := s.errOf w 14 0x13 (detailOf [(0, toBytes 1 (slotOf w)), (1, toBytes 1 (quadOf w)), (4, toBytes 4 m.toNat)])
      let s := ((s.dropBankOps w).dropGrow w).trapAt w m 0x13
      .next ((s.updWx w fun y => { y with lastIssue := s.time }).postErr f)

/-- The registers of an answer that a request of a lane still owes. -/
def owed (a : AtomReq) : List RVal := atomVals a.reg a.n a.lane (2 ^ (8 * a.n) - 1)

/-- A request to a chip that cannot be reached is abandoned: its destination is full with all-ones bits (R406). -/
def State.abandonAtomic (s : State) (a : AtomReq) : State :=
  if (s.wx a.wid).returns.any fun r => r.id = a.ret then
    let s := (s.updWave a.wid fun x => (owed a).foldl Wave.deliver x).settleVtos a.wid
    s.retLess a.wid a.ret
  else s

/-- A load that waits for a chip that cannot be reached is abandoned in the same way. -/
def State.abandonLoad (s : State) (w : Nat) (h : HeldLoad) : State :=
  let ones (v : RVal) : RVal := { v with val := BitVec.allOnes 32 }
  let cut (r : Ret) : Ret := { r with held := r.held.filter fun x => x.id ≠ h.id }
  let ids := ((s.wx w).returns.filter fun r => r.held.any fun x => x.id = h.id).map (·.id)
  let s := s.updWave w fun x => (h.out.map ones).foldl Wave.deliver x
  let s := (s.updWx w fun y => { y with returns := y.returns.map cut }).settleVtos w
  ids.foldl (fun s id => s.reap w id) s

/-- PEER_SUSPEND_EXPIRY (R406): a suspension begins, ends with the way UP or otherwise past, or runs out. -/
def execPeerSuspendExpiry (w : Nat) (s : State) : Out :=
  match (s.wx w).suspended with
  | none => if s.peerWait w then .next (s.updWx w fun y => { y with suspended := some s.time }) else .next s
  | some t =>
    if !(s.peerWait w) then
      .next (s.updWx w fun y => { y with suspended := none, lastIssue := y.lastIssue + (s.time - t) })
    else if s.time < t + 2000000000 then .next s
    else
      let s := s.updWx w fun y => { y with suspended := none, lastIssue := y.lastIssue + (s.time - t) }
      let es := s.atomicsOf w
      let lane (e : CellarEntry) : LaneMask := match e.req with | .atomic _ a => laneBit a.lane | _ => 0
      let hs := s.loadsAway w
      let who (r : Ret) : List LaneMask :=
        (r.held.filter hs.contains).map fun h => if h.out.all (·.vec) then laneBit h.lane else r.lanes
      let m := ((s.wx w).returns.flatMap who).foldl (· ||| ·) (es.foldl (fun m e => m ||| lane e) (0 : LaneMask))
      let gone (x : CellarEntry) : Bool := es.any fun e => e.id = x.id
      let s := s.updHomes fun h => { h with flight := h.flight.filter fun x => !(gone x) }
      let s := s.updCore (coreOf w) fun c => { c with cellar := c.cellar.filter fun x => !(gone x) }
      let s := es.foldl (fun s e => match e.req with
        | .atomic l a => (s.abandonAtomic a).postAbandoned l.chip
        | _ => s) s
      let s := hs.foldl (fun s h => (s.abandonLoad w h).postAbandoned h.loc.chip) s
      .next (s.trapAt w m 0x14)

/-! ## WAVE_COMPLETE (R266, R41) -/

/-- A round that the wave signed has not completed. -/
def State.roundsOpen (s : State) (w : Nat) : Bool :=
  ((s.unitOf w).map fun u => u.cvs.any fun p => p.2.rounds.any fun r => r.ops.any fun o => o.wid = w).getD false

/-- The wave has come to its end. -/
def State.waveDone (s : State) (w : Nat) : Bool :=
  (s.wave w).live && (s.wave w).frontier = [] && (s.wx w).handler.isNone && (s.wx w).returns = [] && (s.wx w).lateTraps = []
    && !(s.roundsOpen w)

/-- WAVE_COMPLETE (R266): the wave leaves its barriers and its slot. -/
def execWaveComplete (w : Nat) (s : State) : Out :=
  if !(s.waveDone w) then .next s
  else
    let uid := (s.wave w).uid
    let s := s.drainFwd (coreOf w) (quadOf w)
    let s := s.updUnit uid fun u => { u with alive := u.alive.filter fun k => u.core * 96 + k ≠ w }
    let s := (s.leaveBars w).dropWave w
    .next ((s.mirrorCheck (coreOf w * 4 + quadOf w)).pokeRounds uid)

/-! ## Pre-emption (R45 to R50, R403) -/

/-- What an interrupted instruction can be resumed by its lanes (Table 2.8). -/
def byLanes (i : Instr) : Bool := match i with | .ld _ | .st _ | .ldb _ | .stb _ => true | _ => false

/-- A bank instruction that runs in steps (Table 15.1). -/
def byBanks (i : Instr) : Bool := match i with | .brdacc _ | .bwracc _ | .bfill _ | .bhad _ => true | _ => false

/-- An instruction whose hold is withdrawn by a pre-emption with nothing performed, and which issues again on resume (R335). -/
def withdrawn (i : Instr) : Bool :=
  match i with
  | .bankmode _ | .baccz _ | .btdWrite _ | .fence _ | .cinv _ | .cwb _ | .txbegin _ => true
  | _ => false

/-- An entry as a pre-emption leaves it (R46, R335, R403): an LD, ST, LDB or STB with lanes still to be performed has the lanes below
the lowest of them done; a bank instruction has the steps done that it had come to; others that hold issue again. -/
def Entry.interrupted (e : Entry) : Entry :=
  let is (p : Instr → Bool) : Bool := (e.headInstr.map p).getD false
  let e := if e.stat = .fault then { e with stat := .ready } else e
  if e.left.isSome && is byLanes then
    { e with done := lowestLane (e.left.getD 0), left := none, ret := 0, mark := 0, stage := 2 }
  else if e.stage = 1 && is byBanks then { e with left := none, mark := 0, stage := if e.done = 0 then 0 else 2 }
  else if e.stat = .ready && is withdrawn then { e with mark := 0, stage := 0 }
  else if e.left.isSome then { e with mark := 0 }
  else e

/-- The completion records of an LD, ST, LDB or STB with lanes still to be performed: what has come is delivered, the lanes that did not
are full, and the counter is decremented; the resumed instruction counts again (notes/assumptions/35.md). -/
def State.dropFaulted (s : State) (w : Nat) : State :=
  let es := (s.wave w).frontier.filter fun e => (e.stat = .fault || e.stat = .ready) && e.left.isSome && (e.headInstr.map byLanes).getD false
  es.foldl (fun s e =>
    let s := s.deliver w e.ret
    let ctr := ((s.wx w).returns.find? fun r => r.id = e.ret).bind (·.ctr)
    let s := s.updWx w fun y => { y with returns := y.returns.filter fun r => r.id ≠ e.ret }
    let regs : List Nat := match e.headInstr with
      | some (.ld f) => (List.range (memRegs f)).map (· + operandReg f.data)
      | some (.ldb f) => (List.range (memRegs f)).map (· + operandReg f.data)
      | _ => []
    let s := s.updWave w fun x => regs.foldl (fun x r => x.fillV r (e.left.getD 0)) x
    s.decDc? w ctr) s

/-- PROGIDX as a pre-emption records it (R46, R47, R403). -/
def progOf (e : Option Entry) : Word :=
  match e with
  | none => 0
  | some e =>
    let part := e.stage = 2 && 0 < (e.headInstr.map stepsOf).getD 0
    if e.fetched then BitVec.ofNat 32 ((if part then e.done % 128 else 0) + 128 * boolN part + 256 * (e.slot % 16) + 4096) else 0

/-- The open signatures of a wave are withdrawn: their lanes stand at their BMACs again, and their counters fall (R45), but for
those of a round stopped before, which count on (R164). -/
def State.withdraw (s : State) (w : Nat) : State :=
  match s.unitOf w with
  | none => s
  | some u =>
    let mine := u.cvs.flatMap fun p => p.2.rounds.flatMap fun r =>
      if r.issued then [] else (r.ops.filter fun o => o.wid = w).map fun o => (r, o)
    let cut (r : Round) : Round := if r.issued then r else { r with ops := r.ops.filter fun o => o.wid ≠ w }
    let s := s.updUnit (s.wave w).uid fun u =>
      { u with cvs := u.cvs.map fun p => (p.1, { p.2 with rounds := (p.2.rounds.map cut).filter fun r => r.ops ≠ [] }) }
    mine.foldl (fun s p =>
      let s := if p.1.resumed || p.2.signed = 0 then s else s.decDc w p.2.ctr
      s.backAt p.2 (if p.1.resumed then some p.2.done else none)) s

/-- Copies and engine commands that a wave issued have all completed (R45 step 3). -/
def State.cmdsDone (s : State) (w : Nat) : Bool :=
  let uid := (s.wave w).uid
  !((s.core (coreOf w)).copies.any fun k => k.uid = uid && k.wid = w)
    && !(s.dies.any fun p => p.2.merge.any fun c => c.uid = uid && c.wid = w && c.card.isNone)
    && !(s.queues.nmQ.any fun c => c.uid = uid && c.wid = w && c.card.isNone)

/-- The wave stands where a pre-emption can be taken: no packed slot begun, no trapped entry, no handler (R374). -/
def State.canStop (s : State) (w : Nat) : Bool :=
  let x := s.wave w
  x.live && x.frontier ≠ [] && (s.wx w).handler.isNone && !(s.wx w).parked && !(x.frontier.any Entry.isTrapped)
    && !((x.issuing.map inPacked).getD false)

/-- Loads, atomics and statuses have written their destinations, but for those that wait on a fault. -/
def State.returned (s : State) (w : Nat) : Bool :=
  let waiting := ((s.wave w).frontier.filter fun e => e.left.isSome).map (·.ret)
  (s.wx w).returns.all fun r => waiting.contains r.id || (!r.load && !r.gate && r.vals = [])

/-- A round that has issued jointly and not stopped runs to its end before the handler is entered (notes/assumptions/30.md). -/
def State.roundsRun (s : State) (w : Nat) : Bool :=
  ((s.unitOf w).map fun u => u.cvs.any fun p => p.2.rounds.any fun r => r.issued && r.ops.any fun o => o.wid = w).getD false

/-- A wave with a request pending enters the system handler once it has drained. -/
def State.stopWave (s : State) (w : Nat) (save : Bool) : State :=
  if !(s.canStop w) || !(s.returned w) || !(s.cmdsDone w) || s.roundsRun w then s
  else
    let s := s.abortLanes w (s.txLanes w allLanes) 7 0
    let s := s.moveGone w
    let s := (((s.withdraw w).dropBankOps w).dropGrow w).dropFaulted w
    let s := s.updWave w fun x => { x with frontier := sortBy Entry.before (x.frontier.map Entry.interrupted) }
    let p := progOf (s.wave w).issuing
    let s := s.updWx w fun y => { y with progidx := p, resumed := false, preempt := if save then false else y.preempt,
                                         halt := if save then y.halt else false, faultAt := none }
    s.enterHandler w none save

/-- The unit's waves have left the handler: its resources are freed, and it is SAVED (R69). -/
def State.saveUnit (s : State) (uid : Nat) : State :=
  match s.unit uid with
  | none => s
  | some u =>
    let s := u.aliveWids.foldl (fun s w =>
      let s := s.drainFwd (coreOf w) (quadOf w)
      let k := savedKey uid (s.wave w).idx
      ((s.setWave k (s.wave w)).setWx k (s.wx w)).dropWave w) s
    (s.freeUnitBanks u).updUnit uid fun u => { u with stat := .saved, dict := none }

/-- The wave has a debugger's halt before it, or stands in its handler: the end of a time slice waits until it resumes (R50). -/
def State.halted (s : State) (w : Nat) : Bool :=
  (s.wx w).halt || ((s.wx w).handler.map fun h => h.system && !h.save).getD false

/-- PREEMPT_REQUEST (R45, R49, R50): by abort where the record permits it, else by save. -/
def execPreemptRequest (uid : Nat) (s : State) : Out :=
  match s.unit uid with
  | none => .next s
  | some u =>
    if u.stat ≠ .resident || u.alive = [] then .next s
    else if u.crec.abortOk then
      if u.aliveWids.any s.halted then .next (u.aliveWids.foldl (fun s w => s.updWx w fun y => { y with preempt := true }) s)
      else .next (s.requeue uid [])
    else
      let saving (w : Nat) : Bool := ((s.wx w).handler.map (·.save)).getD false
      let todo := u.aliveWids.filter fun w => !((s.wx w).parked) && !(saving w)
      if todo = [] && u.aliveWids.all fun w => (s.wx w).parked then .next (s.saveUnit uid)
      else .next (todo.foldl (fun s w =>
        let s := s.updWx w fun y => { y with preempt := true }
        if s.halted w then s else s.stopWave w true) s)

/-- DEBUGGER_HALT (R50): one wave is stopped and enters the system handler; the unit keeps its core. -/
def execDebuggerHalt (w : Nat) (s : State) : Out :=
  if !(s.wave w).live || (s.wx w).parked then .next s
  else .next ((s.updWx w fun y => { y with halt := true }).stopWave w false)

/-- The wave slots that a SAVED unit needs are free on a core, in quadrants where no REGGROW waits (R37), and so are its banks and
convergence registers (R48, R158). -/
def State.restoreFits (s : State) (core uid : Nat) (u : WorkUnit) : Bool :=
  match s.launch u.crec.lid with
  | none => false
  | some l =>
    let c := s.core core
    let d := s.die (dieOfCore core)
    let need (q : Nat) : Nat := (u.alive.filter fun k => k / 24 = q).foldl (fun n k =>
      n + (s.wave (savedKey uid (u.slots.findIdx (· = k)))).valloc) 0
    !c.retired && c.scrub.isNone && !c.frozen && d.owner = some u.crec.ctx && d.change.isNone && d.clk.relock.isNone
      && l.dictPage.isNone && (s.dictPlace core l).isSome
      && u.alive.all (fun k => !(s.wave (core * 96 + k)).live && (c.quad (k / 24)).grows = [])
      && s.cvBound core + u.cvs.length ≤ 16
      && (List.range 4).all (fun q => s.quadUsed core q + need q ≤ 1024)
      && u.nbanks + s.reservedBanks core ≤ c.freeBanks.length
      && (List.range 4).all (fun q => (u.alive.filter fun k => k / 24 = q).length ≤ s.freeCount core q)

/-- A SAVED unit stands on a core again, its waves in the system handler with the registers they left it with (R69, R272,
notes/assumptions/24.md). -/
def State.restoreUnit (s : State) (core uid : Nat) : State :=
  match s.unit uid with
  | none => s
  | some u =>
    let bm := (s.core core).freeBanks.take u.nbanks
    let mode (i : Nat) : BMode := if i < u.sbanks then .storage else .compute
    let s := ((List.range u.nbanks).zip bm).foldl (fun s p => s.updBank core p.2 fun _ => { mode := mode p.1, owner := uid }) s
    let s := (s.shrinkL1 core).acquirePass core
    let s := s.setUnit uid { u with core := core, bankMap := bm, stat := .resident }
    let pc : Dword := BitVec.ofNat 64 (s.ctx u.crec.ctx).handler
    let e := s.entryAt u.crec.ctx pc allLanes
    u.alive.foldl (fun s k =>
      let key := savedKey uid (u.slots.findIdx (· = k))
      let w := core * 96 + k
      let x := s.wave key
      let y := s.wx key
      let s := { s with waves := Tbl.del s.waves key, wavex := Tbl.del s.wavex key }
      let back (h : Handler) : Handler := { h with save := false }
      (s.setWave w { x with frontier := [e] }).setWx w
        { y with parked := false, preempt := false, mirrored := [], wait := none, handler := y.handler.map back, lastIssue := s.time }) s

end Sys2Proof.Machine
end

