-- ==== Sys2Proof/Machine/Place.lean ====
section
/-! DEFINITION. The dispatchers and the command processor: placing units, starting shares and commands, the end of units and
cards, join and predecessor counters, COOP launches, owners of dies (R25 to R28, R51 to R75, R178, R181, R418). -/

namespace Sys2Proof.Machine

/-! ## Requests at their homes -/

/-- A request on its way, by its number. -/
def State.inFlight (s : State) (k : Nat) : Option CellarEntry := s.homes.flight.find? fun e => e.id = k
def State.landed (s : State) (k : Nat) : State :=
  s.updHomes fun h => { h with flight := h.flight.filter fun e => e.id ≠ k }
/-- A request waits on a translation fault, posted as one record. -/
def State.holdFlight (s : State) (e : CellarEntry) (va cause lane : Nat) : State :=
  let held (x : CellarEntry) : CellarEntry := if x.id = e.id then { x with held := some (va / 65536) } else x
  (s.deviceFault e.ctx va cause 2 lane).updHomes fun h => { h with flight := h.flight.map held }

/-- Origins from this number up are dispatchers: their requests are applied in the order made (R61). -/
def noCore : Nat := 1344

/-- A decrement of the same list comes before. -/
def State.listBefore (s : State) (e : CellarEntry) : Bool :=
  noCore ≤ e.core && s.homes.flight.any fun x => x.core = e.core && x.uid = e.uid && x.ctx = e.ctx && x.id < e.id

/-! ## Posting a record (R27, R68, R70) -/

/-- One more unit of a launch on the die of its slot. -/
def State.moreUnits (s : State) (lid die : Nat) : State :=
  let more (x : Share) : Share := if x.lid = lid then { x with left := x.left + 1 } else x
  let s := s.updLaunch lid fun l => { l with left := l.left + 1 }
  s.updDie die fun d => { d with slots := d.slots.map fun p => (p.1, more p.2) }

/-- A continuation record is posted to the die of its SLOT, if the launch is RUNNING; a record of a cancelled launch is
dropped at once (R69). -/
def State.postCont (s : State) (ctx : Nat) (b : List Byte) : Option State :=
  match s.runningSlot ctx (leAt b 28 2) with
  | none => none
  | some l =>
    if s.launchCancelled l.id then some s
    else
      let d := leAt b 28 2 / 64
      some ((s.moreUnits l.id d).postRec d (contOfBytes b ctx l.id l.prio s.time) false)

/-! ## JOIN_DECREMENT (R27), PREDS_DECREMENT (R62) -/

/-- The posting of a record waits for its context's spill area. -/
def State.contWaits (s : State) (ctx : Nat) (b : List Byte) : Bool :=
  match s.runningSlot ctx (leAt b 28 2) with
  | some l => !(s.launchCancelled l.id) && s.recWaits ctx (leAt b 28 2 / 64) l.prio
  | none => false
/-- So does that of a held card whose count falls to zero. -/
def State.predsWait (s : State) (ctx addr die : Nat) : Bool :=
  match s.card ctx addr with
  | some c => c.stat = .held && !(s.cardCancelled c) && s.cardWaits ctx c.prio (s.postTo c false (some die))
  | none => false

/-- The effect of a join counter that reaches zero. -/
def State.joinZero (s : State) (ctx addr die : Nat) (b guarded : List Byte) : State :=
  match leAt b 4 2 with
  | 1 => (s.postCont ctx guarded).getD (s.postSched ctx 0x25 addr 0)
  | 2 => s.updQueues fun q => { q with subs := q.subs ++ [{ ctx := ctx, addr := leAt b 8 8, die := die, src := 2 }] }
  | _ => s

/-- JOIN_DECREMENT (R27). -/
def execJoinDecrement (k : Nat) (s : State) : Out :=
  match s.inFlight k with
  | none => .next s
  | some e =>
    match e.req with
    | .join addr die =>
      if e.held.isSome || s.earlier e then .next s
      else
        if s.vaHeld e.ctx addr 16 .atomic then .next s else
        match s.readVa e.ctx addr 16 .atomic with
        | .error (va, c) => .next (s.holdFlight e va c 0xFF)
        | .ok b =>
          let n := leAt b 0 4
          if n = 0 then .next ((s.landed k).postSched e.ctx 0x20 addr 0)
          else
            let zero := n = 1 ∧ leAt b 4 2 = 1
            match (if zero then s.readVa e.ctx (leAt b 8 8) 32 .load else .ok []) with
            | .error (va, c) => .next (s.holdFlight e va c 0xFF)
            | .ok g =>
              if zero && s.contWaits e.ctx g then .next s
              else
              let s := (s.landed k).deviceWrite? e.ctx addr (toBytes 4 (n - 1))
              .next (if n = 1 then s.joinZero e.ctx addr die b g else s)
    | _ => .next s

/-- A held card whose count reaches zero is posted, or cancelled (R60). -/
def State.predsZero (s : State) (ctx addr die : Nat) : State :=
  match s.card ctx addr with
  | none => s
  | some c =>
    if c.stat ≠ .held then s
    else if s.cardCancelled c then s.endCard ctx addr 5
    else s.postCard c false (some die) false

/-- PREDS_DECREMENT (R62). -/
def execPredsDecrement (k : Nat) (s : State) : Out :=
  match s.inFlight k with
  | none => .next s
  | some e =>
    match e.req with
    | .preds addr die lane =>
      if e.held.isSome || s.earlier e || s.listBefore e then .next s
      else
        if s.vaHeld e.ctx addr 8 .atomic then .next s else
        match s.readVa e.ctx addr 8 .atomic with
        | .error (va, c) => .next (s.holdFlight e va c lane)
        | .ok b =>
          let n := leAt b 4 2
          if n = 0 then .next ((s.landed k).postSched e.ctx 0x21 addr 0)
          else if n = 1 && s.predsWait e.ctx addr die then .next s
          else
            let s := (s.landed k).journal.deviceWrite? e.ctx (addr + 4) (toBytes 2 (n - 1))
            .next (if n = 1 then s.predsZero e.ctx addr die else s)
    | _ => .next s

/-! ## UNIT_COMPLETE (R27) -/

/-- Copies and engine commands of a unit have all completed. -/
def State.unitCmdsDone (s : State) (uid : Nat) : Bool :=
  !(s.cores.any fun p => p.2.copies.any fun k => k.uid = uid && k.card.isNone)
    && !(s.dies.any fun p => p.2.merge.any fun c => c.uid = uid && c.card.isNone)
    && !(s.queues.nmQ.any fun c => c.uid = uid && c.card.isNone)

/-- UNIT_COMPLETE (R27): the unit releases its writes and frees its banks, and its join decrement follows through the
cellar; when all has been applied the unit is counted. -/
def execUnitComplete (uid : Nat) (s : State) : Out :=
  match s.unit uid with
  | none => .next s
  | some u =>
    if u.alive ≠ [] then .next s
    else
      match u.stat with
      | .completing =>
        if s.applied u.core u.mark then
          .next (({ s with units := Tbl.del s.units uid }).unitDone (dieOfCore u.core) u.crec.lid)
        else .next s
      | _ =>
        if !(s.unitCmdsDone uid) || !((s.core u.core).room 1) then .next s
        else
          match s.releasePass u.core with
          | (s, false) => .next s
          | (s, true) =>
            let s := (s.freeUnitBanks u).freeCluster u
            let s := if u.crec.join = 0 then s
              else s.push u.core uid u.crec.ctx u.crec.lid (.join u.crec.join (dieOfCore u.core))
            .next (s.updUnit uid fun u => { u with stat := .completing, mark := s.nextId, dict := none })

/-! ## Placing units (R28, R66, R68) -/

/-- The first of a list of cores that is able and has the most free wave slots (R66). -/
def State.bestCore (s : State) (cores : List Nat) (l : Launch) : Option Nat :=
  (cores.filter fun c => s.able c l).foldl (fun b c =>
    match b with
    | none => some c
    | some x => if s.coreFree x < s.coreFree c then some c else b) none

/-- A dictionary that cannot be fetched holds its launch until the page is translated again (notes/assumptions/39.md). -/
def State.dictFault (s : State) (l : Launch) (va cause : Nat) : State :=
  (s.deviceFault l.ctx va cause 3 0xFF).updLaunch l.id fun l => { l with dictPage := some (va / 65536) }

/-- A unit starts on a core, with its dictionary loaded; its quadrants' mirrors go where the registers need the room. -/
def State.placeOn (s : State) (core : Nat) (l : Launch) (r : ContRec) (cluster : Option Nat) : Except State State :=
  match s.loadDict core l with
  | .error (va, c) => .error (s.dictFault l va c)
  | .ok (i, s) =>
    let (uid, s) := s.startUnit core l r cluster
    let s := s.updUnit uid fun u => { u with dict := some i }
    .ok ((List.range 4).foldl (fun s q => s.mirrorCheck (core * 4 + q)) s)

/-- A unit that a core is to restore before it takes new work (R69). -/
def State.savedFor (s : State) (core : Nat) : Option (Nat × WorkUnit) :=
  s.units.find? fun p => p.2.stat = .saved && dieOfCore p.2.core = dieOfCore core && (s.die (dieOfCore core)).owner = some p.2.crec.ctx

/-- The record that a core is to take: the head of its own queue, else of another of its die (R68). -/
def State.popFrom (s : State) (core : Nat) : Option (Nat × ContRec) :=
  match (s.core core).uq with
  | r :: _ => some (core, r)
  | [] =>
    ((coresOf (dieOfCore core)).filterMap fun c => (s.core c).uq.head?.map fun r => (c, r)).foldl (fun b p =>
      match b with
      | none => some p
      | some q => if q.2.prio < p.2.prio || (q.2.prio = p.2.prio && p.2.t < q.2.t) then some p else b) none

/-- The cluster-barrier channel of a cluster on a die: held, or free to be taken (R43). -/
def State.channel (s : State) (die lid clu : Nat) : Option State :=
  let d := s.die die
  if d.chUse.contains (lid, clu) then some s
  else if d.chUse.length < 8 then some (s.setDie die { d with chUse := d.chUse ++ [(lid, clu)] })
  else none

/-- UNIT_POP_START (R28, R68, R69). -/
def execUnitPopStart (core : Nat) (s : State) : Out :=
  match s.savedFor core with
  | some (uid, u) => if s.restoreFits core uid u then
      (match s.launch u.crec.lid with
        | none => .next s
        | some l =>
          match s.loadDict core l with
          | .error (va, c) => .next (s.dictFault l va c)
          | .ok (i, s) => 
            let s := (s.restoreUnit core uid).updUnit uid fun u => { u with dict := some i }
            .next ((List.range 4).foldl (fun s q => s.mirrorCheck (core * 4 + q)) s))
    else .next s
  | none =>
    match s.popFrom core with
    | none => .next s
    | some (c, r) =>
      match s.launch r.lid with
      | none => .next (s.updCore c fun x => { x with uq := x.uq.drop 1 })
      | some l =>
        if s.launchCancelled l.id then .next ((s.updCore c fun x => { x with uq := x.uq.drop 1 }).unitDone (dieOfCore c) l.id)
        else if !(s.able core l) then .next s
        else
          match (match r.clu with | some k => s.channel (dieOfCore core) l.id k | none => some s) with
          | none => .next s
          | some s' =>
            match (s'.updCore c fun x => { x with uq := x.uq.drop 1 }).placeOn core l r r.clu with
            | .error _ => .next (match s.loadDict core l with | .error (va, e) => s.dictFault l va e | .ok _ => s)
            | .ok t => .next t

/-- Units of one cluster, placed one after another, each on the able core with the most free slots; none where some unit
finds no core. -/
def State.placeAll (s : State) (cores : List Nat) (l : Launch) : List ContRec → Option (Except State State)
  | [] => some (.ok s)
  | r :: t =>
    match s.bestCore cores l with
    | none => none
    | some c =>
      match s.placeOn c l r r.clu with
      | .error x => some (.error x)
      | .ok s' => s'.placeAll cores l t

/-- The records of a cluster of a launch, with the launch slot of its share as their SLOT. -/
def clusterRecs (l : Launch) (c t slot : Nat) : List ContRec :=
  let lo := c * l.cluster
  let hi := min (lo + l.cluster) l.units
  (List.range (hi - lo)).map fun i =>
    { code := l.code, frame := 0, join := 0, unit := lo + i, slot := slot, flags := recFlags l.flags,
      ctx := l.ctx, lid := l.id, prio := l.prio, t := t, clu := if 1 < hi - lo then some c else none }

/-- An admitted COOP launch of equal or higher priority reserves on the die (R67). -/
def State.coopBlocks (s : State) (die prio : Nat) : Bool :=
  match s.queues.coop.bind s.launch with
  | none => false
  | some m => prio ≤ m.prio && (if m.pkg then (s.diesIn m.ctx).contains die else m.home = die)

/-- CLUSTER_PLACE (R66): the next cluster of a share, all its units in one clock. The first unit of a launch waits for the launch
slot of the home share, which DISPATCH then names (R54, R60; notes/assumptions/54.md). -/
def execClusterPlace (die slot : Nat) (s : State) : Out :=
  match Tbl.find (s.die die).slots slot with
  | none => .next s
  | some sh =>
    match s.launch sh.lid with
    | none => .next s
    | some l =>
      let saved := s.units.any fun p => p.2.stat = .saved && dieOfCore p.2.core = die && p.2.crec.ctx = l.ctx
      if sh.last ≤ sh.next || saved || s.launchCancelled l.id || s.coopBlocks die l.prio || (l.slot.isNone && !l.running) then
        .next s
      else
        let rs := clusterRecs l sh.next s.time (die * 64 + slot)
        let chan := match rs with
          | _ :: _ :: _ => s.channel die l.id sh.next
          | _ => some s
        match chan.bind fun s' => s'.placeAll (coresOf die) l rs with
        | none => .next s
        | some (.error _) =>
          .next (match (s.bestCore (coresOf die) l).map fun c => s.loadDict c l with
            | some (.error (va, c)) => s.dictFault l va c
            | _ => s)
        | some (.ok t) =>
          let t := t.updDie die fun d => { d with slots := Tbl.set d.slots slot { sh with next := sh.next + 1 } }
          .next (t.startCard l.ctx l.card (l.slot.getD 0xFFFF) l.home l.id)

/-! ## PACKAGE_QUEUE_TAKE (R64), SHARE_START (R66) -/

/-- A host-signal card is performed by the command processor (R61, R64). -/
def State.takeSignal (s : State) (c : Card) (b : List Byte) : State :=
  let hub := 96 + s.hubs.sched.hub
  let s := s.setStat c.ctx c.addr fun x => { x with stat := .running, homeW := hub, started := true, succs := s.succsOf c }
  let sig : HostSig := ⟨c.ctx, c.addr, cCode b, BitVec.ofNat 64 (leAt b 16 8), leAt b 24 2, s.time⟩
  s.updQueues fun q => { q with signals := q.signals ++ [sig] }

/-- A phase mark performs its effect at once (R59). -/
def State.takeMark (s : State) (c : Card) (b : List Byte) : State :=
  let s := s.updCard c.ctx c.addr fun x => { x with homeW := 96 + s.hubs.sched.hub }
  let s :=
    if c.phase = 0 then s
    else
      let s := s.openPhase c.ctx c.phase c.job
      match s.counter c.ctx 3 c.phase with
      | some k => (s.setCounter { k with marked := true }).checkPhase c.ctx c.phase
      | none => s
  let s :=
    if !(bitOf (byteAt b 16) 0) then s
    else
      let s := if (s.counter c.ctx 4 c.job).isSome then s
        else s.setCounter { ctx := c.ctx, level := 4, id := c.job, count := 0 }
      match s.counter c.ctx 4 c.job with
      | some k => (s.setCounter { k with marked := true }).checkJob c.ctx c.job
      | none => s
  s.endCard c.ctx c.addr 4

/-- A counter is free for each that a phase mark opens (R58, R59). -/
def State.markRoom (s : State) (c : Card) (b : List Byte) : Bool :=
  let n (level : Nat) : Nat := (s.queues.counters.filter fun k => k.level = level).length
  let opens := c.phase ≠ 0 && (s.counter c.ctx 3 c.phase).isNone
  let job := (opens || bitOf (byteAt b 16) 0) && (s.counter c.ctx 4 c.job).isNone
  (!opens || n 3 < 1024) && (!job || n 4 < 256)

/-- What a package card posts to the dies' queues waits for its context's spill area (R63), and a mark for its counters. -/
def State.takeWaits (s : State) (ctx : Nat) (c : Card) (b : List Byte) (x : QCard) : Bool :=
  match c.kind with
  | 1 =>
    let shares := splitShares (ceilDiv (cUnits b) (max 1 (cCluster b))) (s.diesIn ctx)
    !(cardCoop (cFlags b)) && s.sharesWait ctx c.prio (shares.map (·.1))
  | 6 => false
  | 7 => !(s.markRoom c b)
  | _ => s.cardWaits ctx x.prio (some (s.targetDie c))

/-- A place of the package queue waits: what its card posts has no room, or its card cannot be read. -/
def State.pickWaits (s : State) (ctx : Nat) (x : QCard) : Bool :=
  match s.card ctx x.addr, s.readVa ctx x.addr 64 .load with
  | some c, .ok b => s.takeWaits ctx c b x
  | some _, .error _ => true
  | none, _ => false

/-- The card that the command processor takes next: the first of the package queue; while that waits, a host signal or a phase mark
at the front of a lower priority (R64). -/
def State.takePick (s : State) (ctx : Nat) : Option QCard :=
  match (s.ctx ctx).pq with
  | [] => none
  | x :: rest =>
    if !(s.pickWaits ctx x) then some x
    else
      let own (y : QCard) : Bool := ((s.card ctx y.addr).map fun c => decide (6 ≤ c.kind)).getD true
      let fronts := (([3, 2, 1, 0] : List Nat).filter fun p => p < x.prio).filterMap fun p => rest.find? fun y => y.prio = p
      fronts.find? fun y => own y && !(s.pickWaits ctx y)

/-- PACKAGE_QUEUE_TAKE (R64): a card of the context's package queue. -/
def execPackageQueueTake (ctx : Nat) (s : State) : Out :=
  if s.hubs.sched.takeover.isSome then .next s else
  match s.takePick ctx with
  | none => .next s
  | some x =>
    let s := s.updCtx ctx fun y => { y with pq := y.pq.erase x }
    match s.card ctx x.addr, s.readVa ctx x.addr 64 .load with
    | some c, .ok b =>
      match c.kind with
      | 1 => .next (s.splitLaunch c b (s.diesIn ctx) true)
      | 6 => .next (s.takeSignal c b)
      | 7 => .next (s.takeMark c b)
      | _ => .next (s.toDie (s.targetDie c) x false)
    | _, _ => .next s

/-- The head of a priority in a die's card queue. -/
def Die.headOf (d : Die) (prio : Nat) : Option QCard := d.cardQ.find? fun x => x.prio = prio

/-- A launch card in a die's queue forms one share on the die, in the card's place (R65). -/
def State.formShare (s : State) (die : Nat) (x : QCard) : State :=
  match s.card x.ctx x.addr, s.readVa x.ctx x.addr 64 .load with
  | some c, .ok b =>
    let s := s.updDie die fun d => { d with cardQ := d.cardQ.erase x }
    let s := s.splitLaunch c b [die] false
    match (s.die die).cardQ.find? fun y => y.ctx = x.ctx && y.addr = x.addr && y.lid ≠ 0 with
    | some y => s.updDie die fun d => { d with cardQ := queueCard y true (d.cardQ.erase y) }
    | none => s
  | _, _ => s

/-- The lowest free launch slot of a die, of 64. -/
def Die.freeSlot (d : Die) : Option Nat := (List.range 64).find? fun i => (Tbl.find d.slots i).isNone

/-- The dispatcher whose commands a die's engines take: that of the card's context owns the die, and no change of owner runs. -/
def State.issues (s : State) (die ctx : Nat) : Bool :=
  (s.die die).owner = some ctx && (s.die die).change.isNone && !(s.ctx ctx).stopped

/-- The head of a priority of a die's card queue can start. -/
def State.headStarts (s : State) (die prio : Nat) : Bool :=
  match (s.die die).headOf prio with
  | none => false
  | some x =>
    if x.lid ≠ 0 then (s.launch x.lid).isNone || (s.die die).freeSlot.isSome
    else
      match s.card x.ctx x.addr, s.readVa x.ctx x.addr 64 .load with
      | none, _ => true
      | some c, .ok _ => c.kind = 1 || (c.kind < 6 && s.issues (s.targetDie c) x.ctx)
      | some _, .error _ => false

/-- A head of higher priority can start: the dispatcher offers it before (R64). -/
def State.headBefore (s : State) (die prio : Nat) : Bool := (List.range 4).any fun p => prio < p && s.headStarts die p

/-- SHARE_START (R66): the head of a priority, a launch share, takes a slot. -/
def execShareStart (die prio : Nat) (s : State) : Out :=
  if s.headBefore die prio then .next s else
  match (s.die die).headOf prio with
  | none => .next s
  | some x =>
    if x.lid = 0 then
      (match s.card x.ctx x.addr with
        | some c => if c.kind = 1 then .next (s.formShare die x) else .next s
        | none => .next (s.updDie die fun d => { d with cardQ := d.cardQ.erase x }))
    else
      match s.launch x.lid, (s.die die).freeSlot with
      | some l, some i =>
        let home := l.home = die
        let sh : Share := ⟨l.id, l.ctx, l.prio, x.c0, x.c1, l.unitsIn x.c0 x.c1, home⟩
        let s := s.updDie die fun d => { d with cardQ := d.cardQ.erase x, slots := Tbl.set d.slots i sh }
        .next (if home then s.updLaunch l.id fun l => { l with slot := some (die * 64 + i) } else s)
      | none, _ => .next (s.updDie die fun d => { d with cardQ := d.cardQ.erase x })
      | _, none => .next s

/-! ## CARD_COMMAND_ISSUE (R53, R60) -/

/-- The core of a die whose copy unit has the fewest copies, ties to the lowest. -/
def State.copyCore (s : State) (d : Nat) : Nat :=
  (coresOf d).foldl (fun b c => if (s.core c).copies.length < (s.core b).copies.length then c else b) (d * 16)

/-- The record that stands for a card's command in replay (R435). -/
def cardLaunch (id : Nat) (c : Card) (die : Nat) (b : List Byte) : Launch :=
  { id := id, ctx := c.ctx, card := c.addr, home := die, slot := none, code := 0, args := 0, units := 0, cluster := 1, wpu := 0,
    vregs := 0, sregs := 0, sbanks := 0, cbanks := 0, txlog := 0, flags := cFlags b, prio := c.prio, job := c.job, shares := 0,
    left := 0, pkg := c.pkg }

/-- CARD_COMMAND_ISSUE (R53): the head of a priority, a copy, transform, near-memory or merge card. Its command is issued on its TARGET,
which is this die unless the card came to the queue of its graph's die (R62). -/
def execCardCommandIssue (from_ prio : Nat) (s : State) : Out :=
  if s.headBefore from_ prio then .next s else
  match (s.die from_).headOf prio with
  | none => .next s
  | some x =>
    match s.card x.ctx x.addr, s.readVa x.ctx x.addr 64 .load with
    | some c, .ok b =>
      let die := s.targetDie c
      if c.kind = 1 || x.lid ≠ 0 || 6 ≤ c.kind || !(s.issues die x.ctx) then .next s
      else
        let (lid, s) := s.launchId c
        let s := s.updDie from_ fun d => { d with cardQ := d.cardQ.erase x }
        let s := s.setLaunch lid (s.keepReplay (cardLaunch lid c die b))
        let s := s.updCard c.ctx c.addr fun y => { y with flags := cFlags b, lid := lid }
        let s := s.startCard c.ctx c.addr 0xFFFF die lid
        let (id, s) := s.fresh
        let cmd (kind d engine handle : Nat) : EngCmd :=
          { id := id, kind := kind, die := d, ctx := c.ctx, job := c.job, uid := 0, wid := 0, desc := [], card := some c.addr,
            t := s.time, engine := engine, handle := handle, descVa := cCode b }
        let sub := byteAt b 16
        match c.kind with
        | 2 =>
          let core := s.copyCore die
          let k : Copy :=
            { id := id, core := core, ctx := c.ctx, uid := 0, wid := 0, card := some c.addr, desc := [], cardDec := none,
              ctr := none, scope := 3, iter := (List.range 5).map fun i => leAt b (16 + 2 * i) 2, descVa := cCode b }
          .next (s.updCore core fun y => { y with copies := y.copies ++ [k] })
        | 3 =>
          .next (s.updDie die fun d => { d with xcards := d.xcards ++ [cmd 5 die sub (d.x c.ctx).kick] })
        | 4 => .next (s.updQueues fun q => { q with nmQ := q.nmQ ++ [cmd (3 + sub) (byteAt b 17) die 0] })
        | _ => .next (s.updDie die fun d => { d with merge := d.merge ++ [cmd sub die 0xFF 0] })
    | _, _ => .next s

/-! ## CARD_COMPLETE (R61) -/

/-- Every write of a launch or command has been applied at its home. -/
def State.lidQuiet (s : State) (lid : Nat) : Bool :=
  !(s.cores.any fun p => p.2.cellar.any fun e => e.lid = lid) && !(s.homes.flight.any fun e => e.lid = lid)
    && !(s.homes.staged.any fun p => p.1 = lid) && !(s.homes.egress.any fun f => f.lid = lid)
    && !(s.units.any fun p => p.2.crec.lid = lid)

/-- The die at which a card comes to its end: that of a launch's home share, that on which a command was issued, else the card's own;
for a host signal or a phase mark, which no die performs, the lowest die of its context (DESIGN CHOICE, log entry 54). -/
def State.endDie (s : State) (c : Card) : Nat :=
  match s.launch c.lid with
  | some l => l.home
  | none => c.home

/-- CARD_COMPLETE (R61): STATE is written, the successors' decrements are made in list order, and the counters fall. -/
def execCardComplete (ctx addr : Nat) (s : State) : Out :=
  match s.card ctx addr with
  | none => .next s
  | some c =>
    if c.stat ≠ .done ∨ !(s.lidQuiet c.lid) then .next s
    else
      let s := s.writeDispatch c
      let s := s.snapEnd c.lid
      let d := s.endDie c
      let s := c.succs.foldl (fun s a =>
        let (id, s) := s.fresh
        let e : CellarEntry :=
          { id := id, t := s.time, core := noCore + d, uid := addr, ctx := ctx, lid := 0, dep := 0, req := .preds a d 0xFF }
        s.updHomes fun h => { h with flight := h.flight ++ [e] }) s
      let s := s.subCounters c
      .next ((s.unqueue ctx addr).updQueues fun q => { q with cards := delCard q.cards ctx addr })

/-! ## COOP launches (R67, R387) -/

/-- COOP_ADMIT (R67): one at a time; at most four hold grid channels. -/
def execCoopAdmit (s : State) : Out :=
  if s.hubs.sched.takeover.isSome then .next s else
  match s.queues.coop, s.queues.coopQ with
  | none, lid :: rest =>
    if 4 ≤ s.queues.gridUse.length then .next s
    else .next (s.updQueues fun q => { q with coop := some lid, coopQ := rest })
  | _, _ => .next s

/-- The launch slot of a launch's share on a die. -/
def State.slotOn (s : State) (die lid : Nat) : Option Nat := ((s.die die).slots.find? fun p => p.2.lid = lid).map (·.1)

/-- The shares of a COOP launch that starts for the first time: die and clusters. -/
def State.coopShares (s : State) (l : Launch) : List (Nat × Nat × Nat) :=
  splitShares (ceilDiv l.units l.cluster) (if l.pkg then s.diesIn l.ctx else [l.home])

/-- The units of the launch that is being admitted, with their dies: the records held for it (R387), else those of its shares. -/
def State.coopUnits (s : State) (l : Launch) : List (Nat × ContRec) :=
  match s.queues.held.filter fun r => r.lid = l.id with
  | [] =>
    (s.coopShares l).flatMap fun p =>
      let slot := ((s.slotOn p.1 l.id).map fun i => p.1 * 64 + i).getD 0xFFFF
      ((List.range (p.2.2 - p.2.1)).flatMap fun c => clusterRecs l (p.2.1 + c) s.time slot).map fun r => (p.1, r)
  | held => held.map fun r => (r.die, r)

/-- A launch slot on the die of a share, where one is free. -/
def State.coopSlot (l : Launch) (s : State) (p : Nat × Nat × Nat) : State :=
  match s.slotOn p.1 l.id, (s.die p.1).freeSlot with
  | none, some i =>
    let home := l.home = p.1
    let sh : Share := ⟨l.id, l.ctx, l.prio, p.2.2, p.2.2, l.unitsIn p.2.1 p.2.2, home⟩
    let s := s.updDie p.1 fun d => { d with slots := Tbl.set d.slots i sh }
    if home then s.updLaunch l.id fun l => { l with slot := some (p.1 * 64 + i) } else s
  | _, _ => s

/-- A cluster-barrier channel for a unit's cluster, where one is free. -/
def State.coopChannel (l : Launch) (s : State) (u : Nat × ContRec) : State :=
  match u.2.clu with
  | some k => (s.channel u.1 l.id k).getD s
  | none => s

/-- SAVED units of a context are still to be restored on a die (R69). -/
def State.savedOn (s : State) (die ctx : Nat) : Bool :=
  s.units.any fun p => p.2.stat = .saved && dieOfCore p.2.core = die && p.2.crec.ctx = ctx

/-- A core for a unit, where one is able. -/
def State.coopCore (l : Launch) (s : State) (u : Nat × Nat × ContRec) : State :=
  if (Tbl.find s.queues.coopRes u.1).isSome || s.savedOn u.2.1 l.ctx then s
  else
    match s.bestCore (coresOf u.2.1) l with
    | some c => s.updQueues fun q => { q with coopRes := Tbl.set q.coopRes u.1 c }
    | none => s

/-- What is free on its dies is reserved for the launch being admitted (R67): launch slots, channels, room on cores. -/
def State.coopReserve (s : State) (l : Launch) : State :=
  let s := s.updQueues fun q => { q with coopRes := q.coopRes.filter fun p => !(s.core p.2).retired }
  let s := if s.queues.held.any fun r => r.lid = l.id then s else (s.coopShares l).foldl (State.coopSlot l) s
  let us := s.coopUnits l
  let s := us.foldl (State.coopChannel l) s
  ((List.range us.length).zip us).foldl (State.coopCore l) s

/-- Everything that the launch needs is reserved, and its held records wait for no page. -/
def State.coopReady (s : State) (l : Launch) : Bool :=
  let us := s.coopUnits l
  (List.range us.length).all (fun i => (Tbl.find s.queues.coopRes i).isSome)
    && us.all (fun u => u.2.held = [] && u.2.slot ≠ 0xFFFF
        && (match u.2.clu with | some k => (s.die u.1).chUse.contains (l.id, k) | none => true))

/-- The units start, each on the core reserved for it; none where a core is not able now. -/
def State.coopAll (s : State) (l : Launch) : List (Nat × ContRec) → Option (Except State State)
  | [] => some (.ok s)
  | (c, r) :: t =>
    if !(s.able c l) then none
    else
      match s.placeOn c l r r.clu with
      | .error x => some (.error x)
      | .ok s' => s'.coopAll l t

/-- The units of the launch, each with its core, and the state without the reservations and the held records. -/
def State.coopTaken (s : State) (l : Launch) : State × List (Nat × ContRec) :=
  let us := s.coopUnits l
  (s.updQueues fun q => { q with coopRes := [], held := q.held.filter fun r => r.lid ≠ l.id },
   ((List.range us.length).zip us).map fun p => (Tbl.get 0 s.queues.coopRes p.1, p.2.2))

/-- The admitted launch gives up its admission: it was cancelled. -/
def State.coopLeave (s : State) : State := s.updQueues fun q => { q with coop := none, coopRes := [] }

/-- COOP_START (R67): the admitted launch reserves what becomes free, and all its units start in one clock once every unit has its
place. -/
def execCoopStart (s : State) : Out :=
  if s.hubs.sched.takeover.isSome then .next s else
  match s.queues.coop with
  | none => .next s
  | some lid =>
    match s.launch lid with
    | none => .next s.coopLeave
    | some l =>
      if s.launchCancelled lid then .next s.coopLeave
      else
        let s := s.coopReserve l
        let l := { (s.launch lid).getD l with grid := [32, 33, 34, 35], gridBars := [] }
        let (t, us) := (s.setLaunch lid l).coopTaken l
        match (if s.coopReady l then t.coopAll l us else none) with
        | none => .next s
        | some (.error _) =>
          .next (match us.findSome? fun u => match s.loadDict u.1 l with | .error x => some x | .ok _ => none with
            | some (va, c) => s.dictFault l va c
            | none => s)
        | some (.ok t) =>
          let t := t.updQueues fun q => { q with coop := none, gridUse := q.gridUse ++ [lid] }
          let l := (t.launch lid).getD l
          .next (t.startCard l.ctx l.card (l.slot.getD 0xFFFF) l.home lid)

/-! ## What waits for room in its queue (R63) -/

/-- A record that is held: dropped where its launch is cancelled (R69); queued again where nothing keeps it; a COOP launch's are
left to its admission. -/
def State.heldGoes (s : State) (r : ContRec) : Bool :=
  let coop := ((s.launch r.lid).map fun l => cardCoop l.flags).getD false
  s.launchCancelled r.lid || (r.held = [] && !coop && !(s.recWaits r.ctx r.die r.prio))
def State.heldNext (s : State) : Option State :=
  (s.queues.held.find? s.heldGoes).map fun r =>
    let s := s.updQueues fun q => { q with held := q.held.erase r }
    if s.launchCancelled r.lid then s.unitDone r.die r.lid else s.postRec r.die r true

/-- A card that is posted again takes its place once its queue has room. -/
def State.againNext (s : State) : Option State :=
  (s.queues.cards.find? fun c => c.again && !(s.cardWaits c.ctx c.prio (if c.pkg then none else some c.home))).map fun c =>
    s.repost c

/-! ## HOST_SIGNAL_PERFORM (R61), STAGED_EGRESS_FLUSH (R392, R435) -/

/-- What a host signal's SYSTEM-scope release waits for has been applied. -/
def State.signalReady (s : State) (g : HostSig) : Bool :=
  let before (e : CellarEntry) : Bool := e.ctx = g.ctx && e.t ≤ g.t && e.req.tgt ≠ 0
  !(s.homes.flight.any before) && !(s.cores.any fun p => p.2.cellar.any before) && s.homes.egress.all (fun f => g.t < f.t)
    && g.t + 640 ≤ s.time

/-- HOST_SIGNAL_PERFORM (R61, R391): the value's write, then the message. -/
def execHostSignalPerform (s : State) : Out :=
  if s.hubs.sched.takeover.isSome then .next s else
  match s.queues.signals.find? s.signalReady with
  | none => .next s
  | some g =>
    let s := s.updQueues fun q => { q with signals := q.signals.erase g }
    let s := if s.granted g.addr 8 then s.updHomes fun h => { h with host := Mem.writeN h.host g.addr (toBytes 8 g.val.toNat) }
      else s.postSched g.ctx 0x26 g.addr 0
    let s := if g.vec = 0xFFFF then s else s.sendMsix g.vec
    .next (s.endCard g.ctx g.card 4)

/-- STAGED_EGRESS_FLUSH (R392): staged writes of a launch that has come to its end go to their targets; its card then ends
once they are acknowledged. -/
def execStagedEgressFlush (s : State) : Out :=
  if s.hubs.sched.takeover.isSome then .next s else
  match s.queues.launches.find? fun p => p.2.flush with
  | none => .next s
  | some (lid, l) =>
    let out := (s.homes.staged.filter fun p => p.1 = lid).map fun p => { p.2 with dep := 0 }
    let s := s.updHomes fun h => { h with staged := h.staged.filter (fun p => p.1 ≠ lid), flight := h.flight ++ out }
    let s := s.setLaunch lid { l with flush := false }
    .next (if l.units = 0 then s.cmdCardEnd l.ctx l.card else s.launchEnd lid)

/-! ## Owners of dies (R74, R75, R181) -/

/-- A context has posted cards, shares, queued records, resident or SAVED units for a die. -/
def State.wants (s : State) (ctx die : Nat) : Bool :=
  let d := s.die die
  let c := s.ctx ctx
  c.on && !c.stopped && c.dies.testBit die &&
    (d.cardQ.any (fun x => x.ctx = ctx) || d.slots.any (fun p => p.2.ctx = ctx && p.2.next < p.2.last)
      || (coresOf die).any (fun k => (s.core k).uq.any fun r => r.ctx = ctx)
      || s.units.any (fun p => p.2.crec.ctx = ctx && dieOfCore p.2.core = die)
      || (match s.queues.coop.bind s.launch with
          | some l => l.ctx = ctx && (if l.pkg then c.dies.testBit die else l.home = die)
          | none => false))

/-- The context of highest CPRIO that wants a die, round-robin after the owner within a CPRIO. -/
def State.nextOwner (s : State) (die : Nat) : Option Nat :=
  let cur := (s.die die).owner.getD 63
  let order := (List.range 64).map fun i => (cur + 1 + i) % 64
  (order.filter fun c => s.wants c die).foldl (fun b c =>
    match b with
    | none => some c
    | some x => if (s.ctx x).cprio < (s.ctx c).cprio then some c else b) none

/-- A die's time slice begins. -/
def State.beginSlice (s : State) (die : Nat) : State :=
  match (s.die die).owner with
  | none => s
  | some c =>
    let n := (s.ctx c).slice
    s.updDie die fun d => { d with sliceEnd := s.time + (if n = 0 then 2000 else n) * 1000 }

/-- The owner gives the die up, is displaced, or has come to the end of its slice (R74). -/
def State.ownerDue (s : State) (die : Nat) : Bool :=
  let d := s.die die
  match s.nextOwner die with
  | none => false
  | some n =>
    match d.owner with
    | none => true
    | some o => n ≠ o && (!(s.wants o die) || (s.ctx o).cprio < (s.ctx n).cprio || d.sliceEnd ≤ s.time)

/-- TIME_SLICE_EXPIRY (R74): the command processor selects the next owner. -/
def execTimeSliceExpiry (die : Nat) (s : State) : Out :=
  if s.hubs.sched.takeover.isSome then .next s else
  let d := s.die die
  if d.change.isSome then .next s
  else if s.ownerDue die then .next (s.setDie die { d with change := some (s.nextOwner die) })
  else if d.owner.isSome ∧ d.sliceEnd ≤ s.time then .next (s.beginSlice die)
  else .next s

/-- A command of a context that waits on a fault fails with a ROLE (R401, R418). -/
def State.failWaiting (s : State) (role : Nat) (mine : EngCmd → Bool) (mineK : Copy → Bool) : State :=
  let g (c : EngCmd) : EngCmd := if mine c && c.waiting then { c with waiting := false, role := role } else c
  let gk (k : Copy) : Copy := if mineK k && k.waiting then { k with waiting := false, role := role } else k
  let s := s.mapParts (fun c => { c with copies := c.copies.map gk }) fun d =>
    { d with merge := d.merge.map g, xcards := d.xcards.map g, xfly := d.xfly.map fun x => { x with cmd := g x.cmd } }
  s.updQueues fun q => { q with nmQ := q.nmQ.map g }

/-- Engine commands of a context that a die issued have all ended. A near-memory card's command keeps the base die that its card
names as its die (Table 3.3), and the die that issued it as its engine. -/
def State.dieCmdsDone (s : State) (die ctx : Nat) : Bool :=
  let d := s.die die
  !(d.merge.any fun c => c.ctx = ctx) && !(d.xcards.any fun c => c.ctx = ctx) && !(d.xfly.any fun x => x.cmd.ctx = ctx)
    && !(s.queues.nmQ.any fun c => c.ctx = ctx && (c.engine = die || (c.card.isNone && dieOf c.wid = die)))
    && !((coresOf die).any fun k => (s.core k).copies.any fun c => c.ctx = ctx)

/-- Bytes of the attic that a spilled map takes (R181). -/
def atticBytes (m : LoftMap) : Nat := 256 + 256 * ceilDiv m.n0 128
/-- The attic of a die under a MAPSPILL value. -/
def atticAt (cfg : Dword) (die : Nat) : Nat := fieldN cfg 6 50 * 64 + die * 2 ^ fieldN cfg 56 8

/-- Bytes in a device format, written from the address: free values (R181, notes/assumptions/28.md). -/
def State.atticWrite (s : State) (ctx va n : Nat) : State :=
  let parts := (List.range (ceilDiv n 65536)).map fun i => (va + 65536 * i, min 65536 (n - 65536 * i))
  let s' := parts.foldl (fun s p =>
    let here := min p.2 (65536 - p.1 % 65536)
    let b := (List.range p.2).map fun i => (Config.free (s.freeCtr + i)).setWidth 8
    let s := { s with freeCtr := s.freeCtr + p.2 }
    (s.deviceWrite? ctx p.1 (b.take here)).deviceWrite? ctx (p.1 + here) (b.drop here)) s
  s'

/-- Maps of the outgoing context are spilled to the attic as long as they fit, or dropped (R181). -/
def State.spillMaps (s : State) (die ctx : Nat) : State :=
  let cfg := (s.ctx ctx).mapspill
  let size := if cfg.getLsbD 0 then 2 ^ fieldN cfg 56 8 else 0
  let mine := sortBy (fun (a b : LoftMap) => a.handle < b.handle)
    ((s.die die).loft.filter fun m => m.ctx = ctx && !m.lost && !m.spilled)
  let fit := mine.foldl (fun (a : Nat × List Nat) m =>
    if a.1 + atticBytes m ≤ size then (a.1 + atticBytes m, a.2 ++ [m.handle]) else a) (0, [])
  let one (m : LoftMap) : LoftMap :=
    if m.ctx ≠ ctx || m.lost || m.spilled then m
    else if fit.2.contains m.handle then { m with spilled := true } else { m with lost := true }
  let s := if fit.1 = 0 then s else s.atticWrite ctx (atticAt cfg die) fit.1
  s.updDie die fun d => { d with loft := d.loft.map one }

/-- Spilled maps of the incoming context come back under their handles while the loft has blocks for them (R181). -/
def State.unspillMaps (s : State) (die ctx : Nat) : State :=
  let mine := sortBy (fun (a b : LoftMap) => a.handle < b.handle) ((s.die die).loft.filter fun m => m.ctx = ctx && m.spilled)
  mine.foldl (fun s m =>
    let fits := ceilDiv m.n0 128 ≤ (s.die die).loftFree
    let one (x : LoftMap) : LoftMap := if x.handle = m.handle then { x with spilled := false, lost := !fits } else x
    s.updDie die fun d => { d with loft := d.loft.map one }) s

/-- XRING as last written applies on a die that its context takes, where it was written, or never applied, in between: the kick index
there becomes zero (R195, R196). -/
def State.takeRing (s : State) (die ctx : Nat) : State :=
  let v := (s.ctx ctx).xring
  s.updDie die fun d =>
    if (d.x ctx).pend || (d.x ctx).ring ≠ v then
      let early (c : EngCmd) : EngCmd := if c.ctx = ctx then { c with handle := 0 } else c
      { d with xctx := Tbl.set d.xctx ctx { ring := v }, xcards := d.xcards.map early }
    else d

/-- A release at PACKAGE scope of every core of a die: dirty lines enter the cellars as their room allows; whether all have, and the
release is made. -/
def State.releaseCores (s : State) (die : Nat) : State × Bool :=
  let push (r : State × Bool) (c : Nat) : State × Bool :=
    let (s, all) := r.1.pushLines c ((r.1.core c).l1.filter L1Line.isDirty)
    (s, r.2 && all)
  let cs := (coresOf die).filter fun c => (Tbl.find s.cores c).isSome
  let (s, all) := cs.foldl push (s, true)
  if all && !(s.epochHeld die) then
    let mk := s.nextId
    ((cs.foldl (fun s c => s.updCore c fun x => { x with relMark := mk }) s).advanceEpoch die, true)
  else (s, false)

/-- OWNER_CHANGE (R75): the steps that can be taken now. -/
def execOwnerChange (die : Nat) (s : State) : Out :=
  if s.hubs.sched.takeover.isSome then .next s else
  let d := s.die die
  match d.change with
  | none => .next s
  | some next =>
    let take (s : State) : State :=
      let stk := (next.map fun n => BitVec.ofNat 64 (s.reg (0x3000 + 8 * n))).getD d.stkcfg
      let s := s.updDie die fun d => { d with owner := next, change := none, stkcfg := stk }
      let s := s.updQueues fun q => { q with coopRes := q.coopRes.filter fun p => dieOfCore p.2 ≠ die }
      let s := match next with | some n => (s.takeRing die n).unspillMaps die n | none => s
      s.beginSlice die
    match d.owner with
    | none => .next (take s)
    | some o =>
      let us := s.units.filter fun p => p.2.crec.ctx = o && dieOfCore p.2.core = die && p.2.stat ≠ .saved
      let s1 := us.foldl (fun s p => match execPreemptRequest p.1 s with | .next t => t | _ => s) s
      let s2 := s1.failWaiting 2 (fun c => c.ctx = o && c.die = die) (fun k => k.ctx = o && dieOfCore k.core = die)
      let still := s2.units.any fun p => p.2.crec.ctx = o && dieOfCore p.2.core = die && p.2.stat ≠ .saved
      if still || !(s2.dieCmdsDone die o) then .next s2
      else
        match (s2.spillMaps die o).releaseCores die with
        | (s, true) => .next (take s)
        | (s, false) => .next s

end Sys2Proof.Machine
end

