-- ==== Sys2Proof/Machine/Homes.lean ====
section
/-! DEFINITION. What leaves the cores and what the homes do with it: hold-back, writes, atomics, alias commands, quarantine,
release frames, walks, migration, compression, scrubbing, snapshots (R81 to R90, R99 to R104, R112, R117, R118, R194, R321,
R380, R391, R392, R411 to R413, R431). -/

namespace Sys2Proof.Machine

/-! ## CELLAR_ENTRY_LEAVE (R112, R380, R392) -/

/-- Off-package data that a launch stages: stores and RED. -/
def stageable (r : Req) : Bool :=
  match r with
  | .write l _ _ => l.tgt ≠ 0
  | .alop l _ _ => l.tgt ≠ 0
  | .atomic l a => l.tgt ≠ 0 && a.reg.isNone
  | _ => false

/-- The die, or the port, that a request leaves for (R117); its own die for one that has no place. -/
def State.destOf (s : State) (r : Req) (own : Nat) : Nat :=
  match r.loc with
  | some l =>
    if l.tgt = 0 then homeSlice l.ra / 2 else if l.tgt = 2 then 114 else 98 + (s.portFor l.chip l.ra).getD 0
  | none => own

/-- A crossing FIFO toward a die that relocks has passed its stop watermark: the sender stalls (R16). -/
def State.fifoFull (s : State) (die : Nat) : Bool :=
  (s.die die).clk.relock.isSome && Config.fifoStop ≤ (s.homes.flight.filter fun e => s.destOf e.req 0xFF = die).length

/-- A request leaves its core, tagged with its die's epoch (R117). -/
def State.depart (s : State) (e : CellarEntry) : State :=
  let d := dieOfCore e.core
  let epoch := Tbl.get 0 (s.die d).clock d
  let dst := s.destOf e.req d
  let s := (e.req.loc.map s.takeWay).getD s
  let s := s.updDie d fun x => { x with sent := if x.sent.contains dst then x.sent else x.sent ++ [dst] }
  s.updHomes fun h => { h with flight := h.flight ++ [{ e with epoch := epoch }] }

def State.wayChanges (s : State) (l : Loc) : Bool := (l.tgt = 1 ∨ l.tgt = 3) && s.wayChange l.chip

/-- CELLAR_ENTRY_LEAVE (R380): 640 ns after it entered, in entry order among entries to one location,
not before a relock of the die ends (R16), and while 511 requests of the core at most are outstanding (R13). -/
def execCellarEntryLeave (core k : Nat) (s : State) : Out :=
  let c := s.core core
  match c.cellar.find? fun e => e.id = k with
  | none => .next s
  | some e =>
    let first := !(c.cellar.any fun x => x.id < k && x.req.lines.any e.req.lines.contains)
    let full := 512 ≤ (s.homes.flight.filter fun x => x.core = core).length
    if c.frozen || s.time < e.t + 640 || !first || full || (s.die (dieOfCore core)).clk.relock.isSome
        || s.fifoFull (s.destOf e.req 0xFF) || (e.req.loc.map s.wayChanges).getD false then .next s
    else
      let out := s.updCore core fun c => { c with cellar := c.cellar.filter fun x => x.id ≠ k }
      let flags := ((s.launch e.lid).map (·.flags)).getD 0
      let off := (e.req.loc.map fun l => decide (l.tgt ≠ 0)).getD false
      if !off then .next (out.depart e)
      else if cardStage flags && stageable e.req then
        if storeRoom ≤ s.storePages then .next s
        else
          let s := out.updHomes fun h => { h with staged := h.staged ++ [(e.lid, e)] }
          .next (match e.req with
            | .atomic _ a => if (s.wave a.wid).uid = e.uid then s.retLess a.wid a.ret else s
            | _ => s)
      else .next ((out.depart e).loseEligible e.lid 4)

/-! ## At the homes (R107, R118, R128) -/

/-- The home, or the way to it, keeps a request waiting. -/
def State.homeWaits (s : State) (l : Loc) (n : Nat) : Bool :=
  s.wayHeld l || (linesIn l n).any fun k => s.locked k || s.homeStops k

/-- Units of a slice that are pinned, and whether the slice can pin no more: an eighth of its 8 MiB (R412). -/
def State.pinsFull (s : State) (slice : Nat) : Bool :=
  4096 ≤ (s.hubs.comp.pinned.filter fun p => homeSlice (frameBase + p.1 * 256) = slice).length

/-- A write that would allocate a line of a compressed page in a slice whose pinning is exhausted. -/
def State.pinWaits (s : State) (l : Loc) : Bool :=
  l.tgt = 0 && l.alop = 0 && s.inFrames l.ra && (Tbl.find s.homes.l2 (l.ra / 128)).isNone && s.pinsFull (homeSlice l.ra)

/-- A write held for want of a line, since a time. -/
def State.stall (s : State) (id : Nat) : State :=
  s.updHubs fun h =>
    { h with comp := { h.comp with stalled := if h.comp.stalled.any (fun p => p.1 = id) then h.comp.stalled else h.comp.stalled ++ [(id, s.time)] } }
def State.unstall (s : State) (id : Nat) : State :=
  s.updHubs fun h => { h with comp := { h.comp with stalled := h.comp.stalled.filter fun p => p.1 ≠ id } }

/-- WRITE_APPLY_AT_HOME (R118): a write, or a request for work, at its home. -/
def execWriteApplyAtHome (k : Nat) (s : State) : Out :=
  match s.inFlight k with
  | none => .next s
  | some e =>
    if s.earlier e then .next s
    else
      match e.req with
      | .write l b m =>
        if s.homeWaits l b.length then .next s
        else if s.pinWaits l then .next (s.stall k)
        else if s.wayOf l = .none then .next ((s.landed k).postAbandoned l.chip)
        else .next (((((s.landed k).unstall k).snapRoom l b.length)).writeAt e.past l b m)
      | .spawn addr dest =>
        .next ((s.landed k).updQueues fun q => { q with subs := q.subs ++ [{ ctx := e.ctx, addr := addr, die := dest.getD 0xFF, src := 1 }] })
      | .cont b => .next (if s.contWaits e.ctx b then s else ((s.landed k).postCont e.ctx b).getD (s.landed k))
      | _ => .next s

/-- The wave that a request came from is still there. -/
def State.waits (s : State) (e : CellarEntry) (a : AtomReq) : Bool :=
  (s.wave a.wid).live && (s.wave a.wid).uid = e.uid && (s.wx a.wid).returns.any fun r => r.id = a.ret

/-- The answer of an atomic goes back. -/
def State.answer (s : State) (e : CellarEntry) (a : AtomReq) (old : Nat) : State :=
  if s.waits e a then
    let s := s.retVals a.wid a.ret (atomVals a.reg a.n a.lane old)
    s.retLess a.wid a.ret
  else s

/-- ATOMIC_AT_HOME (R321): performed at its home, one request after another, so that combined ones equal a serial order (R96); one that reads poison traps its wave's unit (R410). -/
def execAtomicAtHome (k : Nat) (s : State) : Out :=
  match s.inFlight k with
  | none => .next s
  | some e =>
    match e.req with
    | .atomic l a =>
      if s.earlier e || s.homeWaits l a.n then .next s
      else if s.pinWaits l then .next (s.stall k)
      else if s.wayOf l = .none then
        let s := (s.landed k).postAbandoned l.chip
        .next (if s.waits e a then s.abandonAtomic a else s)
      else
        let s := ((s.landed k).unstall k).meet l a.n
        if s.locPoisoned l 0 a.n then .next (if s.waits e a then s.poisonTrap a.wid l.ra false else s)
        else
          let old := ofBytes (s.readLoc l 0 a.n)
          let s := match atomStore a.cas a.op a.n old a.cmp a.b with
            | some x => (s.snapRoom l a.n).writeAt e.past l (toBytes a.n x) (List.replicate a.n true)
            | none => s
          .next ((s.dropClean e.core l a.n).answer e a old)
    | _ => .next s

/-- ALIAS_STORE_APPLY (R83, R194). -/
def execAliasStoreApply (k : Nat) (s : State) : Out :=
  match s.inFlight k with
  | none => .next s
  | some e =>
    match e.req with
    | .alop l mxf es =>
      if s.earlier e || s.homeWaits l (4 * es.length) then .next s
      else if s.wayOf l = .none then .next ((s.landed k).postAbandoned l.chip)
      else .next (((s.landed k).snapRoom l (4 * es.length)).alopStore l mxf es)
    | _ => .next s

/-- EGRESS_QUARANTINE_RELEASE (R391): the first flit whose 640 ns have passed, and whose way is not recovering. -/
def execEgressQuarantineRelease (s : State) : Out :=
  match s.homes.egress.find? fun f => f.t + 640 ≤ s.time && !(s.wayStops f.loc) with
  | none => .next s
  | some f =>
    let s := s.updHomes fun h => { h with egress := h.egress.erase f }
    let flags := ((s.launch f.lid).map (·.flags)).getD 0
    let s := if cardStage flags then s else s.loseEligible f.lid 4
    if s.wayOf f.loc = .none then .next (s.postAbandoned f.loc.chip)
    else if 2 ≤ f.loc.alop ∧ f.loc.alop ≤ 4 then .next (s.alopStore f.loc f.mxf (elemWords f.bytes))
    else .next (s.writeLoc f.loc f.bytes (List.replicate f.bytes.length true))

/-- RELEASE_FRAME_RECEIVE (R117): the first frame on its way to a die that runs announces its clock there; one to a port leaves the
module. -/
def execReleaseFrameReceive (s : State) : Out :=
  let held (f : Nat × Tbl Nat) : Bool :=
    (f.1 < 84 && (s.die f.1).clk.relock.isSome)
      || (98 ≤ f.1 && f.1 < 114 && (Tbl.get {} s.hubs.ports (f.1 - 98) : Port).stopped.contains 2)
  match s.hubs.frames.find? fun f => !(held f) with
  | none => .next s
  | some f =>
    let s := s.updHubs fun h => { h with frames := h.frames.erase f }
    .next (if f.1 < 84 then s.updDie f.1 fun x => { x with inbox := mergeClock x.inbox f.2 } else s)

/-! ## PAGE_WALK_COMPLETE (R86, R90) -/

/-- An entry that a walk reads waits at its home slice: a scrub, or a relock of the slice's die (R16, R388). -/
def State.walkHeld (s : State) (page : Nat) : Nat → Nat → Bool
  | 0, t => s.homeStops ⟨0, 0, 0, t + 8 * (page % 1024)⟩
  | n + 1, t =>
    s.homeStops ⟨0, 0, 0, t + 8 * (page / 2 ^ (10 * (n + 1)) % 1024)⟩
      || match s.walkStep (n + 1) t page with | .table t' => s.walkHeld page n t' | _ => false

/-- PAGE_WALK_COMPLETE: the TLBs of the core and the die take the translation, or the die keeps the cause of the fault. -/
def execPageWalkComplete (die k : Nat) (s : State) : Out :=
  match (s.die die).walks.find? fun w => w.id = k with
  | none => .next s
  | some w =>
    if s.walkHeld w.page w.level w.table then .next s else
    let s := s.updDie die fun d => { d with walks := d.walks.filter fun x => x.id ≠ k }
    let (id, s) := s.fresh
    match s.walkFrom w.asid w.page w.level w.table with
    | .ok e =>
      let e := { e with id := id }
      .next ((s.keepTlb w.core e).updDie die fun d => d.keepTlb e)
    | .error c =>
      .next (s.updDie die fun d =>
        { d with neg := d.neg.filter (fun n => !(n.asid = w.asid && n.page = w.page)) ++ [⟨w.asid, w.page, c, id⟩] })

/-! ## Migration (R103, R104, R413) -/

/-- The address of a page's level-0 entry, by a walk. -/
def State.entryOf (s : State) (page : Nat) : Nat → Nat → Option Nat
  | 0, t => some (t + 8 * (page % 1024))
  | n + 1, t => match s.walkStep (n + 1) t page with | .table t' => s.entryOf page n t' | _ => none

def State.migWindow (s : State) : Nat := (if s.reg 0x0040 = 0 then 4000 else s.reg 0x0040) * 1000
def State.migCount (s : State) (page chip : Nat) : Nat :=
  ((s.hubs.mig.counts.find? fun c => c.1 = page && c.2.1 = chip).map (·.2.2)).getD 0

/-- A leaf with another target, chip and frame. -/
def retarget (x : Dword) (tgt chip frame : Nat) : Dword :=
  let keep := x &&& ~~~ (BitVec.ofNat 64 (placeN (2 ^ 48 - 1) 5 48))
  keep ||| BitVec.ofNat 64 (placeN tgt 5 2 + placeN chip 7 10 + placeN frame 17 36)

/-- Requests and lines of the module for a frame go to where it moved (R103: the old home forwards them). -/
def State.redirect (s : State) (old : Nat) (new : Loc → Loc) : State :=
  let loc (l : Loc) : Loc := if l.tgt = 0 && l.ra / 65536 = old then new l else l
  let req (r : Req) : Req :=
    match r with
    | .write l b m => .write (loc l) b m
    | .alop l x es => .alop (loc l) x es
    | .atomic l a => .atomic (loc l) a
    | r => r
  let ent (e : CellarEntry) : CellarEntry := { e with req := req e.req }
  let s := s.mapParts (fun c => { c with cellar := c.cellar.map ent, l1 := c.l1.map fun x => { x with loc := loc x.loc } }) fun d => d
  s.updHomes fun h => { h with flight := h.flight.map ent }

/-- No TLB holds a page's translation any more. -/
def State.dropPage (s : State) (asid page : Nat) : State :=
  let out (e : TlbEntry) : Bool := !(e.covers asid page)
  s.mapParts (fun c => { c with tlb := c.tlb.filter out }) fun d => { d with tlb := d.tlb.filter out }

/-- The first entry of the arrival list that satisfies a test, by its address and value. -/
def State.arrival (s : State) (p : Nat → Bool) : Option (Nat × Nat) :=
  (List.range (s.reg 0x0058)).findSome? fun i =>
    let a := s.reg 0x0050 + 8 * i
    let x := ofBytes (s.homeBytes a 8)
    if p x then some (a, x) else none

/-- The move of a page to a peer, in order (R103). -/
def State.moveOut (s : State) (ctx page peer at_ : Nat) (x : Dword) : State :=
  let old := leafPa x / 65536
  let (f, s) := s.drawFree
  let frame := f.toNat % 2 ^ 36
  let bytes := s.homeBytes (old * 65536) 65536
  let s := ((List.range 512).foldl (fun s i => s.l2Drop (old * 512 + i)) s)
  let s := s.writeLoc ⟨1, peer, 0, frame * 65536⟩ bytes (List.replicate 65536 true)
  let s := s.redirect old fun l => ⟨1, peer, l.alop, frame * 65536 + l.ra % 65536⟩
  let s := s.localStore at_ (toBytes 8 (retarget x 1 peer frame).toNat)
  let s := match s.arrival (· = 0) with
    | some (a, _) => s.localStore a (toBytes 8 (old * 65536))
    | none => s
  let s := s.dropPage (s.ctx ctx).asid page
  s.updHubs fun h => { h with mig := { h.mig with fwd := h.mig.fwd.filter (fun p => p.1 ≠ old) ++ [(old, peer, frame)] } }

/-- A page of a peer comes to a free frame of this module. -/
def State.moveIn (s : State) (ctx page at_ : Nat) (x : Dword) : State :=
  match s.arrival (· ≠ 0) with
  | none => s
  | some (a, r) =>
    let frame := r / 65536
    let bytes := s.readLoc ⟨1, leafChip x, 0, leafPa x⟩ 0 65536
    let s := (s.localStore (frame * 65536) bytes).localStore a (toBytes 8 0)
    let s := s.localStore at_ (toBytes 8 (retarget x 0 0 frame).toNat)
    let s := s.dropPage (s.ctx ctx).asid page
    s.updHubs fun h => { h with mig := { h.mig with fwd := h.mig.fwd.filter fun p => p.1 ≠ frame } }

/-- MIGRATION_MOVE (R103): a page goes to a peer; with this module's own number as the peer, a page comes here. A page with a line
that a commit or a serial turn holds does not move before the line opens (R128). A move that a
link error abandons changes nothing and counts (R413). -/
def execMigrationMove (ctx page peer : Nat) (ok : Bool) (s : State) : Out :=
  let c := s.ctx ctx
  match s.entryOf page 3 c.ptroot with
  | none => .next s
  | some at_ =>
    let x : Dword := BitVec.ofNat 64 (ofBytes (s.homeBytes at_ 8))
    let own := s.reg 0x0010
    let good := x.getLsbD 0 && x.getLsbD 1 && !(leafReserved 0 x) && leafMigr x
    let frame := leafPa x / 65536
    let key := ctx * 2 ^ 48 + page
    let moves := Tbl.get 0 s.hubs.mig.moves key
    let thr := if s.reg 0x0048 = 0 then 4096 else s.reg 0x0048
    let due := if peer = own then leafTgt x = 1
      else leafTgt x = 0 ∧ thr < s.migCount frame peer ∧ s.migCount frame own < s.migCount frame peer
    let held := leafTgt x = 0 && s.homes.locks.any fun k => k.line / 512 = frame
    if !c.on || !good || 3 ≤ moves || held || !(decide due) then .next s
    else
      let s := s.updHubs fun h => { h with mig := { h.mig with moves := Tbl.set h.mig.moves key (moves + 1) } }
      if !ok then .next s
      else if peer = own then .next (s.moveIn ctx page at_ x)
      else .next (s.moveOut ctx page peer at_ x)

/-- MIGRATION_WINDOW_END (R104). -/
def execMigrationWindowEnd (s : State) : Out :=
  let k := s.time / s.migWindow
  if k ≤ s.hubs.mig.window then .next s
  else .next (s.updHubs fun h => { h with mig := { h.mig with window := k, counts := [], moves := [] } })

/-! ## Compression (R102, R412) -/

/-- COMPRESS_WRITEBACK (R102): a dirty unit of a frame is written back, or pinned where no chunk is left. -/
def execCompressWriteback (frame unit : Nat) (s : State) : Out :=
  let k := frame * 256 + unit
  let a := frameBase + k * 256
  let dirty := (List.range 256).any fun i => s.inL2 (a + i) = some true
  if 256 ≤ unit || !(s.inFrames a) || !dirty then .next s
  else .next ((s.unitWriteback k).getD (if s.pinsFull (homeSlice a) then s else s.pinUnit k))

/-- POOL_REFILL_UNPIN (R412): free chunks exceed the larder again; the unit pinned first is written back. -/
def execPoolRefillUnpin (s : State) : Out :=
  match s.hubs.comp.pinned with
  | [] => .next s
  | (k, _) :: _ =>
    if s.freeChunks ≤ s.reg 0x0038 / 64 then .next s
    else
      let t := (s.unitWriteback k).getD s
      let sl := homeSlice (frameBase + k * 256)
      let more := t.hubs.comp.pinned.any fun p => homeSlice (frameBase + p.1 * 256) = sl
      .next (if more then t
        else t.updHubs fun h => { h with comp := { h.comp with pinSlices := h.comp.pinSlices.filter (· ≠ sl) } })

/-- COMPRESS_STALL_EXPIRY (R412): a write held for 10 ms stops its context. -/
def execCompressStallExpiry (s : State) : Out :=
  match s.hubs.comp.stalled.find? fun p => p.2 + 10000000 ≤ s.time with
  | none => .next s
  | some (id, _) =>
    let s' := s.unstall id
    match s.inFlight id with
    | none => .next s'
    | some e =>
      let addr := (e.req.loc.map (·.ra)).getD 0
      if (s.ctx e.ctx).stopped then .next s'
      else .next ((s'.postCompress 3 (some e.ctx) 3 addr).stopContext e.ctx)

/-! ## PATROL_SCRUB_READ (R411), SNAPSHOT_PAGE_COPY (R431) -/

/-- PATROL_SCRUB_READ: outcome 0 finds nothing, 1 a correctable and 2 an uncorrectable error; a write-back, made only where no
write has come between, holds the value already there. -/
def execPatrolScrubRead (sector outcome : Nat) (_wrote : Bool) (s : State) : Out :=
  let a := sector * 32
  if hbmEnd ≤ a then .next s
  else if outcome = 1 then .next (s.postModule (eccFields true a 0 false))
  else if outcome = 2 then .next ((s.poisonRange a 32).postModule (eccFields true a 2 true))
  else .next s

/-- SNAPSHOT_PAGE_COPY (R431): a protected page to which a write is on its way is copied. -/
def execSnapshotPageCopy (page : Nat) (s : State) : Out :=
  let hit (e : CellarEntry) : Bool := (e.req.loc.map fun l => decide (l.tgt = 0 ∧ l.ra / 65536 = page)).getD false
  if s.homes.flight.any hit then .next (s.snapRoom ⟨0, 0, 0, page * 65536⟩ 65536) else .next s

end Sys2Proof.Machine
end

