-- ==== Sys2Proof/Machine/Logs.lean ====
section
/-! DEFINITION. The logs: posting error and fault records (R370, R371), and the pages that records of a stopped wave wait for. -/

namespace Sys2Proof.Machine

/-! ## Logs -/

/-- A log: where it stands, its slots, bytes of a record, MSI-X vector, and the number under which its index is kept. -/
structure LogAt where
  base : Nat
  slots : Nat
  size : Nat
  vec : Nat
  key : Nat
  deriving DecidableEq, Repr

/-- The error log of a context, or the module log. -/
def State.errLog (s : State) (ctx : Option Nat) : LogAt :=
  match ctx with
  | some n => ⟨(s.ctx n).spill, 1023, 64, 2 + n, n⟩
  | none => ⟨0x8FFFFC0000, 4095, 64, 1, 64⟩

def State.faultLog (s : State) (n : Nat) : LogAt := ⟨(s.ctx n).spill + 0x10000, 2046, 32, 66 + n, 128 + n⟩

/-- Records posted to a log since CTXON or reset. -/
def State.logCount (s : State) (g : LogAt) : Nat := Tbl.get 0 s.hubs.seqs g.key
/-- WRIDX: the index of the next record. -/
def State.wrIdx (s : State) (g : LogAt) : Nat := s.logCount g % (2 * g.slots)
/-- The RDIDX that the device went by last. -/
def State.rdKept (s : State) (g : LogAt) : Nat := Tbl.get 0 s.hubs.seqs (1000 + g.key)

/-- Records from one index up to another. -/
def LogAt.span (g : LogAt) (a b : Nat) : Nat := (b + 2 * g.slots - a) % (2 * g.slots)

/-- LOST rises, saturating, and LOSTSEV is the highest severity lost. -/
def State.addLost (s : State) (g : LogAt) (n sev : Nat) : State :=
  if n = 0 then s
  else
    let b := s.homeBytes (g.base + 8) 5
    s.localStore (g.base + 8) (toBytes 4 (min 0xFFFFFFFF (leAt b 0 4 + n)) ++ toBytes 1 (max (byteAt b 4) sev))

/-- The device goes by RDIDX; a value out of range, or past WRIDX, counts as WRIDX, and the records passed are lost. -/
def State.readIdx (s : State) (g : LogAt) : Nat × State :=
  let w := s.wrIdx g
  let r0 := s.rdKept g
  let r := leAt (s.homeBytes (g.base + 4) 4) 0 4
  let ok := r < 2 * g.slots ∧ g.span r0 r ≤ g.span r0 w
  let r' := if ok then r else w
  let s := if ok then s else s.addLost g (g.span r0 w) 0
  (r', s.updHubs fun h => { h with seqs := Tbl.set h.seqs (1000 + g.key) r' })

/-- A record is written in its slot, then WRIDX; the message follows. -/
def State.putRecord (s : State) (g : LogAt) (b : List Byte) : State :=
  let i := s.logCount g
  let s := s.localStore (g.base + 64 + g.size * (i % g.slots)) b
  let s := s.updHubs fun h => { h with seqs := Tbl.set h.seqs g.key (i + 1) }
  (s.localStore g.base (toBytes 4 (s.wrIdx g))).sendMsix g.vec

/-- The 64 bytes of an error record with its number and check (R368). -/
def sealRecord (b : List Byte) (i : Nat) : List Byte :=
  let r := padTo 56 b ++ toBytes 4 i
  r ++ toBytes 4 (crc32c r)

/-- An error record is posted, or lost where its log is full. -/
def State.putError (s : State) (e : ErrRec) : State :=
  let g := s.errLog e.ctx
  let (r, s) := s.readIdx g
  if g.span r (s.wrIdx g) = g.slots then s.addLost g 1 (byteAt e.bytes 1)
  else s.putRecord g (sealRecord e.bytes (s.logCount g))

/-- The first error record that waits is posted. -/
def State.postHead (s : State) : State :=
  match s.hubs.errQ with
  | [] => s
  | e :: rest => (s.updHubs fun h => { h with errQ := rest }).putError e

/-- Every error record that waits is posted. -/
def State.postAll (s : State) : State := s.hubs.errQ.foldl (fun s _ => s.postHead) s

/-- ERROR_RECORD_POST (R370); during a takeover records wait (R438). -/
def execErrorRecordPost (s : State) : Out :=
  if s.hubs.sched.takeover.isSome then .next s else .next s.postHead

/-- The queue without the first `n` records of a context. -/
def dropFaults (ctx : Nat) : Nat → List FaultRec → List FaultRec
  | 0, q => q
  | _, [] => []
  | n + 1, f :: t => if f.ctx = ctx then dropFaults ctx n t else f :: dropFaults ctx (n + 1) t

/-- The first group of a context's fault records is posted, where its log has room for the whole of it. -/
def State.postGroupOf (s : State) (ctx : Nat) : Option State :=
  let own := s.hubs.faultQ.filter fun f => f.ctx = ctx
  let n := max 1 (((own.head?.map fun f => byteAt f.bytes 11).getD 0) % 64)
  let g := s.faultLog ctx
  let (r, s') := s.readIdx g
  if own = [] || g.slots < g.span r (s'.wrIdx g) + n then none
  else
    let s' := s'.updHubs fun h => { h with faultQ := dropFaults ctx n h.faultQ }
    some ((own.take n).foldl (fun s f => s.putRecord g f.bytes) s')

/-- FAULT_RECORD_POST (R371): a group is posted once its log has room. -/
def execFaultRecordPost (s : State) : Out :=
  if s.hubs.sched.takeover.isSome then .next s
  else .next (((s.hubs.faultQ.map (·.ctx)).eraseDups.findSome? s.postGroupOf).getD s)

end Sys2Proof.Machine
end

