-- ==== Sys2Proof/Machine/Strike.lean ====
section
/-! DEFINITION. Device-fatal errors and reset, the scheduler's takeover, strikes, datapath checkers, and the replay of launches
(R15, R20, R22, R218, R220, R366, R371, R378 to R394, R399, R431 to R438, R441). -/

namespace Sys2Proof.Machine

/-! ## DEVICE_FATAL (R371), MODULE_RESET (R20, R218, R220), FATAL_GRACE_EXPIRY -/

/-- BOOTST (Table 10.2). -/
def bootWord (st code : Nat) : Dword := BitVec.ofNat 64 (st + 256 * code)

/-- A device-fatal error: its record is in the module log, BOOTST reads 3, and 10 ms are left. -/
def State.goFatal (s : State) (e : ErrFields) : State :=
  if s.hubs.fatal.isSome then s
  else
    let s := (s.postModule { e with sev := 4 }).postAll
    s.updHubs fun h => { h with fatal := some (s.time + 10000000), bar0 := Tbl.set h.bar0 0x0008 (bootWord 3 0) }

/-- DEVICE_FATAL (R371): an error of a class that no rung below contains. -/
def execDeviceFatal (cls detail : Nat) (s : State) : Out :=
  if cls = 0 ∨ 15 < cls then .next s
  else .next (s.goFatal { cls := cls, die := 96 + s.hubs.sched.hub, detail := toBytes 1 detail })

/-- The module after any reset (R20): what the outside holds stays. -/
def State.afterReset (s : State) : State :=
  { State.reset with agenda := s.agenda, freeCtr := s.freeCtr, homes := { host := s.homes.host, peer := s.homes.peer },
                     hubs := { State.reset.hubs with bigBlocks := s.hubs.bigBlocks } }

/-- A fused vendor key that is not revoked signed the digest of the image's body (R218). -/
def signedByVendor (image sig : List Byte) : Bool :=
  ([0, 1, 2, 3] : List (Fin 4)).any fun i =>
    !(Config.vendorRevoked i) && edVerify (toBytes 32 (Config.vendorKey i).toNat) (sha512 image) sig

/-- The boot ROM loads the image that stands in the boot flash, checks it and measures it, and the module runs; else BOOTST reads
recovery (R218, R220). -/
def State.bootFrom (s : State) (b : BootImage) : State :=
  let good := signedByVendor b.body b.sig
  let st (st code : Nat) : State :=
    s.updHubs fun h => { h with boot := some b, bar0 := Tbl.set h.bar0 0x0008 (bootWord st code) }
  if good ∧ Config.rollback.toNat ≤ b.svn then (st 1 0).updHubs fun h => { h with meas := sha512 b.body, svn := b.svn }
  else st 2 (Config.bootFailure (if good then 1 else 0)).toNat

/-- FATAL_GRACE_EXPIRY (R371): a reset, at which the boot ROM loads the image again; while no image has been named the module is
booting. -/
def execFatalGraceExpiry (s : State) : Out :=
  match s.hubs.fatal with
  | some t =>
    if t ≤ s.time then
      .next (match s.hubs.boot with | some b => s.afterReset.bootFrom b | none => s.afterReset)
    else .next s
  | none => .next s

/-- MODULE_RESET (R20, R218, R220): a reset with an image in the boot flash. -/
def execModuleReset (image sig : List Byte) (svn : Nat) (s : State) : Out := .next (s.afterReset.bootFrom ⟨image, sig, svn⟩)

/-- THERMAL_OVERSTAY_EXPIRY (R22): a die above its limit for 100 ms. -/
def execThermalOverstayExpiry (die : Nat) (s : State) : Out :=
  match (s.die die).clk.hotSince with
  | some t =>
    if t + 100000000 ≤ s.time then .next (s.goFatal { cls := 13, die := die, site := 0, detail := [0#8, BitVec.ofNat 8 die] })
    else .next s
  | none => .next s

/-- UCIE_UNRECOVERABLE (R441). -/
def execUcieUnrecoverable (die : Nat) (s : State) : Out := .next (s.goFatal { cls := 7, die := die, site := 0 })

/-- TIMER_FAILOVER (R15): hub 1's reference timer is the master. -/
def execTimerFailover (s : State) : Out := .next (s.updHubs fun h => { h with timerHub := 1 })

/-! ## Takeover (R436 to R438, R390) -/

/-- A CP record (Table 22.5) of an event at a time. -/
def State.postCp (s : State) (hub core event entries duration at_ : Nat) : State :=
  s.postModule { cls := 12, die := 96 + hub, site := 8, index := core, time := some at_,
                 detail := detailOf [(0, toBytes 1 event), (4, toBytes 4 entries), (8, toBytes 8 duration)] }

def State.updSched (s : State) (f : Sched → Sched) : State := s.updHubs fun h => { h with sched := f h.sched }

/-- A takeover begins; where no standby core is left it is device-fatal. -/
def State.beginTakeover (s : State) : State :=
  let c := s.hubs.sched
  if c.takeover.isSome || !c.standby then s.goFatal { cls := 12, die := 96 + c.hub, site := 8 }
  else s.updSched fun c => { c with takeover := some s.time }

/-- HEARTBEAT_WRITE (R437): by the active core. -/
def execHeartbeatWrite (s : State) : Out :=
  if s.hubs.sched.takeover.isSome then .next s else .next (s.updSched fun c => { c with heartbeat := s.time })

/-- HEARTBEAT_TIMEOUT (R437): 100 ms since the last heartbeat. -/
def execHeartbeatTimeout (s : State) : Out :=
  let c := s.hubs.sched
  if c.takeover.isSome ∨ s.time < c.heartbeat + 100000000 then .next s
  else .next ((s.postCp c.hub 0 2 0 0 s.time).beginTakeover)

/-- A mailbox operation that has begun runs again from its start; FLASHXFER goes on (R437). -/
def Mbox.again (m : Mbox) : Mbox := if m.op = 4 then m else { m with stage := 0, n := 0 }

/-- SCHEDULER_TAKEOVER (R437): the standby core is the scheduler; what was held is done in order. The record names the core that
trapped, and when (Table 23.5). -/
def execSchedulerTakeover (s : State) : Out :=
  let c := s.hubs.sched
  match c.takeover with
  | none => .next s
  | some t =>
    let (n, s) := s.drawFree
    let s := s.updHubs fun h =>
      { h with sched := { h.sched with hub := 1 - c.hub, standby := false, takeover := none, kicks := [], pend := [], heartbeat := s.time },
               mbox := h.mbox.again, flash := if h.mbox.op = 5 then {} else h.flash }
    let s := c.pend.foldl (fun s p => s.subLevels p.1 p.2.1 p.2.2) s
    let kicked := (List.range 64).filter fun n => c.kicks.contains n && (s.ctx n).on && !(s.ctx n).stopped
    let s := kicked.foldl (fun s n => s.ringRun n (s.reg (doorbellAt n))) s
    .next (s.postCp c.hub 0 1 (n.toNat % 2 ^ 32) (s.time - t) t)

/-- CP_CORE_RESTART (R390): a core that was struck runs again; the standby core is one again. -/
def execCpCoreRestart (s : State) : Out :=
  match s.hubs.sched.restarting with
  | [] => .next s
  | (hub, core, _) :: rest =>
    let back (c : Sched) : Sched :=
      { c with restarting := rest, standby := c.standby || (hub = 1 && core = 0 && c.hub = 0) }
    .next ((s.updSched back).postCp hub core 4 0 0 s.time)

/-! ## Strikes (R378 to R390, R399) -/

/-- STRIKE_REPORT_CORE (R382, R383, R386). -/
def execStrikeReportCore (core tsEst det : Nat) (s : State) : Out :=
  if noCore ≤ core then .next s
  else
    let c := s.core core
    let die := dieOfCore core
    let scope := s.coreScope core
    let (s, ts) := (s.discardCore core).takeScope scope
    let s := s.updCore core fun c => { c with frozen := true, scrub := some (s.time + 20000) }
    let site := strikeFields die 1 (core % 16) s.time tsEst det 0 c.cellar.length c.dirtyBytes
    let s := s.postErr { site with sev := (ts.map (·.sev)).foldl max 0 }
    .next (ts.foldl (fun s t => s.postTaken (strikeFields die 1 (core % 16) s.time tsEst det t.sev 0 0) t) s)

/-- CORE_SCRUB_END (R386, R394). -/
def execCoreScrubEnd (core : Nat) (ok : Bool) (s : State) : Out :=
  if (s.core core).scrub.isNone then .next s
  else
    let s := s.updCore core fun c => { c with scrub := none, frozen := false, banks := [], retired := c.retired || !ok }
    if ok then .next s
    else .next (s.postErr { strikeFields (dieOfCore core) 1 (core % 16) s.time 0 0 0 0 0 with flags := 8 })

/-- A copy, or an engine's command, is made to fail at its next turn. -/
def State.failCmd (s : State) (id : Nat) : State :=
  let f (k : Copy) : Copy := if k.id = id then k.broken else k
  (s.updCmd id fun c => { c with role := 1, waiting := false }).mapParts (fun c => { c with copies := c.copies.map f }) fun d => d

/-- A line is homed in a slice quadrant of a die. -/
def homedIn (die quadrant line : Nat) : Bool := homeSlice (line * 128) / 2 = die && lineQuadrant (line * 128) = quadrant

/-- STRIKE_REPORT_SLICE (R388): the quadrant's scrub begins, and the copies and commands that have a write in flight to a line of it
fail. -/
def execStrikeReportSlice (die quadrant tsEst det : Nat) (s : State) : Out :=
  if 84 ≤ die ∨ 8 ≤ quadrant then .next s
  else
    let there (e : CellarEntry) : Bool :=
      e.cmd ≠ 0 && (e.req.loc.map fun l => decide (l.tgt = 0) && homedIn die quadrant (l.ra / 128)).getD false
    let s := (((s.homes.flight.filter there).map (·.cmd)).eraseDups).foldl State.failCmd s
    .next (s.updDie die fun d => { d with scrubs := Tbl.set d.scrubs quadrant (s.time + 50000, s.time, tsEst, det) })

/-- One line that a scrub could not correct: invalidated where it is clean, poisoned where it is dirty. -/
def State.scrubLine (s : State) (a : Nat) : State :=
  let dirty := (List.range 128).filter fun i => s.inL2 (a + i) = some true
  if dirty = [] then (s.l2Forget a).postModule (eccFields false a 1 false)
  else (((dirty.map (· / 32)).eraseDups).foldl (fun s k => s.poisonRange (a + 32 * k) 32) s).postModule (eccFields false a 2 true)

/-- Writes that wait at the home of a line. -/
def State.waitingAt (s : State) (line : Nat) : List CellarEntry :=
  s.homes.flight.filter fun e => match e.req with | .write l _ _ => l.tgt = 0 && l.alop = 0 && l.ra / 128 = line | _ => false

/-- A waiting write that failed its check poisons the bytes that it would have written, and is dropped (R388). -/
def State.poisonWrite (s : State) (e : CellarEntry) : State :=
  match e.req with
  | .write l b mask =>
    let hit := (((List.range b.length).filter fun i => mask.getD i false).map fun i => (l.ra + i) / 32).eraseDups
    let s := hit.foldl (fun s k => s.poisonRange (32 * k) 32) (s.landed e.id)
    s.postModule (eccFields false (l.ra / 128 * 128) 2 true)
  | _ => s

/-- SLICE_SCRUB_END (R388): `bad` are the lines, by their real address over 128, that were not corrected; of a line that the L2 does not
hold, the writes that wait there were not. -/
def execSliceScrubEnd (die quadrant : Nat) (bad : List Nat) (s : State) : Out :=
  match Tbl.find (s.die die).scrubs quadrant with
  | none => .next s
  | some (_, td, ts, det) =>
    let mine := (bad.filter (homedIn die quadrant)).eraseDups
    let ls := mine.filter fun l => (Tbl.find s.homes.l2 l).isSome
    let ws := (mine.filter fun l => (Tbl.find s.homes.l2 l).isNone).flatMap s.waitingAt
    let dirty (l : Nat) : Bool := (List.range 128).any fun i => s.inL2 (l * 128 + i) = some true
    let n := (ls.filter dirty).length + ((ws.filterMap fun e => e.req.loc).map (·.ra / 128)).eraseDups.length
    let s := ws.foldl State.poisonWrite s
    let s := ls.foldl (fun s l => s.scrubLine (l * 128)) s
    let s := s.updDie die fun d => { d with scrubs := Tbl.del d.scrubs quadrant }
    .next (s.postErr (strikeFields die 2 quadrant td ts det 0 0 n))

/-- STRIKE_REPORT_ROUTER (R389): corrected where every resend succeeds; else a link of the mesh has failed (R441). -/
def execStrikeReportRouter (die router tsEst det : Nat) (ok : Bool) (s : State) : Out :=
  let s := s.postErr (strikeFields die 3 router s.time tsEst det 0 0 0)
  if ok then .next s else .next (s.goFatal { cls := 7, die := die, site := 3, index := router })

/-- Operating-point requests that the management core holds are discarded (R390). -/
def State.dropSteps (s : State) : State :=
  s.mapParts (fun c => c) fun d => { d with clk := { d.clk with held := none } }

/-- STRIKE_REPORT_HUB (R390): site 8 a CP core, 6 a link port or the PCIe port, 9 the rest. -/
def execStrikeReportHub (hub site index tsEst det : Nat) (s : State) : Out :=
  let f := strikeFields (96 + hub) site index s.time tsEst det 0 0 0
  if 2 ≤ hub then .next s
  else
    match site with
    | 8 =>
      let c := s.hubs.sched
      let s := s.postErr f
      if index = 0 ∧ hub = c.hub then .next s.beginTakeover
      else
        let down (c : Sched) : Sched :=
          { c with restarting := c.restarting ++ [(hub, index, s.time + 5000000)],
                   standby := c.standby && !(hub = 1 && index = 0) }
        .next (if hub = 0 ∧ index = 1 then (s.updSched down).dropSteps else s.updSched down)
    | 6 => .next (s.postErr f)
    | 9 => .next (s.goFatal f)
    | _ => .next s

/-! ## PIPE_CHECK_MISMATCH (R393, R394) -/

/-- A PIPE_CHK record. -/
def pipeFields (core checker pipe quad count opcode : Nat) : ErrFields :=
  { cls := 2, trap := 0x0B, die := dieOfCore core, site := 1, index := core % 16, sub := quad,
    detail := detailOf [(0, toBytes 1 checker), (1, toBytes 1 pipe), (2, toBytes 1 quad), (3, toBytes 1 count), (4, toBytes 2 opcode)] }

/-- PIPE_CHECK_MISMATCH (R393): `unit` is the unit whose instruction was checked, or, for the engine datapath, the command. -/
def execPipeCheckMismatch (core unit checker pipe quad opcode : Nat) (s : State) : Out :=
  if pipe = 6 then
    match s.cmdHeld unit with
    | some c =>
      let e := { pipeFields 0 checker 6 0 0 0xFFFF with trap := 0, die := c.die, site := 7, index := c.index }
      .next ((s.failCmd unit).postModule e)
    | none => .next ((s.failCmd unit).postModule { pipeFields core checker 6 0 0 0xFFFF with trap := 0, site := 7, index := 3, sub := core % 16 })
  else
    let (n, retire, s) := s.coreEvent core
    let e := pipeFields core checker pipe quad n opcode
    let e := if retire then { e with flags := 8 } else e
    let mine := ((s.unit unit).map fun u => decide (u.core = core ∧ u.stat ≠ .saved)).getD false
    let s :=
      if mine then
        let (s, ts) := s.takeScope [unit]
        ts.foldl (fun s t => s.postTaken e t) s
      else s.postModule { e with trap := 0 }
    .next (if retire then s.retireCore core { e with trap := 0 } else s)

/-! ## LAUNCH_REPLAY (R433, R434, R435) -/

/-- What a replay waits for: every write of the launch applied, and no command of its units left (steps 1 and 3). -/
def State.replayReady (s : State) (lid : Nat) : Bool :=
  let mine (c : EngCmd) : Bool := c.lid = lid && c.card.isNone && c.kind ≠ 5
  s.lidQuiet lid && !(s.dies.any fun p => p.2.merge.any mine) && !(s.queues.nmQ.any mine)

/-- A snapshot page is copied back to its real address (step 4). -/
def State.restorePage (s : State) (p : SnapPage) : State :=
  match p.copy with
  | none => s
  | some (bytes, bad) =>
    let s := s.localStore (p.page * 65536) bytes
    s.updHomes fun h => { h with poison := h.poison ++ bad.filter fun x => !(h.poison.contains x) }

/-- LAUNCH_REPLAY (R433): steps 4 to 6 of a replay that has been begun. -/
def execLaunchReplay (s : State) : Out :=
  match s.queues.launches.find? fun p => p.2.replaying.isSome && s.replayReady p.1 with
  | none => .next s
  | some (lid, l) =>
    let s := (s.homes.snaps.filter fun p => p.lid = lid).foldl State.restorePage s
    let s := s.setLaunch lid { l with replaying := none, replays := l.replays + 1, errs := [], left := l.units, cancelled := false }
    let s := (s.writeReplay lid).updHubs fun h =>
      { h with errQ := h.errQ ++ l.errs }
    match s.card l.ctx l.card with
    | some c => if s.cardCancelled c then .next (s.endCard l.ctx l.card 5) else .next (s.repost c)
    | none => .next s

end Sys2Proof.Machine
end

