-- ==== Sys2Proof/Machine/Links.lean ====
section
/-! DEFINITION. The Kalpafer link ports and the requests of peers (R89, R103, R208 to R211, R440, R443). -/

namespace Sys2Proof.Machine

def State.port (s : State) (i : Nat) : Port := Tbl.get {} s.hubs.ports i
def State.updPort (s : State) (i : Nat) (f : Port → Port) : State :=
  s.updHubs fun h => { h with ports := Tbl.set h.ports i (f (s.port i)) }

/-- A LINK record of a port (Table 22.5). -/
def State.postLink (s : State) (i event cause : Nat) : State :=
  s.postModule { cls := 7, die := 96 + i / 8, site := 6, index := i,
                 detail := detailOf [(0, toBytes 1 event), (1, toBytes 1 cause), (2, toBytes 2 (s.port i).peer)] }

/-- LINKST (Table 10.4). -/
def Port.word (p : Port) : Nat := placeN p.state 0 2 + placeN (boolN p.cmpok) 2 1 + placeN p.peer 3 10 + placeN p.recov 16 16

/-- A port enters RECOVERING (R440). -/
def State.recover (s : State) (i cause : Nat) : State :=
  let s := s.updPort i fun p =>
    { p with state := 3, recov := min 0xFFFF (p.recov + 1), since := s.time, resends := 0, fec := [] }
  s.postLink i 1 cause

/-- A port that is DOWN starts to train. -/
def State.linkTrain (s : State) (i : Nat) : State :=
  if 16 ≤ i ∨ (s.port i).state ≠ 0 then s else s.updPort i fun p => { p with state := 1 }

/-- LINK_TRAINING_COMPLETE (R211). -/
def execLinkTrainingComplete (port peer : Nat) (cmpok : Bool) (s : State) : Out :=
  if 16 ≤ port ∨ 1024 ≤ peer ∨ 2 ≤ (s.port port).state then .next s
  else .next (s.updPort port fun p => { p with state := 2, peer := peer, cmpok := cmpok })

/-- A flit of 256 bytes whose last four are the CRC-32C of the others (R208). -/
def flitOk (flit : List Byte) : Bool := flit.length = 256 && leAt flit 252 4 = crc32c (flit.take 252)

/-- LINK_FLIT_RECEIVE (R208, R440): a failing flit is dropped and asked for again, a flit already accepted is dropped. Three failed
resends of one flit, or more than 16 failing flits in 1 ms, make the port recover. At a release frame the port advances its
component (R117). The spec does not say where a flit holds its sequence number and what it carries. -/
def execLinkFlitReceive (port seq : Nat) (flit : LinkFlit) (s : State) : Out :=
  let p := s.port port
  if 16 ≤ port ∨ p.state ≠ 2 then .next s
  else if flitOk flit.bytes then
    if seq = p.rxSeq then
      let s := s.updPort port fun p => { p with rxSeq := p.rxSeq + 1, resends := 0 }
      .next (if flit.frame then s.portAdvance (98 + port) else s)
    else .next s
  else
    let fec := (p.fec.filter fun t => s.time < t + 1000000) ++ [s.time]
    let n := if seq = p.rxSeq then p.resends + 1 else p.resends
    if 4 ≤ n then .next (s.recover port 1)
    else if 16 < fec.length then .next (s.recover port 2)
    else .next (s.updPort port fun p => { p with fec := fec, resends := n })

/-- LINK_FLOW_STOP (R210). -/
def execLinkFlowStop (port vc : Nat) (s : State) : Out :=
  if 16 ≤ port ∨ 4 ≤ vc then .next s
  else .next (s.updPort port fun p => { p with stopped := if p.stopped.contains vc then p.stopped else p.stopped ++ [vc] })

/-- LINK_FLOW_GO (R210). -/
def execLinkFlowGo (port vc : Nat) (s : State) : Out :=
  if 16 ≤ port ∨ 4 ≤ vc then .next s
  else .next (s.updPort port fun p => { p with stopped := p.stopped.filter (· ≠ vc) })

/-- LINK_RETRAIN_COMPLETE (R440). -/
def execLinkRetrainComplete (port : Nat) (s : State) : Out :=
  if 16 ≤ port ∨ (s.port port).state ≠ 3 then .next s
  else .next ((s.updPort port fun p => { p with state := 2, stopped := [] }).postLink port 2 0)

/-- LINK_RETRAIN_TIMEOUT (R440): not UP within 2 s. -/
def execLinkRetrainTimeout (port : Nat) (s : State) : Out :=
  let p := s.port port
  if 16 ≤ port ∨ p.state ≠ 3 ∨ s.time < p.since + 2000000000 then .next s
  else .next ((s.updPort port fun p => { p with state := 0 }).postLink port 3 3)

/-! ## PEER_REQUEST_ARRIVE (R89, R103) -/

/-- What a peer's request asks for: 0 reads; 1 writes; 2 to 10 alias stores, operation 2 to 4 by element type 0 to 2; 16 to 255
atomics, code by size; 256 and 257 compare-and-swap of 4 and 8 bytes; 258 and 259 read and write a compressed block. -/
inductive PeerOp where
  | read
  | write
  | alop (op mxf : Nat)
  | atom (code n : Nat)
  | cas (n : Nat)
  | readBlock
  | writeBlock
  | none
  deriving DecidableEq, Repr

def peerOp (op : Nat) : PeerOp :=
  if op = 0 then .read
  else if op = 1 then .write
  else if op ≤ 10 then .alop (2 + (op - 2) % 3) ((op - 2) / 3)
  else if 16 ≤ op ∧ op < 256 then .atom ((op - 16) / 2) (if op % 2 = 0 then 4 else 8)
  else if op = 256 ∨ op = 257 then .cas (if op = 256 then 4 else 8)
  else if op = 258 then .readBlock
  else if op = 259 then .writeBlock
  else .none

/-- The request is answered on the response channel. -/
def PeerOp.answers (op : PeerOp) : Bool :=
  match op with | .read | .atom _ _ | .cas _ | .readBlock => true | _ => false

/-- Bytes that a request acts on. -/
def PeerOp.size (op : PeerOp) (data : List Byte) : Nat :=
  match op with
  | .read => 32
  | .atom _ n => n
  | .cas n => n
  | .readBlock | .writeBlock => 256
  | _ => max 1 data.length

/-- The alias op of the full physical address and the request fit one another (R82, R89), and a block goes over a link whose peer
advertised blocks (R102). -/
def PeerOp.fits (op : PeerOp) (al addr : Nat) (cmpok : Bool) : Bool :=
  match op with
  | .read => al ≤ 5
  | .write => al = 0 || al = 5
  | .alop k _ => al = 0 || al = k
  | .atom _ _ | .cas _ => al = 0
  | .readBlock | .writeBlock => al = 0 && cmpok && frameBase ≤ addr && addr % 256 = 0
  | .none => false

/-- A compressed block written over unit `k`: it is expanded at its home, and one that fails its check poisons the unit (R102,
R408). -/
def State.putBlock (s : State) (k : Nat) (data : List Byte) : State :=
  let a := frameBase + k * 256
  let s := s.snapRoom ⟨0, 0, 0, a⟩ 256
  match expandBlock (leAt data 0 8) (ofBytes (data.drop 8)) with
  | some b =>
    let s := s.localStore a b
    if bitOf (leAt data 0 8) 6 then s.poisonRange a 256 else s
  | none => ((s.localStore a (List.replicate 256 0#8)).poisonRange a 256).postCompress 0 Option.none 4 a

/-- A request of a peer performed at a location of the module or, forwarded, of another chip. -/
def State.peerServe (s : State) (l : Loc) (op : PeerOp) (data : List Byte) : State :=
  let put (s : State) (b : List Byte) : State := (s.snapRoom l b.length).writeLoc l b (List.replicate b.length true)
  let swap (cas : Bool) (code n cmp b : Nat) : State :=
    let s := s.meet l n
    match atomStore cas code n (ofBytes (s.readLoc l 0 n)) cmp b with
    | some x => put s (toBytes n x)
    | .none => s
  match op with
  | .read => (s.meet l 32).readyLoc l
  | .write => put s data
  | .alop k mxf => (s.snapRoom l data.length).alopStore { l with alop := k } mxf (elemWords data)
  | .atom code n => swap false code n 0 (leAt data 0 n)
  | .cas n => swap true 0 n (leAt data 0 n) (leAt data n n)
  | .readBlock => s
  | .writeBlock => s.putBlock ((l.ra - frameBase) / 256) data
  | .none => s

/-- The port of a peer that a request for an address comes by. -/
def State.portFrom (s : State) (peer a : Nat) : Option Nat :=
  let ps := (List.range 16).filter fun i => s.portState i = 2 && (s.port i).peer = peer
  ps[a / 4096 % 2 ^ 40 % max 1 ps.length]?

/-- Where a peer's request lands, and whether it is forwarded: a page that moved away has its requests forwarded (R103). -/
def State.peerPlace (s : State) (addr : Nat) : Loc × Bool :=
  let al := addr / 2 ^ 52 % 16
  let a := addr % 2 ^ 52
  match s.hubs.mig.fwd.find? fun p => p.1 = a / 65536 with
  | some (_, chip, frame) => (⟨1, chip, al, frame * 65536 + a % 65536⟩, true)
  | none => (⟨0, 0, al, a⟩, false)

/-- A request waits at its home, for its way on, or for the response channel of its port. -/
def State.peerHeld (s : State) (r : PeerReq) : Bool :=
  let op := peerOp r.op
  let (l, far) := s.peerPlace r.addr
  (op.answers && (s.port r.port).stopped.contains 1)
    || (if far then s.wayStops l else s.homeWaits l (op.size r.data))

/-- A request of a peer is served, or forwarded, or, where no way leads on, abandoned (R406). -/
def State.peerGo (s : State) (r : PeerReq) : State :=
  let (l, far) := s.peerPlace r.addr
  if far && s.wayOf l = .none then s.postAbandoned l.chip
  else if far then s.peerServe l (peerOp r.op) r.data
  else (s.countPage (l.ra / 65536) r.peer).peerServe l (peerOp r.op) r.data

/-- Requests that a port's buffer holds. -/
def State.peerCount (s : State) (port : Nat) : Nat := (s.hubs.peerQ.filter fun r => r.port = port).length

/-- STOP is sent when a channel holds 48 flits, GO when it falls to 16 (R210). -/
def State.peerMarks (s : State) (port : Nat) : State :=
  let n := s.peerCount port
  if 48 ≤ n then s.updPort port fun p => { p with stopSent := if p.stopSent.contains 0 then p.stopSent else p.stopSent ++ [0] }
  else if n ≤ 16 then s.updPort port fun p => { p with stopSent := p.stopSent.filter (· ≠ 0) }
  else s

/-- The first request of a port that waits no longer is served. -/
def State.peerNext (s : State) : Option State :=
  let first (r : PeerReq) : Bool := (s.hubs.peerQ.find? fun x => x.port = r.port) = some r
  match s.hubs.peerQ.find? fun r => first r && !(s.peerHeld r) with
  | none => none
  | some r => some ((((s.updHubs fun h => { h with peerQ := h.peerQ.erase r }).peerGo r)).peerMarks r.port)

/-- PEER_REQUEST_ARRIVE (R89, R103, R210): an untranslated request of a peer, with its full physical address, comes by a port that is
UP. It is served at its home at once, or waits in the port's buffer of 64 behind those before it. One to an address that Table 4.3
reserves, or that no access under its alias op may make, is dropped (DESIGN CHOICE, log entry 53). -/
def execPeerRequestArrive (peer addr op : Nat) (data : List Byte) (s : State) : Out :=
  let a := addr % 2 ^ 52
  match s.portFrom peer a with
  | none => .next s
  | some i =>
    let r : PeerReq := ⟨i, peer, addr, op, data⟩
    if s.hubs.fatal.isSome || s.inRecovery || 2 ^ 56 ≤ addr || !(s.realOk a)
        || !((peerOp op).fits (addr / 2 ^ 52) a (s.port i).cmpok) then .next s
    else if s.peerCount i = 0 && !(s.peerHeld r) then .next (s.peerGo r)
    else if 64 ≤ s.peerCount i then .next s
    else .next ((s.updHubs fun h => { h with peerQ := h.peerQ ++ [r] }).peerMarks i)

end Sys2Proof.Machine
end

