-- ==== Sys2Proof/Machine/Host.lean ====
section
/-! DEFINITION. The host's side: BAR2, the module registers of BAR0, error injection (R203 to R207, R210, R222, R442). -/

namespace Sys2Proof.Machine

/-! ## BAR2_ACCESS (R204, R410) -/

/-- BAR2_ACCESS: a host write, or a read of as many bytes as `data` has, through the home slices. Compressed frame space is not
reached; reserved addresses drop writes. After a device-fatal error only reads are served, and in recovery nothing (R218). -/
def execBar2Access (write : Bool) (addr : Nat) (data : List Byte) (s : State) : Out :=
  let l : Loc := ⟨0, 0, 0, addr⟩
  let n := data.length
  if n = 0 || hbmEnd < addr + n || s.inRecovery || s.homeWaits l n then .next s
  else if write then
    if s.hubs.fatal.isSome then .next s else .next ((s.snapRoom l n).writeLoc l data (List.replicate n true))
  else
    let s := s.meetAll l n
    if s.poisoned addr n then .next (s.postModule { cls := 6, addr := addr, detail := detailOf [(0, toBytes 1 3)] }) else .next s

/-- What a read of BAR2 answers: all ones where a sector is poisoned, zero at reserved addresses. -/
def State.bar2Read (s : State) (addr n : Nat) : List Byte :=
  if s.poisoned addr n then List.replicate n 0xFF#8
  else (List.range n).map fun i => if addr + i < hbmEnd then s.homeByte (addr + i) else 0#8

/-! ## INJCTL_WRITE (R442) -/

/-- A write of INJCTL: ignored with a reserved KIND or a reserved bit. FIRED is cleared by a write with ARM 1. -/
def State.writeInjctl (s : State) (val : Dword) : State :=
  let x := val.toNat
  let kind := injKind x
  let old := s.reg 0x0F08
  if kind = 0 ∨ 7 ≤ kind ∨ bitsOf x 2 2 ≠ 0 ∨ bitsOf x 16 48 ≠ 0 then s
  else
    let fired := if bitOf x 0 then 0 else bitsOf old 1 1
    let new := placeN x 0 1 + placeN fired 1 1 + placeN kind 4 4 + placeN (bitsOf x 8 8) 8 8
    s.updHubs fun h => { h with bar0 := Tbl.set h.bar0 0x0F08 (BitVec.ofNat 64 new) }

def execInjctlWrite (val : Dword) (s : State) : Out := .next (s.writeInjctl val)

/-! ## MBSTAT (R207) -/

/-- MBSTAT's bits: BUSY 0, OVERRUN 1, CODE, RESULT. -/
def State.setMbstat (s : State) (busy overrun : Bool) (code result : Nat) : State :=
  let x := boolN busy + 2 * boolN overrun + placeN code 8 8 + placeN result 32 32
  s.updHubs fun h => { h with bar0 := Tbl.set h.bar0 0x1048 (BitVec.ofNat 64 x) }

def State.overrun (s : State) : Bool := bitOf (s.reg 0x1048) 1

/-- A write of 0 clears OVERRUN. -/
def State.writeMbstat (s : State) (val : Dword) : State :=
  if val = 0 then s.updHubs fun h => { h with bar0 := Tbl.set h.bar0 0x1048 (BitVec.ofNat 64 (s.reg 0x1048 - 2 * boolN s.overrun)) } else s

/-- MBSTAT_WRITE (R207). -/
def execMbstatWrite (val : Dword) (s : State) : Out := .next (s.writeMbstat val)

/-- A mailbox operation ends: CODE and RESULT, BUSY cleared, MSI-X vector 0. -/
def State.mboxEnd (s : State) (code result : Nat) : State :=
  let s := s.setMbstat false s.overrun code result
  let s := s.journal
  (s.updHubs fun h => { h with mbox := {} }).sendMsix 0

/-- A write to MBGO: while BUSY it sets OVERRUN, whatever its value; else a write of 1 sets BUSY and the command is taken. -/
def State.writeMbgo (s : State) (val : Dword) : State :=
  if s.reg 0x0008 % 16 ≠ 1 then s
  else if s.hubs.mbox.busy then s.updHubs fun h => { h with bar0 := Tbl.set h.bar0 0x1048 (BitVec.ofNat 64 (s.reg 0x1048 ||| 2)) }
  else if !(val.getLsbD 0) then s
  else
    let args := (List.range 8).flatMap fun i => toBytes 8 (s.reg (0x1000 + 8 * i))
    let s := s.journal.setMbstat true s.overrun 0 0
    let s := s.updHubs fun h => { h with mbox := { busy := true, op := byteAt args 0, args := args } }
    if 1 ≤ byteAt args 0 ∧ byteAt args 0 ≤ 6 then s else s.mboxEnd 1 0

/-! ## BAR0_REGISTER_WRITE (R205, R206) -/

def State.setReg (s : State) (off val : Nat) : State :=
  s.updHubs fun h => { h with bar0 := Tbl.set h.bar0 off (BitVec.ofNat 64 val) }

def State.anyOn (s : State) : Bool := s.ctxs.any fun p => p.2.on

/-- A STACK n value that is taken: STKLOG 0 or 10 to 20, reserved fields zero, the region below the range kept from contexts. -/
def stackOk (val : Dword) : Bool :=
  let k := fieldN val 0 5
  (k = 0 || (10 ≤ k && k ≤ 20)) && fieldN val 5 11 = 0 && fieldN val 52 12 = 0
    && (k = 0 || fieldN val 16 36 * 65536 + 4128768 * 2 ^ k ≤ keptFrom)

/-- A host write to BAR0: registers with a row of their own go there. In recovery it has no effect (R218). -/
def State.writeBar0 (s : State) (off : Nat) (val : Dword) : State :=
  if off % 8 ≠ 0 || s.inRecovery then s
  else if 0x10 ≤ off ∧ off ≤ 0x58 then
    if s.anyOn then s
    else
      let s := if 0x20 ≤ off ∧ off ≤ 0x38 then s.updHubs fun h => { h with comp := { h.comp with made := false } } else s
      s.setReg off (if off = 0x10 then val.toNat % 1024 else val.toNat)
  else if 0x80 ≤ off ∧ off < 0x100 then s.setReg off (val.toNat / 4096 * 4096)
  else if off = 0x0F00 then s.setReg off (placeN (bitsOf val.toNat 5 47) 5 47)
  else if off = 0x0F08 then s.writeInjctl val
  else if 0x1000 ≤ off ∧ off < 0x1040 then s.setReg off val.toNat
  else if off = 0x1040 then s.writeMbgo val
  else if off = 0x1048 then s.writeMbstat val
  else if 0x2000 ≤ off ∧ off < 0x2800 then s.setReg off val.toNat
  else if 0x3000 ≤ off ∧ off < 0x3200 then
    if (s.ctx ((off - 0x3000) / 8)).on || !(stackOk val) then s else s.setReg off val.toNat
  else s

/-- BAR0_REGISTER_WRITE (R205, R206). -/
def execBar0RegisterWrite (off : Nat) (val : Dword) (s : State) : Out := .next (s.writeBar0 off val)

/-- What a read of a BAR0 offset answers (Table 10.2, R206). -/
def State.bar0Read (s : State) (off : Nat) : Nat :=
  if off % 8 ≠ 0 then 0
  else if off = 0 then 0x4B35 + placeN Config.revision.toNat 16 8 + placeN Config.serial.toNat 32 32
  else if off = 0x0100 then (List.range 4).foldl (fun n i => n + placeN (s.hubs.limit.getD i 0) (16 * i) 16) 0
  else if 0x0108 ≤ off ∧ off < 0x0128 then leAt (edPublic (toBytes 32 Config.identitySeed.toNat)) (off - 0x0108) 8
  else if 0x0200 ≤ off ∧ off < 0x0280 then (s.port ((off - 0x0200) / 8)).word
  else s.reg off

end Sys2Proof.Machine
end

