-- ==== Sys2Proof/Machine/Mailbox.lean ====
section
/-! DEFINITION. The mailbox operations (R207, R212 to R221, R401, R402, R449). -/

namespace Sys2Proof.Machine

/-- The mailbox holds the operation, and no takeover is running (R438). -/
def State.mboxRuns (s : State) (op : Nat) : Bool := s.hubs.mbox.busy && s.hubs.mbox.op = op && s.hubs.sched.takeover.isNone
/-- Bytes of the arguments. -/
def State.arg (s : State) (i n : Nat) : Nat := leAt s.hubs.mbox.args i n
def State.setStep (s : State) (stage n : Nat) : State :=
  s.updHubs fun h => { h with mbox := { h.mbox with stage := stage, n := n } }

/-! ## CTXON (R449) -/

/-- The byte offset of the first field of a descriptor that CTXON refuses. -/
def badField (b : List Byte) : Option Nat :=
  let sl := byteAt b 11
  let rl := byteAt b 40
  if leAt b 0 8 % 8192 ≠ 0 then some 0
  else if 3 < byteAt b 10 then some 10
  else if (1 ≤ sl ∧ sl ≤ 17) ∨ 30 < sl then some 11
  else if 2 ^ 84 ≤ leAt b 16 16 then some 16
  else if leAt b 32 8 % 4096 ≠ 0 then some 32
  else if rl < 6 ∨ 16 < rl then some 40
  else if leAt b 41 3 ≠ 0 then some 41
  else if leAt b 56 8 % 65536 ≠ 0 then some 56
  else none

/-- A context as its descriptor gives it. -/
def ctxOfDesc (b : List Byte) : Ctx :=
  { on := true, ptroot := leAt b 0 8, asid := leAt b 8 2, cprio := byteAt b 10, spilllog := byteAt b 11, slice := leAt b 12 4,
    dies := leAt b 16 16, ring := leAt b 32 8, ringlog := byteAt b 40, handler := leAt b 48 8, spill := leAt b 56 8 }

/-- Record indexes of a context's logs start at zero (R370). -/
def State.freshLogs (s : State) (n : Nat) : State :=
  s.updHubs fun h => { h with seqs := [n, 128 + n, 1000 + n, 1128 + n].foldl Tbl.del h.seqs }

/-- A context is admitted: HEAD is written as 0, the ring is empty; the chunk pool is made with the first context that finds
compressed frames set up. -/
def State.grantRow (s : State) (n : Nat) (b : List Byte) : State :=
  let s := s.updHubs fun h => { h with bar0 := Tbl.del h.bar0 (doorbellAt n) }
  let s := ((s.freshLogs n).setCtx n (ctxOfDesc b)).setHead n 0
  if s.hubs.comp.made || s.reg 0x0020 = 0 then s else s.makePool

/-- CTXON. -/
def execCtxon (s : State) : Out :=
  if !(s.mboxRuns 1) then .next s
  else
    let n := s.arg 8 2
    if 64 ≤ n then .next (s.mboxEnd 2 0)
    else if (s.ctx n).on then .next (s.mboxEnd 3 1)
    else
      let b := s.homeBytes (s.reg 0x0018 + 64 * n) 64
      match badField b with
      | some o => .next (s.mboxEnd 2 o)
      | none => .next ((s.grantRow n b).mboxEnd 0 0)

/-! ## CTXOFF (R207, R401, R418) -/

/-- Lanes of a wave that wait on a fault exit without effect; the instruction has been performed in the others. -/
def State.exitFaulted (s : State) (w : Nat) : State :=
  let es := (s.wave w).frontier.filter fun e => e.stat = .fault
  if es = [] then s
  else
    let out (e : Entry) : LaneMask := (e.left.getD e.mask) &&& e.mask
    let m := es.foldl (fun m e => m ||| out e) (0 : LaneMask)
    let s := s.abortLanes w (s.txLanes w m) 8 0
    let s := es.foldl (fun s e => if e.ret = 0 then s else s.retLess w e.ret) s
    let go (e : Entry) : Entry :=
      if e.stat = .fault then { e with mask := e.mask &&& ~~~ (out e), stat := .ready, left := some 0 } else e
    let s := s.updWave w fun x => { x with frontier := (x.frontier.map go).filter fun e => e.mask ≠ 0 }
    s.updWx w fun y => { y with exited := y.exited ||| m, faultAt := none }

/-- The waves of a context that stand on cores. -/
def State.ctxWaves (s : State) (n : Nat) : List Nat :=
  s.units.flatMap fun p => if p.2.crec.ctx = n ∧ p.2.stat ≠ .saved then p.2.aliveWids else []

/-- Every fault wait of a context ends: lanes, commands, copies, decrements, submissions, held records. -/
def State.endFaultWaits (s : State) (n : Nat) : State :=
  let s := ((s.ctxWaves n).foldl State.exitFaulted s).updCtx n fun c => { c with tail := none }
  let s := s.failWaiting 3 (fun c => c.ctx = n) fun k => k.ctx = n
  let s := s.updHomes fun h => { h with flight := h.flight.filter fun e => !(e.ctx = n && e.held.isSome) }
  s.updQueues fun q => { q with subs := q.subs.filter fun b => !(b.ctx = n && b.held) }

/-- Every job of a context is cancelled (R71). -/
def State.cancelJobs (s : State) (n : Nat) : State :=
  ((s.queues.counters.filter fun k => k.ctx = n && k.level = 4).map (·.id)).foldl (fun s j => s.doCancel n 4 j) s

/-- Nothing of a context runs or is on its way. -/
def State.ctxQuiet (s : State) (n : Nat) : Bool :=
  !(s.units.any fun p => p.2.crec.ctx = n)
    && s.dies.all (fun p => p.2.merge.all (fun c => c.ctx ≠ n) && p.2.xcards.all (fun c => c.ctx ≠ n) && p.2.xfly.all (fun x => x.cmd.ctx ≠ n))
    && s.queues.nmQ.all (fun c => c.ctx ≠ n)
    && s.cores.all (fun p => p.2.copies.all (fun k => k.ctx ≠ n) && p.2.cellar.all (fun e => e.ctx ≠ n))
    && s.homes.flight.all (fun e => e.ctx ≠ n) && s.queues.signals.all (fun g => g.ctx ≠ n)
    && s.queues.cards.all (fun c => c.ctx ≠ n || c.stat = .held) && s.hubs.errQ.all (fun e => e.ctx ≠ some n)

/-- A context is dropped: its maps, its tables, its dies. -/
def State.dropCtx (s : State) (n : Nat) : State :=
  let lids := (s.queues.launches.filter fun p => p.2.ctx = n).map (·.1)
  let s := s.stopContext n
  let s := s.updHomes fun h =>
    { h with snaps := h.snaps.filter (fun p => !(lids.contains p.lid)), staged := h.staged.filter fun p => !(lids.contains p.1) }
  let s := s.updHubs fun h => { h with faultQ := h.faultQ.filter fun f => f.ctx ≠ n }
  let die (d : Die) : Die :=
    { d with loft := d.loft.filter (fun m => m.ctx ≠ n), xctx := Tbl.del d.xctx n, owner := if d.owner = some n then none else d.owner,
             change := if d.owner = some n then none else d.change }
  (s.mapParts (fun c => c) die).setCtx n {}

/-- CTXOFF. -/
def execCtxoff (s : State) : Out :=
  if !(s.mboxRuns 2) then .next s
  else
    let n := s.arg 8 2
    if 64 ≤ n then .next (s.mboxEnd 2 0)
    else if !(s.ctx n).on then .next (s.mboxEnd 3 1)
    else
      let s := (s.cancelJobs n).endFaultWaits n
      if s.ctxQuiet n then .next ((s.dropCtx n).mboxEnd 0 0) else .next s

/-! ## TLBINV (R90, R207, R401, R402) -/

/-- The range of a TLBINV holds the page. -/
def inRange (va len page : Nat) : Bool := len = 0 || (va / 65536 ≤ page && page ≤ (va + len - 1) / 65536)

/-- No TLB holds a translation of the range, nor a fault, nor a walk. -/
def State.forget (s : State) (asid va len : Nat) : State :=
  let pages (e : TlbEntry) : Bool :=
    e.asid = asid && (len = 0 || (e.page ≤ (va + len - 1) / 65536 && va / 65536 < e.page + e.pages))
  let core (c : CoreSt) : CoreSt := { c with tlb := c.tlb.filter fun e => !(pages e) }
  let die (d : Die) : Die :=
    { d with tlb := d.tlb.filter (fun e => !(pages e)), neg := d.neg.filter (fun e => !(e.asid = asid && inRange va len e.page)),
             walks := d.walks.filter fun k => !(k.asid = asid && inRange va len k.page) }
  s.mapParts core die

/-- Faulting lanes of a wave translate again; the watchdog counts on (R405). -/
def State.retryFaults (s : State) (w : Nat) : State :=
  let ctx := s.ctxOf w
  let go (e : Entry) : Entry :=
    if e.stat = .fault then { e with stat := .ready, prio := if e.fetched then e.prio else s.prioAt ctx e.pc } else e
  let s := s.updWave w fun x => x.reorder go
  s.updWx w fun y =>
    { y with handler := y.handler.map (fun h => { h with intr := h.intr.map fun p => (p.1, go p.2) }), faultAt := none,
             lastIssue := match y.faultAt with | some t => y.lastIssue + (s.time - t) | none => y.lastIssue }

/-- Held records whose pages are all covered are queued again (R402), as their queues have room; those of a COOP launch wait for its admission. -/
def State.freeHeld (s : State) (ok : Nat → Bool) (mine : Nat → Bool) : State :=
  let cut (r : ContRec) : ContRec := if mine r.ctx then { r with held := r.held.filter fun p => !(ok p) } else r
  let coop (r : ContRec) : Bool := ((s.launch r.lid).map fun l => cardCoop l.flags).getD false
  let all := s.queues.held.map cut
  let go := all.filter fun r => r.held = [] && !(coop r)
  let s := s.updQueues fun q => { q with held := all.filter fun r => !(r.held = [] && !(coop r)) }
  go.foldl (fun s r =>
    if s.launchCancelled r.lid || s.recWaits r.ctx r.die r.prio then s.updQueues fun q => { q with held := q.held ++ [r] }
    else s.postRec r.die r true) s

/-- Everything of an address space that waits on a covered page goes on (R401, R62, R402, R417). -/
def State.wakeFaults (s : State) (asid va len : Nat) : State :=
  let mine (n : Nat) : Bool := (s.ctx n).on && (s.ctx n).asid = asid
  let ok (p : Nat) : Bool := inRange va len p
  let s := ((List.range 64).filter mine).foldl (fun s n => (s.ctxWaves n).foldl State.retryFaults s) s
  let cmd (c : EngCmd) : EngCmd := if mine c.ctx && ok c.page then { c with waiting := false } else c
  let cp (k : Copy) : Copy := if mine k.ctx && ok k.page then { k with waiting := false } else k
  let s := s.mapParts (fun c => { c with copies := c.copies.map cp }) fun d =>
    { d with merge := d.merge.map cmd, xcards := d.xcards.map cmd, xfly := d.xfly.map fun x => { x with cmd := cmd x.cmd } }
  let fl (e : CellarEntry) : CellarEntry := if mine e.ctx && (e.held.map ok).getD false then { e with held := none } else e
  let s := s.updHomes fun h => { h with flight := h.flight.map fl }
  let sub (b : Submission) : Submission :=
    if mine b.ctx && (ok (b.addr / 65536) || ok ((b.addr + 63) / 65536)) then { b with held := false } else b
  let la (l : Launch) : Launch := if mine l.ctx && (l.dictPage.map ok).getD false then { l with dictPage := none } else l
  let s := s.updQueues fun q =>
    { q with nmQ := q.nmQ.map cmd, subs := q.subs.map sub, launches := q.launches.map fun p => (p.1, la p.2) }
  s.freeHeld ok mine

/-- Accesses made before a mark under a translation of the range that are not performed at their homes: in the cellars, on their way,
staged, in the quarantine, loads that wait there, output of copies and engines. -/
def State.unperformed (s : State) (asid va len mark : Nat) : Bool :=
  let of_ (ctx : Nat) (vps : List Nat) : Bool := (s.ctx ctx).asid = asid && vps.any (inRange va len)
  let old (e : CellarEntry) : Bool := of_ e.ctx e.vps && e.id < mark && e.held.isNone
  let cmd (c : EngCmd) : Bool := c.id < mark && c.outs.any fun p => of_ c.ctx [p.vp]
  s.homes.flight.any old || s.homes.staged.any (fun p => old p.2) || s.homes.egress.any (fun f => of_ f.ctx [f.vp] && f.id < mark)
    || s.cores.any (fun p => p.2.cellar.any old || p.2.copies.any fun k => k.id < mark && k.wr.any fun q => of_ k.ctx [q.2.vp])
    || s.dies.any (fun p => p.2.merge.any cmd) || s.queues.nmQ.any cmd
    || s.waves.any (fun p => p.2.live && (s.heldLoads p.1).any fun h => h.id < mark && of_ (s.ctxOf p.1) h.vps)

/-- Dirty lines of an L1 stored under a translation of the range are written back as room allows; whether all were. -/
def State.flushRange (s : State) (asid va len : Nat) : State × Bool :=
  let mine (x : L1Line) : Bool := x.asid = asid && x.isDirty && x.vps.any (inRange va len)
  s.cores.foldl (fun r p =>
    let (s, all) := r.1.pushLines p.1 (p.2.l1.filter mine)
    (s, r.2 && all)) (s, true)

/-- TLBINV. -/
def execTlbinv (s : State) : Out :=
  if !(s.mboxRuns 3) then .next s
  else
    let asid := s.arg 8 2
    let va := s.arg 16 8
    let len := s.arg 24 8
    let s := if s.hubs.mbox.stage = 0 then (s.setStep 1 0).forget asid va len else s
    let (s, all) := if s.hubs.mbox.stage = 1 then s.flushRange asid va len else (s, true)
    if !all then .next s
    else
      let s := if s.hubs.mbox.stage = 1 then s.setStep 2 s.nextId else s
      if s.unperformed asid va len s.hubs.mbox.n then .next s
      else .next (((s.forget asid va len).wakeFaults asid va len).mboxEnd 0 0)

/-! ## FLASHXFER (R212, R213) -/

def State.updFlash (s : State) (f : Flash → Flash) : State := s.updHubs fun h => { h with flash := f h.flash }

/-- The block size of an entry's namespace (R212). -/
def State.blockBytes (s : State) (b : List Byte) : Nat :=
  if s.hubs.bigBlocks.contains (byteAt b 1, leAt b 4 4) then 4096 else 512

/-- An entry that is not one of Table 10.5, or whose blocks do not lie below 576 GiB. -/
def State.flashBad (s : State) (b : List Byte) : Bool :=
  let n := leAt b 16 4
  let hbm := leAt b 24 8
  1 < byteAt b 0 || 31 < byteAt b 1 || n = 0 || 65536 < n || hbm % 4096 ≠ 0 || hbmEnd < hbm + n * s.blockBytes b

/-- Entries are issued in list order, up to 1,024 outstanding, which the 1,024 entries of a controller's queue pair hold; a bad one
has its status at once. -/
def State.flashIssue (s : State) : Nat → State
  | 0 => s
  | k + 1 =>
    let f := s.hubs.flash
    if f.count ≤ f.issued ∨ 1024 ≤ f.out.length then s
    else
      let a := f.list + 32 * f.issued
      let s :=
        if s.flashBad (s.homeBytes a 32) then
          (s.localStore (a + 2) (toBytes 2 1)).updFlash fun f => { f with issued := f.issued + 1, bad := f.bad + 1 }
        else s.updFlash fun f => { f with issued := f.issued + 1, out := f.out ++ [f.issued] }
      s.flashIssue k

/-- FLASHXFER (R213). -/
def execFlashxfer (s : State) : Out :=
  if !(s.mboxRuns 4) then .next s
  else
    let list := s.arg 8 8
    let count := s.arg 16 2
    if s.hubs.mbox.stage = 0 then
      if count = 0 ∨ list % 32 ≠ 0 ∨ hbmEnd < list + 32 * count then .next (s.mboxEnd 2 0)
      else
        let f : Flash := { list := list, count := count }
        .next (((s.setStep 1 0).updFlash fun _ => f).flashIssue count)
    else
      let s := s.flashIssue count
      let f := s.hubs.flash
      if f.issued = f.count ∧ f.out = [] then .next ((s.updFlash fun _ => {}).mboxEnd 0 f.bad) else .next s

/-- FLASH_ENTRY_COMPLETE (R213): entry `k` of the list, the NVMe status field, and the data of a read. -/
def execFlashEntryComplete (k status : Nat) (data : List Byte) (s : State) : Out :=
  let f := s.hubs.flash
  if !(s.hubs.mbox.busy && s.hubs.mbox.op = 4) || !(f.out.contains k) then .next s
  else
    let a := f.list + 32 * k
    let b := s.homeBytes a 32
    let s := if byteAt b 0 = 0 ∧ status = 0 then s.localStore (leAt b 24 8) (data.take (leAt b 16 4 * s.blockBytes b)) else s
    let code := if status = 0 then 0 else 0x100 + status
    let s := s.localStore (a + 2) (toBytes 2 code)
    .next (s.updFlash fun f => { f with out := f.out.filter (· ≠ k), bad := if status = 0 then f.bad else f.bad + 1 })

/-! ## CCILOAD (R214 to R217) -/

def segBytes : Nat := 4194304
/-- Fields of an image's header (Table 10.6). -/
def cciLength (h : List Byte) : Nat := leAt h 80 8
def cciNseg (h : List Byte) : Nat := leAt h 92 4
def cciSegOff (h : List Byte) : Nat := leAt h 104 8
def cciManOff (h : List Byte) : Nat := leAt h 112 8
def cciSegSize (h : List Byte) : Nat := leAt h 122 2
def cciDataOff (h : List Byte) : Nat := leAt h 128 8
def cciMagic : List Byte := [0x4B#8, 0x46#8, 0x43#8, 0x43#8, 0x49#8, 0x0D#8, 0x0A#8, 0x1A#8]

/-- The load descriptor. -/
def State.cciDesc (s : State) : List Byte := s.homeBytes (s.arg 8 8) 64

/-- The trusted keys. -/
def State.cciKeys (s : State) (d : List Byte) : List (List Byte) :=
  (List.range (leAt d 40 2)).map fun i => s.homeBytes (leAt d 32 8 + 32 * i) 32

/-- What is wrong with an image's header: the RESULT of Table 10.7. -/
def cciHeadCheck (h : List Byte) : Option Nat :=
  if h.take 8 ≠ cciMagic then some 1 else if leAt h 8 2 ≠ 1 then some 2 else none

/-- What is wrong with an image's bytes below DATAOFF. -/
def cciCheck (h : List Byte) (keys : List (List Byte)) : Option Nat :=
  let man := (h.drop (cciManOff h)).take 160
  let pub := (man.drop 64).take 32
  if sha512 (h.take (cciManOff h)) ≠ man.take 64 then some 3
  else if !(keys.contains pub) || !(edVerify pub (man.take 96) (man.drop 96)) then some 4
  else none

/-- Bytes of segment `i` (R214). -/
def segLen (h : List Byte) (i : Nat) : Nat := min segBytes (cciLength h - (cciDataOff h + i * segBytes))
/-- The digest that segment `i`'s entry holds. -/
def segDigest (h : List Byte) (i : Nat) : List Byte := (h.drop (cciSegOff h + i * cciSegSize h)).take 64

/-- The command ends once every segment has come. -/
def State.cciEnd (s : State) : State :=
  let f := s.hubs.flash
  let low := f.failed.foldl min 0xFFFFFFFF
  let s := s.updFlash fun _ => {}
  if f.bad ≠ 0 then s.mboxEnd 3 5 else if f.failed ≠ [] then s.mboxEnd 3 (0x10000 + low) else s.mboxEnd 0 0

/-- CCILOAD (R217): the descriptor is checked before any flash is read; then bytes are waited for (CCI_SEGMENT_LOAD). -/
def execCciload (s : State) : Out :=
  if !(s.mboxRuns 5) then .next s
  else
    let d := s.cciDesc
    let n := leAt d 40 2
    if s.hubs.mbox.stage = 0 then
      if n = 0 ∨ 256 < n ∨ leAt d 32 8 % 8 ≠ 0 ∨ leAt d 42 22 ≠ 0 then .next (s.mboxEnd 2 0)
      else .next ((s.setStep 1 0).updFlash fun _ => { cci := 1 })
    else if s.hubs.flash.cci = 3 ∧ s.hubs.flash.out = [] then .next s.cciEnd
    else .next s

/-- An image's header has come: the bitmap is cleared, MAGIC and MAJOR are checked. -/
def State.cciHead (s : State) (d data : List Byte) : State :=
  let s := s.localStore (leAt d 24 8) (List.replicate (ceilDiv (cciNseg data) 8) 0#8)
  match cciHeadCheck data with
  | some r => (s.updFlash fun _ => {}).mboxEnd 3 r
  | none => s.updFlash fun f => { f with cci := 2, head := data }

/-- The bytes of an image below DATAOFF have come: the digest and the signature are checked, and the bytes stand at the image's
place. -/
def State.cciBody (s : State) (d data : List Byte) : State :=
  match cciCheck data (s.cciKeys d) with
  | some r => (s.updFlash fun _ => {}).mboxEnd 3 r
  | none =>
    (s.localStore (leAt d 16 8) data).updFlash fun f =>
      { f with cci := 3, head := data, out := List.range (cciNseg data) }

/-- A segment has come: on a match its bytes and its bit are written, else zeros. -/
def State.cciSeg (s : State) (d : List Byte) (i : Nat) (ok : Bool) (data : List Byte) : State :=
  let h := s.hubs.flash.head
  let n := segLen h i
  let at_ := leAt d 16 8 + cciDataOff h + i * segBytes
  let good := ok && data.length = n && sha512 data = segDigest h i
  let s := s.localStore at_ (if good then data else List.replicate n 0#8)
  let bit := leAt d 24 8 + i / 8
  let s := if good then s.localStore bit [(s.homeByte bit) ||| BitVec.ofNat 8 (2 ^ (i % 8))] else s
  s.updFlash fun f =>
    { f with out := f.out.filter (· ≠ i), failed := if good then f.failed else f.failed ++ [i], bad := if ok then f.bad else f.bad + 1 }

/-- CCI_SEGMENT_LOAD (R217): bytes that CCILOAD has asked of the flash, first the header, then all below DATAOFF, then the segments;
`ok` is false for a flash error. -/
def execCciSegmentLoad (seg : Nat) (ok : Bool) (data : List Byte) (s : State) : Out :=
  let f := s.hubs.flash
  if !(s.mboxRuns 5) then .next s
  else if f.cci = 1 then .next (if ok then s.cciHead s.cciDesc data else (s.updFlash fun _ => {}).mboxEnd 3 5)
  else if f.cci = 2 then .next (if ok then s.cciBody s.cciDesc data else (s.updFlash fun _ => {}).mboxEnd 3 5)
  else if f.cci = 3 ∧ f.out.contains seg then .next (s.cciSeg s.cciDesc seg ok data)
  else .next s

/-! ## ATTEST (R219 to R221) -/

/-- The report of Table 10.8. -/
def State.report (s : State) (nonce : List Byte) : List Byte :=
  let b := [0x4B#8, 0x46#8, 0x41#8, 0x31#8] ++ toBytes 4 1 ++ padTo 64 s.hubs.meas ++ toBytes 8 Config.serial.toNat
    ++ toBytes 4 s.hubs.svn ++ toBytes 4 0 ++ padTo 32 nonce ++ toBytes 8 s.time
  b ++ edSign (toBytes 32 Config.identitySeed.toNat) b

/-- ATTEST (R221). -/
def execAttest (s : State) : Out :=
  if !(s.mboxRuns 6) then .next s
  else
    let a := s.arg 8 8
    if hbmEnd < a + 192 then .next (s.mboxEnd 2 0)
    else .next ((s.localStore a (s.report ((s.hubs.mbox.args.drop 16).take 32))).mboxEnd 0 192)

end Sys2Proof.Machine
end

