-- ==== Sys2Proof/Machine/Dispatch.lean ====
section
/-! DEFINITION. One arm for each constructor of `Instr`: the call of its meaning. -/

namespace Sys2Proof.Machine

/-- What one step of the device does. -/
def exec (i : Instr) (s : State) : Host.Outcome State Fault Refusal :=
  match i with
  | .nop f => Sys2Proof.Machine.execNop f s
  | .smov f => Sys2Proof.Machine.execSmov f s
  | .smovi f => Sys2Proof.Machine.execSmovi f s
  | .sadd f => Sys2Proof.Machine.execSadd f s
  | .ssub f => Sys2Proof.Machine.execSsub f s
  | .smul f => Sys2Proof.Machine.execSmul f s
  | .smulh f => Sys2Proof.Machine.execSmulh f s
  | .smad f => Sys2Proof.Machine.execSmad f s
  | .sdiv f => Sys2Proof.Machine.execSdiv f s
  | .srem f => Sys2Proof.Machine.execSrem f s
  | .smin f => Sys2Proof.Machine.execSmin f s
  | .smax f => Sys2Proof.Machine.execSmax f s
  | .sand f => Sys2Proof.Machine.execSand f s
  | .sor f => Sys2Proof.Machine.execSor f s
  | .sxor f => Sys2Proof.Machine.execSxor f s
  | .sandn f => Sys2Proof.Machine.execSandn f s
  | .sshl f => Sys2Proof.Machine.execSshl f s
  | .sshr f => Sys2Proof.Machine.execSshr f s
  | .ssra f => Sys2Proof.Machine.execSsra f s
  | .sbfe f => Sys2Proof.Machine.execSbfe f s
  | .sbfi f => Sys2Proof.Machine.execSbfi f s
  | .spopc f => Sys2Proof.Machine.execSpopc f s
  | .sclz f => Sys2Proof.Machine.execSclz f s
  | .ssel f => Sys2Proof.Machine.execSsel f s
  | .scmp f => Sys2Proof.Machine.execScmp f s
  | .saddi f => Sys2Proof.Machine.execSaddi f s
  | .smuli f => Sys2Proof.Machine.execSmuli f s
  | .sandi f => Sys2Proof.Machine.execSandi f s
  | .sori f => Sys2Proof.Machine.execSori f s
  | .sxori f => Sys2Proof.Machine.execSxori f s
  | .sshli f => Sys2Proof.Machine.execSshli f s
  | .sshri f => Sys2Proof.Machine.execSshri f s
  | .sfadd f => Sys2Proof.Machine.execSfadd f s
  | .sfmul f => Sys2Proof.Machine.execSfmul f s
  | .sffma f => Sys2Proof.Machine.execSffma f s
  | .sfcmp f => Sys2Proof.Machine.execSfcmp f s
  | .sfcvt f => Sys2Proof.Machine.execSfcvt f s
  | .qlog f => Sys2Proof.Machine.execQlog f s
  | .crd f => Sys2Proof.Machine.execCrd f s
  | .cwr f => Sys2Proof.Machine.execCwr f s
  | .sld f => Sys2Proof.Machine.execSld f s
  | .sst f => Sys2Proof.Machine.execSst f s
  | .sldk f => Sys2Proof.Machine.execSldk f s
  | .vtos f => Sys2Proof.Machine.execVtos f s
  | .bra f => Sys2Proof.Machine.execBra f s
  | .brx f => Sys2Proof.Machine.execBrx f s
  | .jmpi f => Sys2Proof.Machine.execJmpi f s
  | .call f => Sys2Proof.Machine.execCall f s
  | .calli f => Sys2Proof.Machine.execCalli f s
  | .ret f => Sys2Proof.Machine.execRet f s
  | .exit f => Sys2Proof.Machine.execExit f s
  | .yield f => Sys2Proof.Machine.execYield f s
  | .sleep f => Sys2Proof.Machine.execSleep f s
  | .waitdc f => Sys2Proof.Machine.execWaitdc f s
  | .wsync f => Sys2Proof.Machine.execWsync f s
  | .bar f => Sys2Proof.Machine.execBar f s
  | .spawn f => Sys2Proof.Machine.execSpawn f s
  | .carddec f => Sys2Proof.Machine.execCarddec f s
  | .cont f => Sys2Proof.Machine.execCont f s
  | .jcdec f => Sys2Proof.Machine.execJcdec f s
  | .cancel f => Sys2Proof.Machine.execCancel f s
  | .trap f => Sys2Proof.Machine.execTrap f s
  | .bkpt f => Sys2Proof.Machine.execBkpt f s
  | .hret f => Sys2Proof.Machine.execHret f s
  | .frget f => Sys2Proof.Machine.execFrget f s
  | .frset f => Sys2Proof.Machine.execFrset f s
  | .feget f => Sys2Proof.Machine.execFeget f s
  | .feset f => Sys2Proof.Machine.execFeset f s
  | .reggrow f => Sys2Proof.Machine.execReggrow f s
  | .regshrink f => Sys2Proof.Machine.execRegshrink f s
  | .vmov f => Sys2Proof.Machine.execVmov f s
  | .vmovi f => Sys2Proof.Machine.execVmovi f s
  | .vadd f => Sys2Proof.Machine.execVadd f s
  | .vsub f => Sys2Proof.Machine.execVsub f s
  | .vmul f => Sys2Proof.Machine.execVmul f s
  | .vmulh f => Sys2Proof.Machine.execVmulh f s
  | .vmad f => Sys2Proof.Machine.execVmad f s
  | .vmin f => Sys2Proof.Machine.execVmin f s
  | .vmax f => Sys2Proof.Machine.execVmax f s
  | .vabs f => Sys2Proof.Machine.execVabs f s
  | .vand f => Sys2Proof.Machine.execVand f s
  | .vor f => Sys2Proof.Machine.execVor f s
  | .vxor f => Sys2Proof.Machine.execVxor f s
  | .vandn f => Sys2Proof.Machine.execVandn f s
  | .vshl f => Sys2Proof.Machine.execVshl f s
  | .vshr f => Sys2Proof.Machine.execVshr f s
  | .vsra f => Sys2Proof.Machine.execVsra f s
  | .vbfe f => Sys2Proof.Machine.execVbfe f s
  | .vbfi f => Sys2Proof.Machine.execVbfi f s
  | .vpopc f => Sys2Proof.Machine.execVpopc f s
  | .vclz f => Sys2Proof.Machine.execVclz f s
  | .vsel f => Sys2Proof.Machine.execVsel f s
  | .vcmp f => Sys2Proof.Machine.execVcmp f s
  | .vaddi f => Sys2Proof.Machine.execVaddi f s
  | .vandi f => Sys2Proof.Machine.execVandi f s
  | .vshli f => Sys2Proof.Machine.execVshli f s
  | .vshri f => Sys2Proof.Machine.execVshri f s
  | .vidx f => Sys2Proof.Machine.execVidx f s
  | .vdot4 f => Sys2Proof.Machine.execVdot4 f s
  | .vprmt f => Sys2Proof.Machine.execVprmt f s
  | .shfl f => Sys2Proof.Machine.execShfl f s
  | .vote f => Sys2Proof.Machine.execVote f s
  | .plog f => Sys2Proof.Machine.execPlog f s
  | .pmov f => Sys2Proof.Machine.execPmov f s
  | .vred f => Sys2Proof.Machine.execVred f s
  | .vscan f => Sys2Proof.Machine.execVscan f s
  | .fadd f => Sys2Proof.Machine.execFadd f s
  | .fsub f => Sys2Proof.Machine.execFsub f s
  | .fmul f => Sys2Proof.Machine.execFmul f s
  | .ffma f => Sys2Proof.Machine.execFfma f s
  | .fmin f => Sys2Proof.Machine.execFmin f s
  | .fmax f => Sys2Proof.Machine.execFmax f s
  | .fmov f => Sys2Proof.Machine.execFmov f s
  | .fcmp f => Sys2Proof.Machine.execFcmp f s
  | .frcp f => Sys2Proof.Machine.execFrcp f s
  | .frsq f => Sys2Proof.Machine.execFrsq f s
  | .fsqrt f => Sys2Proof.Machine.execFsqrt f s
  | .fdiv f => Sys2Proof.Machine.execFdiv f s
  | .fexp2 f => Sys2Proof.Machine.execFexp2 f s
  | .flog2 f => Sys2Proof.Machine.execFlog2 f s
  | .fsinpi f => Sys2Proof.Machine.execFsinpi f s
  | .fcospi f => Sys2Proof.Machine.execFcospi f s
  | .frnd f => Sys2Proof.Machine.execFrnd f s
  | .fldexp f => Sys2Proof.Machine.execFldexp f s
  | .fcvt f => Sys2Proof.Machine.execFcvt f s
  | .fpack f => Sys2Proof.Machine.execFpack f s
  | .funpack f => Sys2Proof.Machine.execFunpack f s
  | .fbscale f => Sys2Proof.Machine.execFbscale f s
  | .fdot2 f => Sys2Proof.Machine.execFdot2 f s
  | .fclass f => Sys2Proof.Machine.execFclass f s
  | .ld f => Sys2Proof.Machine.execLd f s
  | .st f => Sys2Proof.Machine.execSt f s
  | .lds f => Sys2Proof.Machine.execLds f s
  | .sts f => Sys2Proof.Machine.execSts f s
  | .ldb f => Sys2Proof.Machine.execLdb f s
  | .stb f => Sys2Proof.Machine.execStb f s
  | .pref f => Sys2Proof.Machine.execPref f s
  | .acopy f => Sys2Proof.Machine.execAcopy f s
  | .fence f => Sys2Proof.Machine.execFence f s
  | .cinv f => Sys2Proof.Machine.execCinv f s
  | .cwb f => Sys2Proof.Machine.execCwb f s
  | .atom f => Sys2Proof.Machine.execAtom f s
  | .red f => Sys2Proof.Machine.execRed f s
  | .cas f => Sys2Proof.Machine.execCas f s
  | .txbegin f => Sys2Proof.Machine.execTxbegin f s
  | .txend f => Sys2Proof.Machine.execTxend f s
  | .txabort f => Sys2Proof.Machine.execTxabort f s
  | .txstat f => Sys2Proof.Machine.execTxstat f s
  | .txserial f => Sys2Proof.Machine.execTxserial f s
  | .bankmode f => Sys2Proof.Machine.execBankmode f s
  | .cvset f => Sys2Proof.Machine.execCvset f s
  | .bmac f => Sys2Proof.Machine.execBmac f s
  | .brdacc f => Sys2Proof.Machine.execBrdacc f s
  | .bwracc f => Sys2Proof.Machine.execBwracc f s
  | .baccz f => Sys2Proof.Machine.execBaccz f s
  | .bfill f => Sys2Proof.Machine.execBfill f s
  | .bhad f => Sys2Proof.Machine.execBhad f s
  | .oprdy f => Sys2Proof.Machine.execOprdy f s
  | .xkick f => Sys2Proof.Machine.execXkick f s
  | .merge f => Sys2Proof.Machine.execMerge f s
  | .unmerge f => Sys2Proof.Machine.execUnmerge f s
  | .maprel f => Sys2Proof.Machine.execMaprel f s
  | .nmred f => Sys2Proof.Machine.execNmred f s
  | .nmscan f => Sys2Proof.Machine.execNmscan f s
  | .progidxWrite f => Sys2Proof.Machine.execProgidxWrite f s
  | .dcCounterWrite f => Sys2Proof.Machine.execDcCounterWrite f s
  | .btdWrite f => Sys2Proof.Machine.execBtdWrite f s
  | .cvcfgWrite f => Sys2Proof.Machine.execCvcfgWrite f s
  | .mapspillWrite f => Sys2Proof.Machine.execMapspillWrite f s
  | .xringWrite f => Sys2Proof.Machine.execXringWrite f s
  | .txlogWrite f => Sys2Proof.Machine.execTxlogWrite f s
  | .txretryWrite f => Sys2Proof.Machine.execTxretryWrite f s
  | .issueChoice quad => Sys2Proof.Machine.execIssueChoice quad s
  | .loadDataReturn w k => Sys2Proof.Machine.execLoadDataReturn w k s
  | .programTrapTaken w => Sys2Proof.Machine.execProgramTrapTaken w s
  | .reggrowGrant quad => Sys2Proof.Machine.execReggrowGrant quad s
  | .mirrorCopyDone w r => Sys2Proof.Machine.execMirrorCopyDone w r s
  | .sleepExpiry w => Sys2Proof.Machine.execSleepExpiry w s
  | .watchdogExpiry w => Sys2Proof.Machine.execWatchdogExpiry w s
  | .peerSuspendExpiry w => Sys2Proof.Machine.execPeerSuspendExpiry w s
  | .waveComplete w => Sys2Proof.Machine.execWaveComplete w s
  | .unitComplete u => Sys2Proof.Machine.execUnitComplete u s
  | .joinDecrement k => Sys2Proof.Machine.execJoinDecrement k s
  | .unitPopStart core => Sys2Proof.Machine.execUnitPopStart core s
  | .doorbellWrite ctx tail => Sys2Proof.Machine.execDoorbellWrite ctx tail s
  | .predsDecrement k => Sys2Proof.Machine.execPredsDecrement k s
  | .packageQueueTake ctx => Sys2Proof.Machine.execPackageQueueTake ctx s
  | .shareStart die prio => Sys2Proof.Machine.execShareStart die prio s
  | .clusterPlace die slot => Sys2Proof.Machine.execClusterPlace die slot s
  | .cardCommandIssue die prio => Sys2Proof.Machine.execCardCommandIssue die prio s
  | .cardComplete ctx addr => Sys2Proof.Machine.execCardComplete ctx addr s
  | .timeSliceExpiry die => Sys2Proof.Machine.execTimeSliceExpiry die s
  | .ownerChange die => Sys2Proof.Machine.execOwnerChange die s
  | .preemptRequest u => Sys2Proof.Machine.execPreemptRequest u s
  | .debuggerHalt w => Sys2Proof.Machine.execDebuggerHalt w s
  | .roundComplete u cv => Sys2Proof.Machine.execRoundComplete u cv s
  | .bankmodeComplete u k => Sys2Proof.Machine.execBankmodeComplete u k s
  | .acopyComplete core k => Sys2Proof.Machine.execAcopyComplete core k s
  | .mergeComplete die => Sys2Proof.Machine.execMergeComplete die s
  | .unmergeComplete die => Sys2Proof.Machine.execUnmergeComplete die s
  | .maprelComplete die => Sys2Proof.Machine.execMaprelComplete die s
  | .nmredComplete k => Sys2Proof.Machine.execNmredComplete k s
  | .nmscanComplete k => Sys2Proof.Machine.execNmscanComplete k s
  | .xformRequestStart die engine => Sys2Proof.Machine.execXformRequestStart die engine s
  | .xformRequestComplete die engine => Sys2Proof.Machine.execXformRequestComplete die engine s
  | .txApplyComplete w => Sys2Proof.Machine.execTxApplyComplete w s
  | .serialTokenPass ctx => Sys2Proof.Machine.execSerialTokenPass ctx s
  | .cellarEntryLeave core k => Sys2Proof.Machine.execCellarEntryLeave core k s
  | .writeApplyAtHome k => Sys2Proof.Machine.execWriteApplyAtHome k s
  | .atomicAtHome k => Sys2Proof.Machine.execAtomicAtHome k s
  | .aliasStoreApply k => Sys2Proof.Machine.execAliasStoreApply k s
  | .pageWalkComplete die k => Sys2Proof.Machine.execPageWalkComplete die k s
  | .migrationMove ctx page peer ok => Sys2Proof.Machine.execMigrationMove ctx page peer ok s
  | .compressWriteback frame unit => Sys2Proof.Machine.execCompressWriteback frame unit s
  | .patrolScrubRead sector outcome wrote => Sys2Proof.Machine.execPatrolScrubRead sector outcome wrote s
  | .strikeReportCore core tsEst det => Sys2Proof.Machine.execStrikeReportCore core tsEst det s
  | .coreScrubEnd core ok => Sys2Proof.Machine.execCoreScrubEnd core ok s
  | .strikeReportSlice die quadrant tsEst det => Sys2Proof.Machine.execStrikeReportSlice die quadrant tsEst det s
  | .sliceScrubEnd die quadrant bad => Sys2Proof.Machine.execSliceScrubEnd die quadrant bad s
  | .strikeReportRouter die router tsEst det ok => Sys2Proof.Machine.execStrikeReportRouter die router tsEst det ok s
  | .strikeReportHub hub site index tsEst det => Sys2Proof.Machine.execStrikeReportHub hub site index tsEst det s
  | .pipeCheckMismatch core unit checker pipe quad opcode => Sys2Proof.Machine.execPipeCheckMismatch core unit checker pipe quad opcode s
  | .snapshotPageCopy page => Sys2Proof.Machine.execSnapshotPageCopy page s
  | .stepRequest die index => Sys2Proof.Machine.execStepRequest die index s
  | .relockEnd die => Sys2Proof.Machine.execRelockEnd die s
  | .thermalLimitReached die => Sys2Proof.Machine.execThermalLimitReached die s
  | .thermalOverstayExpiry die => Sys2Proof.Machine.execThermalOverstayExpiry die s
  | .limitRefusal row die => Sys2Proof.Machine.execLimitRefusal row die s
  | .moduleReset image sig svn => Sys2Proof.Machine.execModuleReset image sig svn s
  | .deviceFatal cls detail => Sys2Proof.Machine.execDeviceFatal cls detail s
  | .bar2Access write addr data => Sys2Proof.Machine.execBar2Access write addr data s
  | .bar0RegisterWrite off val => Sys2Proof.Machine.execBar0RegisterWrite off val s
  | .mbstatWrite val => Sys2Proof.Machine.execMbstatWrite val s
  | .flashEntryComplete k status data => Sys2Proof.Machine.execFlashEntryComplete k status data s
  | .cciSegmentLoad seg ok data => Sys2Proof.Machine.execCciSegmentLoad seg ok data s
  | .injctlWrite val => Sys2Proof.Machine.execInjctlWrite val s
  | .peerRequestArrive peer addr op data => Sys2Proof.Machine.execPeerRequestArrive peer addr op data s
  | .linkFlitReceive port seq flit => Sys2Proof.Machine.execLinkFlitReceive port seq flit s
  | .linkFlowStop port vc => Sys2Proof.Machine.execLinkFlowStop port vc s
  | .linkFlowGo port vc => Sys2Proof.Machine.execLinkFlowGo port vc s
  | .linkRetrainComplete port => Sys2Proof.Machine.execLinkRetrainComplete port s
  | .linkRetrainTimeout port => Sys2Proof.Machine.execLinkRetrainTimeout port s
  | .ucieUnrecoverable die => Sys2Proof.Machine.execUcieUnrecoverable die s
  | .unassignedOpcode word => Sys2Proof.Machine.execUnassignedOpcode word s
  | .linkTrainingComplete port peer cmpok => Sys2Proof.Machine.execLinkTrainingComplete port peer cmpok s
  | .clauseFetch => Sys2Proof.Machine.execClauseFetch s
  | .cardRegister => Sys2Proof.Machine.execCardRegister s
  | .hostSignalPerform => Sys2Proof.Machine.execHostSignalPerform s
  | .coopAdmit => Sys2Proof.Machine.execCoopAdmit s
  | .coopStart => Sys2Proof.Machine.execCoopStart s
  | .stagedEgressFlush => Sys2Proof.Machine.execStagedEgressFlush s
  | .releaseFrameReceive => Sys2Proof.Machine.execReleaseFrameReceive s
  | .faultRecordPost => Sys2Proof.Machine.execFaultRecordPost s
  | .errorRecordPost => Sys2Proof.Machine.execErrorRecordPost s
  | .migrationWindowEnd => Sys2Proof.Machine.execMigrationWindowEnd s
  | .poolRefillUnpin => Sys2Proof.Machine.execPoolRefillUnpin s
  | .compressStallExpiry => Sys2Proof.Machine.execCompressStallExpiry s
  | .cpCoreRestart => Sys2Proof.Machine.execCpCoreRestart s
  | .launchReplay => Sys2Proof.Machine.execLaunchReplay s
  | .egressQuarantineRelease => Sys2Proof.Machine.execEgressQuarantineRelease s
  | .timerFailover => Sys2Proof.Machine.execTimerFailover s
  | .fatalGraceExpiry => Sys2Proof.Machine.execFatalGraceExpiry s
  | .heartbeatWrite => Sys2Proof.Machine.execHeartbeatWrite s
  | .heartbeatTimeout => Sys2Proof.Machine.execHeartbeatTimeout s
  | .schedulerTakeover => Sys2Proof.Machine.execSchedulerTakeover s
  | .ctxon => Sys2Proof.Machine.execCtxon s
  | .ctxoff => Sys2Proof.Machine.execCtxoff s
  | .tlbinv => Sys2Proof.Machine.execTlbinv s
  | .flashxfer => Sys2Proof.Machine.execFlashxfer s
  | .cciload => Sys2Proof.Machine.execCciload s
  | .attest => Sys2Proof.Machine.execAttest s

end Sys2Proof.Machine
end

