-- ==== Sys2Proof/Machine/Work.lean ====
section
/-! DEFINITION. What happens next: the agenda, the work that the device has to do, the wave that runs, and the passing of time
(notes/assumptions/4.md to 6.md). Where the spec leaves an order open, the agenda may choose it. -/

namespace Sys2Proof.Machine

/-! ## What the agenda may hold -/

/-- A step of the device that is no instruction of a wave. -/
def isEvent (i : Instr) : Bool :=
  match i with
  | .clauseFetch => false
  | _ => (encode i).isNone && i.wf

/-- After a device-fatal error only BAR0 and BAR2 reads are served (R371). -/
def isLast (i : Instr) : Bool :=
  match i with
  | .bar2Access _ _ _ | .fatalGraceExpiry | .moduleReset _ _ _ => true
  | _ => false

/-- The die of a unit's core, and of a request on its way. -/
def State.unitDie (s : State) (u : Nat) : Nat := ((s.unit u).map fun x => dieOfCore x.core).getD 0
def State.requestDie (s : State) (k : Nat) : Nat :=
  match ((s.homes.flight.find? fun e => e.id = k).map fun e => e.req : Option Req) with
  | some (.join _ d) => d
  | some (.preds _ d _) => d
  | _ => 0

/-- The die whose cores, dispatcher or engines a step belongs to: it does not advance while the die relocks (R16). The requests at
homes and the waves that issue look at the relock themselves. -/
def State.dieOfStep (s : State) (i : Instr) : Option Nat :=
  match i with
  | .loadDataReturn w _ | .programTrapTaken w | .mirrorCopyDone w _ | .waveComplete w | .debuggerHalt w => some (dieOf w)
  | .reggrowGrant q => some (dieOfCore (q / 4))
  | .unitComplete u | .preemptRequest u | .roundComplete u _ | .bankmodeComplete u _ => some (s.unitDie u)
  | .unitPopStart c | .acopyComplete c _ => some (dieOfCore c)
  | .shareStart d _ | .clusterPlace d _ | .cardCommandIssue d _ | .timeSliceExpiry d | .ownerChange d | .mergeComplete d
  | .unmergeComplete d | .maprelComplete d | .xformRequestStart d _ | .xformRequestComplete d _ | .pageWalkComplete d _ => some d
  | .joinDecrement k | .predsDecrement k => some (s.requestDie k)
  | _ => none

/-- The step waits for the end of a relock. -/
def State.stalls (s : State) (i : Instr) : Bool :=
  match s.dieOfStep i with
  | some d => (s.die d).clk.relock.isSome
  | none => false

/-- A step of the device. -/
def runEvent (i : Instr) (s : State) : Out :=
  if isEvent i && (s.hubs.fatal.isNone || isLast i) && !(s.stalls i) then exec i s else .next s

/-- The wave `w` is current, and one instruction takes one nanosecond (notes/assumptions/21.md). -/
def State.tick (s : State) (w : Nat) : State := { s with cur := w, time := s.time + 1 }

/-- ONE TURN OF A WAVE that holds its quadrant's issue slot: its clause is fetched, or it waits for the operands of a packed
slot, or its next instruction is executed. -/
def runWave (w : Nat) (s : State) : Out :=
  match (s.wave w).issuing with
  | none => .next (s.freeSlot w)
  | some e =>
    if e.fetched then
      match s.packedWait w, e.todo with
      | some x, _ => .next (s.block w x)
      | none, k :: _ => exec (decode k.word) (s.tick w)
      | none, [] => .next (s.freeSlot w)
    else exec .clauseFetch { s with cur := w }

/-- A turn that the agenda gives: to a wave that holds its slot and may issue. -/
def pickWave (w : Nat) (s : State) : Out :=
  if s.holds w && s.mayIssue w && s.hubs.fatal.isNone then runWave w s else .next s

/-- The next instruction with at most `n` progress steps, where it is one that may stop part-way (R46). -/
def execPart (n : Nat) (i : Instr) (s : State) : Out :=
  match i with
  | .ld f => ldRun (some n) f s
  | .st f => stRun (some n) f s
  | .ldb f => ldbRun (some n) f s
  | .stb f => stbRun (some n) f s
  | .brdacc f => brdaccRun (some n) f s
  | .bwracc f => bwraccRun (some n) f s
  | .bfill f => bfillRun (some n) f s
  | .bhad f => bhadRun (some n) f s
  | i => exec i s

/-- A turn that the agenda gives to a wave for some steps of its instruction. -/
def pickPart (w n : Nat) (s : State) : Out :=
  match (s.wave w).issuing with
  | some e =>
    if s.holds w && s.mayIssue w && s.hubs.fatal.isNone && e.fetched && (s.packedWait w).isNone then
      match e.headInstr with
      | some i => execPart n i (s.tick w)
      | none => .next s
    else pickWave w s
  | none => .next s

/-- A round stops part-way, where its die runs. -/
def stopPart (uid cv n : Nat) (s : State) : Out :=
  if s.hubs.fatal.isSome || s.stalls (.roundComplete uid cv) then .next s else .next (s.stopRound uid cv n)

/-! ## Errors that checks will find -/

def State.strikeReg (s : State) (w : Nat) (u : Upset) : State :=
  if (s.wave w).live then s.updWave w fun x => { x with upsets := if x.upsets.contains u then x.upsets else x.upsets ++ [u] } else s

/-- A line lies in the write regions of a launch, through their translations. -/
def State.lineWithin (s : State) (lid line : Nat) : Bool :=
  match s.launch lid with
  | none => false
  | some l =>
    l.wregions.any fun r => (regionPages [r]).any fun p =>
      match s.translate l.ctx (p * 65536) 1 .load with
      | .ok q =>
        let va := p * 65536 + line % 512 * 128
        q.loc.tgt = 0 && q.loc.ra / 65536 = line / 512 && r.1 ≤ va && va + 128 ≤ r.1 + r.2
      | .error _ => false

/-- A byte of a commit's log that its apply still reads. -/
def State.logHolds (s : State) (a : Apply) (core bank byte : Nat) : Bool :=
  a.lanes.any fun l => (List.range (s.logUnits a.wid * 8)).any fun i => s.logCell a.wid l i = some (core, bank, byte)

/-- TXLOG_UE during the apply of a commit (R416): its writes are dropped, its locks open, and the launch or the context takes
the ladder. -/
def State.logTrap (s : State) (e : CellarEntry) (a : Apply) : State :=
  let within := a.lines.all fun l => s.lineWithin e.lid l
  let f := s.errOf a.wid 4 0x0E (detailOf [(0, toBytes 1 2), (2, toBytes 1 6), (4, toBytes 4 1)])
  let s := (s.updCore e.core fun c => { c with cellar := c.cellar.filter fun x => x.id ≠ e.id }).unlockApplies [e]
  let s := match a.serial with
    | some k => s.updCtx e.ctx fun c => { c with token := if c.token = some k then none else c.token }
    | none => s
  let (sev, s) := s.containLaunch e.ctx e.lid within
  s.postRung e.lid { f with sev := sev, flags := rungFlags sev }

/-- A byte of a bank cannot be corrected: what its check finds depends on who reads it (R408, R414, R416). -/
def State.strikeBank (s : State) (core bank byte : Nat) : State :=
  let c := s.core core
  if (Tbl.find c.banks bank).isNone || 65536 ≤ byte then s
  else
    let hit := c.cellar.find? fun e => match e.req with | .apply a => s.logHolds a core bank byte | _ => false
    let s := s.updBank core bank fun b => { b with bad := if b.bad.contains byte then b.bad else b.bad ++ [byte] }
    match hit with
    | some e => (match e.req with | .apply a => s.logTrap e a | _ => s)
    | none => s

/-- A word of a loft cannot be corrected: its map is lost (R419). -/
def State.strikeLoft (s : State) (die handle : Nat) : State :=
  if (s.die die).loft.any fun m => m.handle = handle && !m.lost then
    let s := s.updDie die fun d => { d with loft := d.loft.map fun m => if m.handle = handle then { m with lost := true } else m }
    s.postModule { cls := 4, die := die, site := 7, index := 2,
                   detail := detailOf [(0, toBytes 1 2), (2, toBytes 1 7), (4, toBytes 4 1)] }
  else s

/-- What an item of the agenda does. -/
def Act.run (a : Act) (s : State) : Out :=
  match a with
  | .ev i => runEvent i s
  | .pick w => pickWave w s
  | .part w n => pickPart w n s
  | .roundPart uid cv n => stopPart uid cv n s
  | .applyLine w => .next (if s.hubs.fatal.isSome then s else s.txLineApply w)
  | .msixEntry v e => .next (s.writeMsix v e)
  | .limitStep d i => .next (if s.hubs.fatal.isSome then s else s.limitStep d i)
  | .linkTrain i => .next (if s.hubs.fatal.isSome then s else s.linkTrain i)
  | .attach ctrl nsid big =>
    .next (s.updHubs fun h =>
      let l := h.bigBlocks.filter (· ≠ (ctrl, nsid))
      { h with bigBlocks := if big then l ++ [(ctrl, nsid)] else l })
  | .hostStore addr b => .next (s.updHomes fun h => { h with host := Mem.writeN h.host addr b })
  | .peerStore tgt chip addr b =>
    let k := peerKey tgt chip
    .next (s.updHomes fun h => { h with peer := Tbl.set h.peer k (Mem.writeN (Tbl.get [] h.peer k) addr b) })
  | .regError w u => .next (s.strikeReg w u)
  | .bankError core bank byte => .next (s.strikeBank core bank byte)
  | .loftError die handle => .next (s.strikeLoft die handle)

/-! ## The work that there is -/

/-- The first of a list of steps that has something to do. -/
def State.tries (s : State) : List Instr → Option Out
  | [] => none
  | i :: t =>
    if s.stalls i then s.tries t
    else
      match exec i s with
      | .next s' => if s' = s then s.tries t else some (.next s')
      | x => some x

def State.booted (s : State) : Bool := s.reg 0x0008 % 16 = 1

/-- The scheduler's firmware has stopped: the agenda holds its heartbeat's end. -/
def State.hung (s : State) : Bool := s.agenda.any fun x => x.act = .ev .heartbeatTimeout

/-- When the heartbeat is next written, or ends (R437). -/
def State.heartAt (s : State) : Nat := s.hubs.sched.heartbeat + if s.hung then 100000000 else 10000000

/-- How long a takeover takes that nothing ends before: that of Table 23.4, within the bound of R437 (notes/assumptions/6.md). -/
def takeoverTime : Nat := 4300

/-- The waves that stand on cores: kept waves of SAVED units have higher numbers. -/
def State.liveWaves (s : State) : List Nat := (s.waves.filter fun p => p.2.live && p.1 < 129024).map (·.1)

/-- The next end of a watchdog's time, where it counts. -/
def State.dogAt (s : State) (w : Nat) : Option Nat :=
  if s.watched w then some ((s.wx w).lastIssue + 1000000000) else none

/-- Dies that have, or may get, an owner. -/
def State.workDies (s : State) : List Nat :=
  if s.queues.coop.isSome then List.range 84 else Tbl.keys s.dies

def ifTime (b : Bool) (i : Instr) : List Instr := if b then [i] else []

/-- Timers of the hubs. -/
def State.hubTimers (s : State) : List Instr :=
  let h := s.hubs
  ifTime (h.fatal.isNone && h.sched.takeover.any fun t => t + takeoverTime ≤ s.time) .schedulerTakeover
    ++ ifTime (s.booted && h.sched.takeover.isNone && s.heartAt ≤ s.time) (if s.hung then .heartbeatTimeout else .heartbeatWrite)
    ++ ifTime (h.sched.restarting.head?.any fun r => r.2.2 ≤ s.time) .cpCoreRestart
    ++ (h.ports.filter fun p => p.2.state = 3 && p.2.since + 2000000000 ≤ s.time).map (fun p => .linkRetrainTimeout p.1)
    ++ ifTime (h.comp.stalled.any fun p => p.2 + 10000000 ≤ s.time) .compressStallExpiry
    ++ ifTime (h.mig.window < s.time / s.migWindow) .migrationWindowEnd

/-- Timers and owners of a die. -/
def State.dieTimers (s : State) (d : Nat) : List Instr :=
  let x := s.die d
  ifTime (x.clk.relock.any fun r => r.1 ≤ s.time) (.relockEnd d)
    ++ (x.scrubs.filter fun p => p.2.1 ≤ s.time).map (fun p => .sliceScrubEnd d p.1 [])
    ++ ifTime (x.change.isNone && (s.ownerDue d || (x.owner.isSome && x.sliceEnd ≤ s.time))) (.timeSliceExpiry d)
    ++ ifTime x.change.isSome (.ownerChange d)

/-- What a wave brings about beside its instructions. -/
def State.waveWork (s : State) (w : Nat) : List Instr :=
  let x := s.wave w
  let y := s.wx w
  y.returns.map (fun r => .loadDataReturn w r.id)
    ++ ifTime (x.frontier.any Entry.isTrapped) (.programTrapTaken w)
    ++ ifTime (x.frontier = []) (.waveComplete w)
    ++ ifTime (match y.wait with | some (.time t) => t ≤ s.time | _ => false) (.sleepExpiry w)
    ++ ifTime (y.suspended.isSome || s.peerWait w) (.peerSuspendExpiry w)
    ++ ifTime ((s.dogAt w).any fun t => t ≤ s.time) (.watchdogExpiry w)
    ++ ifTime y.halt (.debuggerHalt w)

/-- What a unit brings about. -/
def State.unitWork (s : State) (uid : Nat) (u : WorkUnit) : List Instr :=
  (u.modeCh.map fun m => .bankmodeComplete uid m.id)
    ++ (u.cvs.filter fun p => p.2.rounds.any Round.issued).map (fun p => .roundComplete uid p.1)
    ++ ifTime (u.alive = []) (.unitComplete uid)
    ++ ifTime (u.aliveWids.any fun w => (s.wx w).preempt || (s.wx w).parked) (.preemptRequest uid)

/-- What a core brings about. -/
def State.coreWork (s : State) (c : Nat) (x : CoreSt) : List Instr :=
  ifTime (x.scrub.any fun t => t ≤ s.time) (.coreScrubEnd c true)
    ++ (x.cellar.filter fun e => e.t + 640 ≤ s.time).map (fun e => .cellarEntryLeave c e.id)
    ++ (x.quads.filter fun q => q.2.grows ≠ []).map (fun q => .reggrowGrant (c * 4 + q.1))
    ++ (x.copies.take 8).map (fun k => .acopyComplete c k.id)

/-- The step that performs a request at its home. -/
def CellarEntry.step (e : CellarEntry) : Instr :=
  match e.req with
  | .write _ _ _ => .writeApplyAtHome e.id
  | .alop _ _ _ => .aliasStoreApply e.id
  | .atomic _ _ => .atomicAtHome e.id
  | .apply a => .txApplyComplete a.wid
  | .join _ _ => .joinDecrement e.id
  | .preds _ _ _ => .predsDecrement e.id
  | .spawn _ _ => .writeApplyAtHome e.id
  | .cont _ => .writeApplyAtHome e.id

/-- The homes and the ways to them. -/
def State.homeWork (s : State) : List Instr :=
  s.homes.flight.map CellarEntry.step
    ++ ifTime (s.homes.egress ≠ []) .egressQuarantineRelease
    ++ ifTime (s.hubs.frames ≠ []) .releaseFrameReceive
    ++ ifTime (s.hubs.comp.pinned ≠ []) .poolRefillUnpin

/-- The step that performs the command at the head of a merge engine. -/
def EngCmd.mergeStep (c : EngCmd) : Instr :=
  match c.kind with
  | 0 => .mergeComplete c.die
  | 1 => .unmergeComplete c.die
  | _ => .maprelComplete c.die

/-- The engines and queues of a die, highest priority first. -/
def State.dieWork (s : State) (d : Nat) : List Instr :=
  let x := s.die d
  let queued (p : Nat) : List Instr :=
    ifTime (x.cardQ.any fun c => c.prio = p) (.shareStart d p) ++ ifTime (x.cardQ.any fun c => c.prio = p) (.cardCommandIssue d p)
  (x.walks.map fun k => .pageWalkComplete d k.id)
    ++ ((x.merge.take 1).map EngCmd.mergeStep)
    ++ (x.xfly.map fun f => .xformRequestComplete d f.cmd.engine)
    ++ (if x.owner.isSome && (x.xcards ≠ [] || x.xctx ≠ []) then [.xformRequestStart d 0, .xformRequestStart d 1] else [])
    ++ ([3, 2, 1, 0] : List Nat).flatMap queued
    ++ (x.slots.filter fun p => p.2.next < p.2.last).map (fun p => .clusterPlace d p.1)

/-- Cores that may take a record or restore a unit. -/
def State.startWork (s : State) : List Instr :=
  let some_ (d : Nat) : Bool :=
    (coresOf d).any (fun c => (s.core c).uq ≠ []) || s.units.any fun p => p.2.stat = .saved && dieOfCore p.2.core = d
  (((s.cores.map fun p => dieOfCore p.1) ++ s.units.map fun p => dieOfCore p.2.core).eraseDups.filter some_).flatMap fun d =>
    (coresOf d).map fun c => .unitPopStart c

/-- The mailbox operation in progress. -/
def State.mboxWork (s : State) : List Instr :=
  if !s.hubs.mbox.busy then []
  else match s.hubs.mbox.op with
    | 1 => [.ctxon]
    | 2 => [.ctxoff]
    | 3 => [.tlbinv]
    | 4 => [.flashxfer]
    | 5 => [.cciload]
    | _ => [.attest]

/-- The dispatchers and the command processor. -/
def State.queueWork (s : State) : List Instr :=
  let q := s.queues
  q.nmQ.map (fun c => if c.kind = 3 then .nmredComplete c.id else .nmscanComplete c.id)
    ++ (s.ctxs.filter fun p => p.2.token.isNone && p.2.fifo ≠ []).map (fun p => .serialTokenPass p.1)
    ++ ifTime (q.launches.any fun p => p.2.flush) .stagedEgressFlush
    ++ ifTime (q.launches.any fun p => p.2.replaying.isSome) .launchReplay
    ++ ifTime (q.signals ≠ []) .hostSignalPerform
    ++ (q.cards.filter fun c => c.stat = .done).map (fun c => .cardComplete c.ctx c.addr)
    ++ ifTime (q.subs ≠ [] || s.ctxs.any fun p => p.2.tail.isSome) .cardRegister
    ++ (s.ctxs.filter fun p => p.2.pq ≠ []).map (fun p => .packageQueueTake p.1)
    ++ ifTime (q.coopQ ≠ []) .coopAdmit ++ ifTime q.coop.isSome .coopStart
    ++ ifTime (s.hubs.errQ ≠ []) .errorRecordPost ++ ifTime (s.hubs.faultQ ≠ []) .faultRecordPost
    ++ s.mboxWork

/-- Every step that may have something to do now. -/
def State.work (s : State) : List Instr :=
  if s.hubs.fatal.isSome then ifTime (s.hubs.fatal.any fun t => t ≤ s.time) .fatalGraceExpiry
  else
    s.hubTimers ++ s.workDies.flatMap s.dieTimers ++ s.liveWaves.flatMap s.waveWork
      ++ s.units.flatMap (fun p => s.unitWork p.1 p.2) ++ s.cores.flatMap (fun p => s.coreWork p.1 p.2) ++ s.homeWork
      ++ (Tbl.keys s.dies).flatMap s.dieWork ++ s.startWork ++ s.queueWork

/-! ## The wave that runs -/

/-- What a quadrant does: the holder of its slot runs, or one is chosen. A holder that may not issue gives the slot up, but for
one whose die relocks. -/
def State.quadRun (s : State) (q : Nat) : Option Out :=
  match ((s.core (q / 4)).quad (q % 4)).holder with
  | some w =>
    if s.mayIssue w then some (runWave w s)
    else if (s.die (dieOf w)).clk.relock.isSome then none
    else some (.next (s.freeSlot w))
  | none => if (quadWaves q).any s.ready then some (exec (.issueChoice q) s) else none

/-- Quadrants with waves, from the one after the current wave's on. -/
def State.quadOrder (s : State) : List Nat :=
  let qs := (s.liveWaves.map (· / 24)).eraseDups
  qs.filter (fun q => s.cur / 24 < q) ++ qs.filter fun q => q ≤ s.cur / 24

def State.runQuads (s : State) : Option Out :=
  if s.hubs.fatal.isSome then none else s.quadOrder.findSome? s.quadRun

/-- Registers that can be mirrored (R397): done when nothing else is. -/
def State.idleWork (s : State) : List Instr :=
  if s.hubs.fatal.isSome then []
  else s.liveWaves.flatMap fun w =>
    if ((s.unitOf w).map fun u => u.crec.mirrorOk).getD false then
      ((List.range (s.wave w).valloc).filter fun r => !((s.wx w).mirrored.contains r)).map fun r => .mirrorCopyDone w r
    else []

/-! ## Time -/

/-- How long a store stays in a forwarding table that nothing drains before (notes/assumptions/8.md). -/
def fwdHold : Nat := 16

/-- The quadrant whose oldest held store is due in its bank (R110). -/
def State.fwdDue (s : State) : Option (Nat × Nat) :=
  s.cores.findSome? fun p => (p.2.quads.find? fun q => q.2.fwd.any fun e => e.t + fwdHold ≤ s.time).map fun q => (p.1, q.1)

/-- Times at which something comes to its end. -/
def State.deadlines (s : State) : List Nat :=
  let h := s.hubs
  match h.fatal with
  | some t => [t]
  | none =>
    h.sched.takeover.toList.map (· + takeoverTime)
      ++ (if s.booted && h.sched.takeover.isNone then [s.heartAt] else [])
      ++ h.sched.restarting.map (·.2.2)
      ++ (h.ports.filter fun p => p.2.state = 3).map (fun p => p.2.since + 2000000000)
      ++ h.comp.stalled.map (fun p => p.2 + 10000000)
      ++ (if h.mig.counts = [] then [] else [(h.mig.window + 1) * s.migWindow])
      ++ s.dies.flatMap (fun p => (p.2.clk.relock.toList.map (·.1)) ++ p.2.scrubs.map (·.2.1)
            ++ if p.2.owner.isSome && (s.nextOwner p.1).any fun n => p.2.owner ≠ some n then [p.2.sliceEnd] else [])
      ++ s.cores.flatMap (fun p => p.2.scrub.toList ++ p.2.cellar.map (fun e => e.t + 640) ++ p.2.quads.flatMap fun q => q.2.fwd.map fun e => e.t + fwdHold)
      ++ s.homes.egress.map (fun f => f.t + 640)
      ++ s.queues.signals.map (fun g => g.t + 640)
      ++ s.liveWaves.flatMap (fun w => (s.dogAt w).toList ++ (s.wx w).suspended.toList.map (· + 2000000000)
            ++ match (s.wx w).wait with | some (.time t) => [t] | _ => [])

/-- The least of the times after now. -/
def nextTime (now : Nat) (l : List Nat) : Option Nat :=
  l.foldl (fun b t => if t ≤ now then b else match b with | none => some t | some x => some (min x t)) none

/-- Nothing can be done now: time goes on to the next thing that ends, or to the agenda's next item. -/
def State.wait_ (s : State) : State :=
  match nextTime s.time (s.deadlines ++ (s.agenda.take 1).map (·.t)) with
  | some t => { s with time := t }
  | none => s

/-- Work of the device that no step of its own names: requests of peers, dies above their ceilings, what waits for room in a queue. -/
def State.quietWork (s : State) : Option State :=
  if s.hubs.fatal.isSome then none
  else
    match s.limitNext with
    | some t => some t
    | none =>
      match s.peerNext with
      | some t => some t
      | none => if s.hubs.sched.takeover.isSome then none else match s.heldNext with | some t => some t | none => s.againNext

/-- WHAT HAPPENS NEXT beside the agenda: the device's own work, then the waves in turn, then the passing of time. -/
def State.nextWork (s : State) : Out :=
  match s.tries s.work with
  | some o => o
  | none =>
  match s.quietWork with
  | some s' => .next s'
  | none =>
    match s.fwdDue with
    | some (c, q) => .next (s.drainFwd c q)
    | none =>
      match s.runQuads with
      | some o => o
      | none =>
        match s.tries s.idleWork with
        | some o => o
        | none => .next s.wait_

/-- The first item of the agenda is due. -/
def State.due (s : State) : Option (Act × State) :=
  match s.agenda with
  | [] => none
  | x :: rest => if x.t ≤ s.time then some (x.act, { s with agenda := rest }) else none

/-- A die whose relock has come to its end: it ends before anything else happens (R16). -/
def State.relockDue (s : State) : Option Nat :=
  if s.hubs.fatal.isSome then none
  else (s.dies.find? fun p => p.2.clk.relock.any fun r => r.1 ≤ s.time).map (·.1)

/-- One step: the end of a relock, else what the agenda has due, else the next work. -/
def State.stepOnce (s : State) : Out :=
  match s.relockDue with
  | some d => exec (.relockEnd d) s
  | none =>
    match s.due with
    | some (a, s') => a.run s'
    | none => s.nextWork

/-! ## A machine that comes to one instruction -/

/-- The unit of one wave that `loaded` runs: context 0, no banks, every register allotted. -/
def loneUnit : WorkUnit :=
  { crec := { code := 0x1000, frame := 0, join := 0, unit := 0, slot := 0, flags := 0, ctx := 0, lid := 0, prio := 0 },
    core := 0, slots := [0], alive := [0], sbanks := 0, cbanks := 0, txlog := 0, args := 0, bankMap := [] }

/-- The state with one unit of one wave that has fetched a clause of the one instruction `w`, and whose turn is next
(notes/assumptions/5.md). -/
def State.loaded (s : State) (w : Dword) : State :=
  let e : Entry := { pc := 0x1000, mask := allLanes, fetched := true, todo := [⟨0, 0, w, false⟩] }
  let uid := s.nextId
  let x : Wave := { live := true, uid := uid, idx := 0, valloc := 256, salloc := 384, frontier := [e] }
  let s1 := ((s.setWave 0 x).setWx 0 { lastIssue := s.time }).setUnit uid loneUnit
  let s2 := s1.updQuad 0 0 fun q => { q with holder := some 0 }
  { s2 with nextId := uid + 1, cur := 0, agenda := [⟨s.time, .pick 0⟩] }

end Sys2Proof.Machine
end

