-- ==== Sys2Proof/Machine/Step.lean ====
section
/-! DEFINITION. One step of the module, and a state whose next step runs one instruction. -/

namespace Sys2Proof.Machine

/-- ONE STEP OF THE MODULE. -/
def step (s : State) : Host.Outcome State Fault Refusal := s.stepOnce

/-- The state with an instruction where the next step runs it: the low `nbits` of `w` as a slot word of a fetched clause. -/
def State.withFetchWord (s : State) (nbits w : Nat) : State := s.loaded (BitVec.ofNat 64 (w % 2 ^ nbits))

end Sys2Proof.Machine
end

