-- ==== Sys2Proof/Safety.lean ====
section
/-! DEFINITION. The terms in which claims about the machine are put: when an instruction performs in its ACTIVE lanes, what an
operand reads, what stays as it was, and the invariants. -/

namespace Sys2Proof.Machine

/-! ## An instruction that performs -/

/-- A guard over q predicates (groups 0 and 1 but BRX) and over p predicates (BRX and groups 2 to 6) (R231). -/
def byQ (g : BitVec 3) (neg : Bool) (x : Wave) : LaneMask := x.guardQ g neg
def byP (g : BitVec 3) (neg : Bool) (x : Wave) : LaneMask := x.guardP g neg
/-- No guard. -/
def unguarded (_ : Wave) : LaneMask := allLanes

/-- The entry of the current wave that issues, and its ACTIVE lanes. -/
def State.entry (s : State) : Entry := (s.wave s.cur).issuing.getD { pc := 0, mask := 0 }
def State.active (s : State) (guard : Wave → LaneMask) : LaneMask := s.entry.mask &&& guard (s.wave s.cur) &&& ~~~ s.entry.cut

/-- The current wave stands at an instruction that has not begun, with some ACTIVE lane; the instruction passes the checks of
decode (R424); every register that it awaits is full and none that it reads is empty (R239, R428); no ACTIVE lane is in a
transaction where transactions may not be (R326); and no register that it reads holds an upset (R395). -/
def State.performs (s : State) (guard : Wave → LaneMask) (g : Sig) : Bool :=
  let x := s.wave s.cur
  let e := s.entry
  let m := s.active guard
  x.issuing.isSome && e.stage = 0 && e.left.isNone && e.done = 0 && m ≠ 0
    && (g.trap x (s.wx s.cur).handler.isSome).isNone
    && x.allFull (g.awaits m).1 (g.awaits m).2
    && (!g.noTx || s.txLanes s.cur m = 0)
    && g.emptyLanes x m = 0
    && x.struck (g.reads m).1 (g.reads m).2 = []

/-- What the performing of the instruction sees. -/
def State.sees (s : State) (guard : Wave → LaneMask) : At := ⟨s.cur, s.wave s.cur, s.entry, s.active guard⟩

/-- The instruction is done, and the entry goes on to its next instruction or to the end of its clause (R30, R224). -/
def State.ended (s : State) : State := (Eff.next s).finish s.cur

/-- Where an instruction performs, it answers a next state of which `post` holds. -/
def State.gives (s : State) (guard : Wave → LaneMask) (g : Sig) (i : Instr) (post : State → Prop) : Prop :=
  s.performs guard g = true → ∃ t, exec i s = .next t ∧ post t

/-- The registers of the current wave. -/
def State.me (s : State) : Wave := s.wave s.cur

/-! ## Values -/

/-- The integer of `w` bits, signed or not, that an exact result leaves: clamped with SAT, else wrapped (R131). -/
def fitted (ty : Nat) (sat : Bool) (v : Int) : Int :=
  let w := elemW ty
  if sat then
    if isSigned ty then max (-(2 ^ (w - 1))) (min (2 ^ (w - 1) - 1) v) else max 0 (min (2 ^ w - 1) v)
  else if isSigned ty then Int.bmod v (2 ^ w) else v % 2 ^ w

/-- Element `k` of an operand in a lane. -/
def Wave.elem (x : Wave) (ty : Nat) (o : Operand) (l k : Nat) : Int := elemI ty (x.srcT ty o l) k

/-- Element `k` of a destination holds `v`; the destination 0x3FF holds nothing. -/
def Wave.holds (x : Wave) (ty : Nat) (o : Operand) (l k : Nat) (v : Int) : Prop := o ≠ .zero → x.elem ty o l k = v

/-- A destination holds a word, or a pair holds a double word; 0x3FF holds nothing. -/
def Wave.holdsWord (x : Wave) (o : Operand) (l : Nat) (v : Word) : Prop := o ≠ .zero → x.src .int o l = v
def Wave.holdsPair (x : Wave) (o : Operand) (l : Nat) (v : Dword) : Prop := o ≠ .zero → x.src64 o l = v
/-- A destination at the width of a TYPE holds the low bits of a double word. -/
def Wave.holdsT (x : Wave) (ty : Nat) (o : Operand) (l : Nat) (v : Dword) : Prop :=
  o ≠ .zero → x.srcT ty o l = if wide ty then v else (loHalf v).setWidth 64

/-- Adjacent values combined in a binary tree: level `n` combines 2^n of them (Table 6.9). -/
def laneTree {α : Type} (op : α → α → α) (v : Nat → α) : Nat → Nat → α
  | 0, i => v i
  | n + 1, i => op (laneTree op v n (2 * i)) (laneTree op v n (2 * i + 1))

/-- The steps of a prefix over lanes at offsets 1, 2, 4 and on: after `n` of them (R294). -/
def lanePrefix {α : Type} (op : α → α → α) (v : Nat → α) : Nat → Nat → α
  | 0, l => v l
  | n + 1, l => if 2 ^ n ≤ l then op (lanePrefix op v n (l - 2 ^ n)) (lanePrefix op v n l) else lanePrefix op v n l

/-! ## What stays -/

/-- Outside the lanes `m` of the vector registers `vs` and outside the scalars `ss`, no register of a wave differs. -/
def Wave.keepsRegs (x y : Wave) (vs : List Nat) (m : LaneMask) (ss : List Nat) : Prop :=
  (∀ r l, l < 32 → (r ∈ vs ∧ inMask m l = true) ∨ y.vGet r l = x.vGet r l) ∧ (∀ n, n ∈ ss ∨ y.sGet n = x.sGet n)

/-- Outside the lanes `m` of the p registers `ps` and outside the q registers `qs`, no predicate of a wave differs. -/
def Wave.keepsPreds (x y : Wave) (ps : List Nat) (m : LaneMask) (qs : List Nat) : Prop :=
  (∀ r l, l < 32 → (r ∈ ps ∧ inMask m l = true) ∨ inMask (y.pGet r) l = inMask (x.pGet r) l) ∧ (∀ n, n ∈ qs ∨ y.qGet n = x.qGet n)

/-- The dependence counters, the full and empty bits and the allotments stay. -/
def Wave.keepsRest (x y : Wave) : Prop :=
  y.dc = x.dc ∧ y.vE = x.vE ∧ y.sE = x.sE ∧ y.valloc = x.valloc ∧ y.salloc = x.salloc ∧ y.live = x.live ∧ y.uid = x.uid
    ∧ y.idx = x.idx

/-- The control state of a wave stays but for PROGIDX, which an instruction that was resumed clears (R47), for what the wave
waits for, and for the trap, exit and abort bookkeeping of its entries. -/
def WaveX.keeps (y z : WaveX) : Prop :=
  z.returns = y.returns ∧ z.vtos = y.vtos ∧ z.handler = y.handler ∧ z.txretry = y.txretry ∧ z.tx = y.tx
    ∧ z.applies = y.applies ∧ z.arrived = y.arrived ∧ z.barHeld = y.barHeld ∧ (y.resumed = false → z.resumed = false ∧ z.progidx = y.progidx)

/-- What a core holds stays, but for which wave holds an issue slot. -/
def CoreSt.keeps (c d : CoreSt) : Prop :=
  d.banks = c.banks ∧ d.l1 = c.l1 ∧ d.cellar = c.cellar ∧ d.copies = c.copies ∧ d.dicts = c.dicts ∧ d.uq = c.uq ∧ d.tlb = c.tlb
    ∧ d.frozen = c.frozen ∧ d.scrub = c.scrub ∧ d.retired = c.retired ∧ ∀ q, (d.quad q).fwd = (c.quad q).fwd

/-- A byte as its home holds it, as a core reads it over the home's, and as a bank holds it. -/
def State.byteAt (s : State) (l : Loc) : Byte := (s.readLoc l 0 1).headD 0
def State.seenByte (s : State) (core asid : Nat) (alloc : Bool) (l : Loc) : Byte := s.coreByte core asid alloc l (s.byteAt l)
def State.bankByte (s : State) (core b off : Nat) : Byte := Tbl.get 0 ((s.core core).bank b).bytes off

/-- Every byte of memory reads as before: at its home, through every core, and in every bank. -/
def State.keepsMemory (s t : State) : Prop :=
  (∀ l, t.byteAt l = s.byteAt l) ∧ (∀ c a al l, t.seenByte c a al l = s.seenByte c a al l)
    ∧ (∀ c b off, t.bankByte c b off = s.bankByte c b off)

/-- Beside the current wave and the issue slots, nothing of the module differs. -/
def State.keepsWorld (s t : State) : Prop :=
  (∀ w, w ≠ s.cur → t.wave w = s.wave w ∧ t.wx w = s.wx w) ∧ t.units = s.units ∧ t.dies = s.dies ∧ t.ctxs = s.ctxs
    ∧ t.homes = s.homes ∧ t.queues = s.queues ∧ t.hubs = s.hubs ∧ t.time = s.time ∧ t.cur = s.cur ∧ t.agenda = s.agenda
    ∧ ∀ c, CoreSt.keeps (s.core c) (t.core c)

/-- The lanes that an instruction of the current wave acts in: those left of one that has begun, else the ACTIVE ones. -/
def State.acts (s : State) (guard : Wave → LaneMask) : LaneMask :=
  match s.entry.left with
  | some m => m
  | none => s.active guard

/-- No lane of the current wave is in a transaction, and no register of it holds an upset. -/
def State.calm (s : State) : Prop := (s.wx s.cur).tx = [] ∧ s.me.upsets = []

/-- But for lanes `m` of the vector registers `vs`, the scalars `ss`, lanes `m` of the p predicates `ps` and the q predicates
`qs` of the current wave, its frontier, and its bookkeeping of traps and waits, nothing differs. -/
def State.keepsAllBut (s t : State) (vs : List Nat) (m : LaneMask) (ss ps qs : List Nat) : Prop :=
  s.me.keepsRegs t.me vs m ss ∧ s.me.keepsPreds t.me ps m qs ∧ s.me.keepsRest t.me ∧ (s.wx s.cur).keeps (t.wx s.cur)
    ∧ s.keepsWorld t ∧ s.keepsMemory t

/-- Nothing differs but the frontier of the current wave and its bookkeeping of traps and waits: what is left of an instruction
whose effect is done. -/
def State.becomes (s t : State) : Prop := s.keepsAllBut t [] 0 [] [] []

/-! ## Where lanes stand -/

/-- The fall-through address of the issuing entry's clause (R224). -/
def State.nextPc (s : State) : Dword := s.entry.pc + BitVec.ofNat 64 (8 * (s.entry.hdr.toNat % 16 + 2))

/-- An entry that is not trapped holds the lane at a clause, and no entry holds it elsewhere. -/
def Wave.standsAt (x : Wave) (l : Nat) (pc : Dword) : Prop :=
  (∃ e, e ∈ x.frontier ∧ inMask e.mask l = true ∧ e.pc = pc ∧ e.isTrapped = false)
    ∧ ∀ e, e ∈ x.frontier → inMask e.mask l = true → e.pc = pc

/-- The lanes of a mask leave the issuing entry for a trapped entry at the instruction where it stands. -/
def State.traps (s t : State) (m : LaneMask) (code addr : Nat) : Prop :=
  ∀ l, l < 32 → inMask m l = true → ∃ e, e ∈ t.me.frontier ∧ inMask e.mask l = true ∧ e.stat = .trapped code addr
    ∧ e.pc = s.entry.pc ∧ e.slot = s.entry.slot ∧ e.code = s.entry.code

/-- No lane of the current wave waits for the end of its clause to go to an abort target or a late trap, and no other entry
holds a lane of the issuing one (R30). -/
def State.plain (s : State) : Bool :=
  (s.wx s.cur).txGone = [] && (s.wx s.cur).lateTraps = []
    && (setIssuing s.me.frontier none).all fun e => e.mask &&& s.entry.mask = 0

/-- The issuing entry goes on to the next instruction of its clause. -/
def State.goesOn (s t : State) : Prop :=
  ∀ k n r, s.entry.todo = k :: n :: r → ∃ e, t.me.issuing = some e ∧ e.todo = n :: r ∧ e.mask = s.entry.mask

/-- What the current wave waits for. -/
def State.awaited (s : State) : Option Wait := (s.wx s.cur).wait

/-! ## Memory accesses -/

/-- Little-endian words of loaded bytes as values for registers from `reg` up (R309). -/
def arriving (vec : Bool) (reg regs lane : Nat) (b : List Byte) : List RVal :=
  (List.range regs).map fun i => ⟨vec, reg + i, lane, BitVec.ofNat 32 (leAt b (4 * i) 4)⟩

/-- Values are on their way to registers that are empty until they come, under a completion record that decrements a counter
(R239, R240). -/
def State.onTheWay (t : State) (ctr : Option Nat) (vs : List RVal) : Prop :=
  ∃ r, r ∈ (t.wx t.cur).returns ∧ r.ctr = ctr ∧ ∀ v, v ∈ vs → v ∈ r.vals
    ∧ (if v.vec then inMask (t.me.vEmpty v.reg) v.lane else t.me.sEmpty v.reg) = true

/-- A load waits at its home (R311): the bytes that the core holds are kept for it, and the registers that it is for are empty. -/
def State.waitsAtHome (t : State) (ctr : Option Nat) (l : Loc) (own : List (Option Byte)) (vs : List RVal) : Prop :=
  ∃ r h, r ∈ (t.wx t.cur).returns ∧ r.ctr = ctr ∧ h ∈ r.held ∧ h.loc = l ∧ h.have_ = own ∧ h.out = vs
    ∧ ∀ v, v ∈ vs → (if v.vec then inMask (t.me.vEmpty v.reg) v.lane else t.me.sEmpty v.reg) = true

/-- A memory access of the current wave can begin: no BANKMODE and no BHAD of the unit runs, its counter, the cellar and the 512
requests of the core (R13) have room, and the number that its completion record takes is new. -/
def State.opens (s : State) (ctr : Option Nat) : Prop :=
  (∀ r, r ∈ (s.wx s.cur).returns → r.id ≠ s.nextId) ∧ s.modeBusy s.me.uid allLanes = false ∧ (∀ k, ctr = some k → s.me.dcGet k ≤ 62) ∧ (s.core (coreOf s.cur)).room 64 = true
    ∧ s.outstanding (coreOf s.cur) + 32 ≤ 512
    ∧ ∀ u, s.unitOf s.cur = some u → ∀ h, h ∈ u.hads → s.hadOn u h = false

/-- No lane of the current wave is in a transaction, or has left one in this clause. -/
def State.outsideTx (s : State) : Prop := (s.wx s.cur).tx = [] ∧ (s.wx s.cur).txGone = []

/-- Nothing holds a load of `n` bytes at a place, and no error meets it. -/
def State.reachable (s : State) (lane : Nat) (p : Phys) (n pol : Nat) : Prop :=
  s.hold s.cur lane .plain true p n pol = none ∧ s.locPoisoned p.loc p.mxf n = false ∧ s.meet p.loc n = s
    ∧ s.wayOf p.loc ≠ .none

/-- The byte `j` of a load at a place (R93, R107 to R109): a dirty byte of the core's L1, else the youngest on its way to the home,
else a clean byte of the L1 where it holds all that the load reads, else the byte at the home, of which a load that allocates fetches
the line, with the writes that the launch has staged. -/
def State.loadedByte (s : State) (lid : Nat) (p : Phys) (n pol j : Nat) : Byte :=
  let z := s.readyLoc p.loc
  let core := coreOf s.cur
  let asid := (s.ctx (s.ctxOf s.cur)).asid
  let l := { p.loc with ra := p.loc.ra + j }
  let alloc := z.allocates core p pol && (z.core core).room 1
  let held := alloc && (z.core core).holds p.loc asid n
  let home := if alloc && !held then (z.readLoc (lineLoc p.loc) p.mxf 128).getD (p.loc.ra % 128 + j) 0#8
    else (z.readLoc p.loc p.mxf n).getD j 0#8
  z.coreByte core asid held l ((z.stagedByte lid l).getD home)

/-- A release of the current wave's core finds room: nothing is held in its forwarding tables, no epoch holds it, and the cellar
takes every line of the L1. -/
def State.releasable (s : State) : Prop :=
  let c := s.core (coreOf s.cur)
  (∀ q, q < 4 → (c.quad q).fwd = []) ∧ s.epochHeld (dieOf s.cur) = false ∧ c.cellar.length + c.l1.length < 1000
    ∧ (c.cellar.foldl (fun a e => a + e.req.sectors) 0) + 5 * c.l1.length + 4 ≤ 4096

/-- A release of the current wave's core has nothing to wait for: no line of its L1 is dirty, and its cellar and its writes on the
way are none. -/
def State.settled (s : State) : Prop :=
  let core := coreOf s.cur
  s.releasable ∧ (s.core core).cellar = [] ∧ (∀ x, x ∈ (s.core core).l1 → x.isDirty = false)
    ∧ ∀ e, e ∈ s.homes.flight → e.core ≠ core

/-- A bank instruction of the current wave that names the banks of a mask has its turn: no BANKMODE and no earlier work of the
unit names one of them (R92, R162). -/
def State.turnAt (s : State) (mask : LaneMask) : Prop :=
  s.modeBusy s.me.uid mask = false ∧ s.banksBusy s.me.uid mask s.nextId = false

/-! ## Invariants -/

/-- Memory keeps its canonical form: addresses rise, and no cell holds what an unlisted address reads as. -/
def State.memOk (s : State) : Bool :=
  Mem.wf s.homes.dram && Mem.wf s.homes.host && s.homes.peer.all fun p => Mem.wf p.2

/-! ## Frames -/

/-- For an instruction that changes registers and the frontier alone: its guard, and the p and q predicates that it may write. The
registers that it may write are the destinations of its signature. -/
def registerOnly (i : Instr) : Option ((Wave → LaneMask) × List Nat × List Nat) :=
  match i with
  | .nop f | .smov f | .sadd f | .ssub f | .smul f | .smulh f | .smad f | .sdiv f | .srem f | .smin f | .smax f | .sand f | .sor f
  | .sxor f | .sandn f | .sshl f | .sshr f | .ssra f | .sbfe f | .sbfi f | .spopc f | .sclz f | .ssel f | .sfadd f | .sfmul f
  | .sffma f | .sfcvt f | .jmpi f | .calli f | .ret f => some (byQ f.guard f.neg, [], [])
  | .smovi f => some (byQ f.guard f.neg, [], [])
  | .saddi f | .smuli f | .sandi f | .sori f | .sxori f | .sshli f | .sshri f | .crd f | .frget f | .feget f =>
    some (byQ f.guard f.neg, [], [])
  | .scmp f | .sfcmp f | .qlog f => some (byQ f.guard f.neg, [], [f.pT.toNat, f.pF.toNat])
  | .bra f | .call f => some (byQ f.guard f.neg, [], [])
  | .brx f => some (byP f.guard f.neg, [], [])
  | .vmov f | .vadd f | .vsub f | .vmul f | .vmulh f | .vmad f | .vmin f | .vmax f | .vabs f | .vand f | .vor f | .vxor f | .vandn f
  | .vshl f | .vshr f | .vsra f | .vbfe f | .vbfi f | .vpopc f | .vclz f | .vsel f | .vidx f | .vdot4 f | .vprmt f | .shfl f | .vote f
  | .vred f | .vscan f | .fadd f | .fsub f | .fmul f | .ffma f | .fmin f | .fmax f | .fmov f | .frcp f | .frsq f | .fsqrt f | .fdiv f
  | .fexp2 f | .flog2 f | .fsinpi f | .fcospi f | .frnd f | .fldexp f | .fcvt f | .fpack f | .funpack f | .fbscale f | .fdot2 f
  | .fclass f => some (byP f.guard f.neg, [], [])
  | .vmovi f => some (byP f.guard f.neg, [], [])
  | .vaddi f | .vandi f | .vshli f | .vshri f => some (byP f.guard f.neg, [], [])
  | .vcmp f | .plog f | .fcmp f => some (byP f.guard f.neg, [f.pT.toNat, f.pF.toNat], [])
  | .pmov f => some (byP f.guard f.neg, [(idxOf f.dst).getD 7], [])
  | _ => none

/-- A location lies in one of `n` bytes from a place up. -/
def Loc.within (l : Loc) (p : Phys) (n : Nat) : Prop :=
  l.tgt = p.loc.tgt ∧ l.chip = p.loc.chip ∧ l.alop = p.loc.alop ∧ p.loc.ra ≤ l.ra ∧ l.ra < p.loc.ra + n

/-- No error meets an access of the current wave: nothing is poisoned, no error is armed, there is no compressed frame, and no byte
of its core's banks has failed; its unit waits on faults; no page that it reaches is one of the alias operations 2 to 4; and the L2 has room. -/
def State.sound (s : State) : Prop :=
  s.calm ∧ s.homes.poison = [] ∧ s.reg 0x0F08 % 2 = 0 ∧ s.reg 0x0020 = 0 ∧ (∀ b, ((s.core (coreOf s.cur)).bank b).bad = [])
    ∧ s.idempUnit s.cur = false
    ∧ (∀ va n k p, s.xlate s.cur va n k = .ok p → p.loc.alop < 2 ∨ 4 < p.loc.alop)
    ∧ s.homes.l2.length + 4096 < 65536

/-! ## Events of the device -/

/-- A step of the device answers a next state of which `post` holds. -/
def State.happens (s : State) (i : Instr) (post : State → Prop) : Prop := ∃ t, exec i s = .next t ∧ post t

/-- One error record more is queued: its log, class and first byte of detail (R368). -/
def State.posts (s t : State) (ctx : Option Nat) (cls code : Nat) : Prop :=
  ∃ r, t.hubs.errQ = s.hubs.errQ ++ [r] ∧ r.ctx = ctx ∧ (r.bytes.getD 0 0).toNat = cls ∧ (r.bytes.getD 40 0).toNat = code

/-- A SCHED record of a context with a code of Table 20.4 is among those queued. -/
def State.reported (t : State) (ctx code : Nat) : Prop :=
  ∃ r, r ∈ t.hubs.errQ ∧ r.ctx = some ctx ∧ (r.bytes.getD 0 0).toNat = 9 ∧ (r.bytes.getD 40 0).toNat = code

/-- A unit of a launch stands on a core as it starts (R29): its record, and its waves with the registers and the entry that they
start with. -/
def State.starts (t : State) (core : Nat) (l : Launch) (unit frame code : Nat) : Prop :=
  ∃ uid u, t.unit uid = some u ∧ u.core = core ∧ u.crec.lid = l.id ∧ u.crec.unit = unit ∧ u.stat = .resident ∧ u.slots.length = l.wpu
    ∧ ∀ i k, u.slots[i]? = some k →
        let x := t.wave (core * 96 + k)
        k / 24 = i % 4 ∧ x.live = true ∧ x.uid = uid ∧ x.idx = i ∧ x.valloc = l.vregs ∧ x.salloc = l.sregs
          ∧ x.sPair 0 = BitVec.ofNat 64 frame ∧ x.sPair 2 = BitVec.ofNat 64 l.args ∧ x.sGet 4 = BitVec.ofNat 32 unit
          ∧ x.sGet 5 = BitVec.ofNat 32 i ∧ (∀ r, 6 ≤ r → x.sGet r = 0) ∧ (∀ r j, x.vGet r j = 0)
          ∧ ∃ e, x.frontier = [e] ∧ e.pc = BitVec.ofNat 64 code ∧ e.mask = allLanes ∧ e.stat = .ready ∧ e.fetched = false

/-- A command of a wave whose turn has come: its descriptor is read, nothing has stopped it, and its release is of PACKAGE scope or
narrower. -/
def State.atTurn (s : State) (c : EngCmd) : Prop :=
  c.role = 0 ∧ c.waiting = false ∧ c.result = none ∧ (c.kind ≠ 2 → c.desc.length = 64) ∧ c.card = none ∧ c.scope ≤ 3 ∧ s.cmdHeld c.id = some c

/-- Writes of an engine's command performed at their places. -/
def State.putAll (s : State) (c : EngCmd) (ps : List (Phys × List Byte)) : State :=
  ps.foldl (fun s p => s.engPut c.id (c.die * 16) c.ctx (s.cmdLid c) p.1 p.2) s

/-- A command of a wave whose outputs are written has ended: no engine holds it, its status register is full with a value, and its
counter has fallen by one (R173, R190, R240). -/
def State.commandEnds (z t : State) (c : EngCmd) (val : Nat) : Prop :=
  t.homes = z.homes ∧ t.cmdHeld c.id = none
    ∧ (z.issuer c.uid c.wid = true →
        (∀ r, c.dst = some r → (t.wave c.wid).sGet r = BitVec.ofNat 32 val ∧ (t.wave c.wid).sEmpty r = false)
          ∧ ∀ k, c.ctr = some k → 0 < (z.wave c.wid).dcGet k → (t.wave c.wid).dcGet k = (z.wave c.wid).dcGet k - 1)

/-- A command of a wave has been performed: its status code and value stand, and what it writes is to go through the cellar of its
core (R111). -/
def State.performed (t : State) (c : EngCmd) (code val : Nat) (ps : List (Phys × List Byte)) : Prop :=
  t.cmdHeld c.id = some { c with outs := ps.flatMap (fun p => piecesOf p.1 p.2), result := some (code, val) }

/-- The result of a command of a wave stands. -/
def EngCmd.stands (c : EngCmd) (code val : Nat) : Prop :=
  c.result = some (code, val) ∧ c.role = 0 ∧ c.waiting = false ∧ c.card = none

/-- The writes of a command that stands go on their way as its core's cellar has room, and once all are applied it ends. -/
def State.finishes (s : State) (i : Instr) (c : EngCmd) (val : Nat) : Prop :=
  let core := coreOf c.wid
  (∀ p rest, c.outs = p :: rest → s.wayOf p.loc ≠ .none → s.emitRoom core = true → s.happens i fun t =>
      ∃ e, e ∈ (t.core core).cellar ∧ e.req =
        if 2 ≤ p.loc.alop && p.loc.alop ≤ 4 then .alop p.loc p.mxf (elemWords p.bytes) else .write p.loc p.bytes p.mask)
    ∧ (c.outs = [] → s.applied core c.mark = true → s.happens i fun t => s.commandEnds t c val)

/-- Bytes are written at real addresses from `ra` up where a mask says so: they read so at their homes, and every other byte
reads as before. -/
def State.wrote (s t : State) (ra : Nat) (b : List Byte) (m : List Bool) : Prop :=
  ∀ a, t.homeByte a = if ra ≤ a ∧ a - ra < b.length ∧ m.getD (a - ra) false = true then b.getD (a - ra) 0#8 else s.homeByte a

/-- The same of whole bytes. -/
def State.stored (s t : State) (ra : Nat) (b : List Byte) : Prop := s.wrote t ra b (List.replicate b.length true)

/-- No armed error meets a read or write of a local alias-0 location of HBM, no page waits for its copy, no frame is compressed, and
the L2 has room for a line. -/
def State.quiet (s : State) (l : Loc) : Prop :=
  l.tgt = 0 ∧ l.alop = 0 ∧ l.ra < hbmEnd ∧ s.reg 0x0F08 % 2 = 0 ∧ s.homes.snaps = [] ∧ s.memOk = true
    ∧ s.reg 0x0020 = 0 ∧ s.homes.l2.length < 65536

/-- The device is fatally in error: 10 ms are left, and BOOTST reads 3 (R371). -/
def State.isFatal (s t : State) : Prop := t.hubs.fatal = some (s.time + 10000000) ∧ t.reg 0x0008 = 3

/-- A mailbox command has ended with a CODE and a RESULT, and MSI-X vector 0 is sent, or pends while it is masked (R203, R207). -/
def State.mailEnds (t : State) (code result : Nat) : Prop :=
  t.hubs.mbox.busy = false ∧ t.reg 0x1048 % 2 = 0 ∧ t.reg 0x1048 / 256 % 256 = code ∧ t.reg 0x1048 / 2 ^ 32 = result
    ∧ (t.hubs.msix.getLast? = some 0 ∨ 0 ∈ t.hubs.msixPend)

end Sys2Proof.Machine
end

