-- ==== Sys2Proof/Certificates/Slice0/Obligations.lean ====
section
/-! DEFINITION. The statements for the provers. -/

open Sys2Proof Sys2Proof.Machine

/-! ## Scalar words (group 0) -/

/-- R249, R250, R131: SADD, SSUB, SMUL, SMULH, SMAD, SDIV, SREM, SMIN and SMAX write, element by element, the exact result
clamped with SAT and wrapped without; a division by zero gives all ones and leaves the dividend. -/
def Obligations.ScalarArithmetic : Prop :=
  ∀ (f : FmtA) (s : State),
    let w := elemW f.type
    let fit := fitted f.type f.sat
    let runs (g : Sig) (i : Instr) (v : Int → Int → Int → Int) : Prop :=
      s.gives (byQ f.guard f.neg) g i fun t => ∀ k, k < elemN f.type → t.me.holds f.type f.dst 0 k
        (v (s.me.elem f.type f.srcA 0 k) (s.me.elem f.type f.srcB 0 k) (s.me.elem f.type f.srcC 0 k))
    runs (sigSInt f tyAll true 2) (.sadd f) (fun a b _ => fit (a + b))
      ∧ runs (sigSInt f tyAll true 2) (.ssub f) (fun a b _ => fit (a - b))
      ∧ runs (sigSInt f tyPlain true 2) (.smul f) (fun a b _ => fit (a * b))
      ∧ runs (sigSInt f tyWord false 2) (.smulh f) (fun a b _ => a * b / 2 ^ 32)
      ∧ runs (sigSInt f tyPlain true 3) (.smad f) (fun a b c => fit (a * b + c))
      ∧ runs (sigSInt f tyPlain true 2) (.sdiv f)
          (fun a b _ => if b = 0 then (if isSigned f.type then -1 else 2 ^ w - 1) else fit (a.tdiv b))
      ∧ runs (sigSInt f tyPlain true 2) (.srem f) (fun a b _ => if b = 0 then a else a.tmod b)
      ∧ runs (sigSInt f tyAll false 2) (.smin f) (fun a b _ => min a b)
      ∧ runs (sigSInt f tyAll false 2) (.smax f) (fun a b _ => max a b)

/-- R249, R251, R252, R253: the bitwise scalar operations, shifts by a whole register amount (a shift by the width or more
leaves zero, or copies of the sign), bit fields and counts. -/
def Obligations.ScalarBits : Prop :=
  ∀ (f : FmtA) (s : State),
    let w := elemW f.type
    let a := s.me.srcT f.type f.srcA 0
    let b := s.me.srcT f.type f.srcB 0
    let c := s.me.srcT f.type f.srcC 0
    let x := a.toNat
    let k := b.toNat
    let o := min (b.toNat % 256) w
    let n := min (b.toNat / 256 % 256) (w - o)
    let field := x / 2 ^ o % 2 ^ n
    let runs (g : Sig) (i : Instr) (post : State → Prop) : Prop := s.gives (byQ f.guard f.neg) g i post
    let gets (v : Dword) (t : State) : Prop := t.me.holdsT f.type f.dst 0 v
    runs (sigSInt f tyAll false 2) (.sand f) (gets (a &&& b))
      ∧ runs (sigSInt f tyAll false 2) (.sor f) (gets (a ||| b))
      ∧ runs (sigSInt f tyAll false 2) (.sxor f) (gets (a ^^^ b))
      ∧ runs (sigSInt f tyAll false 2) (.sandn f) (gets (a &&& ~~~ b))
      ∧ runs (sigSInt f tyPlain false 2) (.sshl f) (gets (if w ≤ k then 0 else BitVec.ofNat 64 (x * 2 ^ k % 2 ^ w)))
      ∧ runs (sigSInt f tyPlain false 2) (.sshr f) (gets (if w ≤ k then 0 else BitVec.ofNat 64 (x / 2 ^ k)))
      ∧ runs (sigSInt f tyPlain false 2) (.ssra f)
          (gets (BitVec.ofInt 64 ((x : Int).bmod (2 ^ w) / 2 ^ min k (w - 1))))
      ∧ runs (sigSInt f tyPlain false 2) (.sbfe f)
          (gets (if isSigned f.type then BitVec.ofInt 64 ((field : Int).bmod (2 ^ n)) else BitVec.ofNat 64 field))
      ∧ runs (sigSInt f tyPlain false 3) (.sbfi f) (fun t => ∃ d : Dword, gets d t ∧ d.toNat % 2 ^ o = c.toNat % 2 ^ o
          ∧ d.toNat / 2 ^ o % 2 ^ n = x % 2 ^ n ∧ d.toNat / 2 ^ (o + n) = c.toNat / 2 ^ (o + n))
      ∧ runs (sigSCount f) (.spopc f)
          (fun t => t.me.holdsWord f.dst 0 (BitVec.ofNat 32 (((List.range w).filter fun i => a.getLsbD i).length)))
      ∧ runs (sigSCount f) (.sclz f)
          (fun t => t.me.holdsWord f.dst 0 (BitVec.ofNat 32 (if x = 0 then w else w - 1 - Nat.log2 x)))

/-- R239, R248, R254, R263, R428: NOP changes nothing; SMOV copies a register or pair; SMOVI has four forms; SSEL selects by a q
predicate. VTOS copies the lane that it names, or the lowest of the entry, into a scalar or a pair; where the lane is empty the scalar
is empty until it fills, or with the t bit the instruction traps. -/
def Obligations.ScalarMoves : Prop :=
 (∀ (f : FmtA) (h : FmtC) (s : State),
    let pick := if s.me.qGet (f.mod7.toNat % 8) = f.mod7.getLsbD 3 then f.srcB else f.srcA
    let moved (two : Bool) (o : Operand) (t : State) : Prop :=
      if two then t.me.holdsPair f.dst 0 (s.me.src64 o 0) else t.me.holdsWord f.dst 0 (s.me.src .int o 0)
    s.gives (byQ f.guard f.neg) (sigNop f) (.nop f) (fun t => s.keepsAllBut t [] 0 [] [] [])
      ∧ s.gives (byQ f.guard f.neg) (sigSInt f tyAll false 1) (.smov f) (moved (wide f.type) f.srcA)
      ∧ s.gives (byQ f.guard f.neg) (sigSsel f) (.ssel f) (moved (f.mod7.getLsbD 4) pick)
      ∧ s.gives (byQ h.guard h.neg) (sigSmovi h) (.smovi h) (fun t =>
          match h.mod8.toNat with
          | 0 => t.me.holdsWord h.dst 0 h.imm32
          | 1 => t.me.holdsPair h.dst 0 (h.imm32.signExtend 64)
          | 2 => t.me.holdsPair h.dst 0 (h.imm32.setWidth 64)
          | _ => ∀ n, h.dst = .sca n → t.me.sGet (n + 1) = h.imm32 ∧ t.me.sGet n = s.me.sGet n))
  ∧ (∀ (b : FmtB) (s : State) (v : BitVec 8) (d : Nat), b.srcA = .vec v → b.dst = .sca d →
    let n := if b.mod5.getLsbD 0 then 2 else 1
    let lane := if b.imm24.getLsbD 5 then lowestLane s.entry.mask else b.imm24.toNat % 32
    let missing := ∃ i, i < n ∧ inMask (s.me.vEmpty (v.toNat + i)) lane = true
    s.gives (byQ b.guard b.neg) (sigVtos b) (.vtos b) fun t =>
      (¬ missing → s.me.upsets = [] → ∀ i, i < n → t.me.sGet (d + i) = s.me.vGet (v.toNat + i) lane)
        ∧ (missing → b.tA = true → s.traps t (s.active (byQ b.guard b.neg)) 0x04 0)
        ∧ (missing → b.tA = false → (∀ i, i < n → t.me.sEmpty (d + i) = true)
            ∧ ⟨v.toNat, lane, d, b.mod5.getLsbD 0⟩ ∈ (t.wx t.cur).vtos))

/-- R255: the scalar immediate forms take the sign-extended imm24, and shifts its low six bits. -/
def Obligations.ScalarImmediates : Prop :=
  ∀ (f : FmtB) (s : State),
    let ty := if f.mod5.getLsbD 0 then 6 else 0
    let w := elemW ty
    let fit := fitted ty (f.mod5.getLsbD 1)
    let a := s.me.srcT ty f.srcA 0
    let x := a.toNat
    let e := s.me.elem ty f.srcA 0 0
    let i24 := f.imm24.toInt
    let k := f.imm24.toNat
    let gets (v : Dword) (t : State) : Prop := t.me.holdsT ty f.dst 0 v
    let runs (g : Sig) (i : Instr) (post : State → Prop) : Prop := s.gives (byQ f.guard f.neg) g i post
    runs (sigSImm f true false false) (.saddi f) (fun t => t.me.holds ty f.dst 0 0 (fit (e + i24)))
      ∧ runs (sigSImm f true false false) (.smuli f) (fun t => t.me.holds ty f.dst 0 0 (fit (e * i24)))
      ∧ runs (sigSImm f false false false) (.sandi f) (gets (a &&& f.imm24.signExtend 64))
      ∧ runs (sigSImm f false false false) (.sori f) (gets (a ||| f.imm24.signExtend 64))
      ∧ runs (sigSImm f false false false) (.sxori f) (gets (a ^^^ f.imm24.signExtend 64))
      ∧ runs (sigSImm f false false true) (.sshli f) (gets (if w ≤ k then 0 else BitVec.ofNat 64 (x * 2 ^ k % 2 ^ w)))
      ∧ runs (sigSImm f false true true) (.sshri f)
          (gets (if f.mod5.getLsbD 2 then BitVec.ofInt 64 ((x : Int).bmod (2 ^ w) / 2 ^ min k (w - 1))
            else if w ≤ k then 0 else BitVec.ofNat 64 (x / 2 ^ k)))

/-- R256, R257: scalar f32 arithmetic is exact and rounded once in the mode of ROUND; SFCVT converts as Table 12.3 says. -/
def Obligations.ScalarFloat : Prop :=
  ∀ (f : FmtA) (s : State),
    let r := f.round
    let v (o : Operand) : FVal := f32Ty.decode (s.me.src .f32 o 0).toNat
    let gets (x : Nat) (t : State) : Prop := t.me.holdsWord f.dst 0 (BitVec.ofNat 32 x)
    let runs (g : Sig) (i : Instr) (post : State → Prop) : Prop := s.gives (byQ f.guard f.neg) g i post
    let a32 := (s.me.src .f32 f.srcA 0).toNat
    let aInt := (s.me.src .int f.srcA 0)
    runs (sigSFlt f 2) (.sfadd f) (gets (f32Ty.encode r (FVal.sum r [v f.srcA, v f.srcB])))
      ∧ runs (sigSFlt f 2) (.sfmul f) (gets (f32Ty.encode r ((v f.srcA).mul (v f.srcB))))
      ∧ runs (sigSFlt f 3) (.sffma f) (gets (f32Ty.encode r (FVal.sum r [(v f.srcA).mul (v f.srcB), v f.srcC])))
      ∧ runs (sigSfcvt f) (.sfcvt f) (fun t =>
          match f.type with
          | 0 => t.me.holdsWord f.dst 0 (BitVec.ofInt 32 (f32Ty.toInt r (-2147483648) 2147483647 a32))
          | 1 => t.me.holdsWord f.dst 0 (BitVec.ofInt 32 (f32Ty.toInt r 0 4294967295 a32))
          | 2 => gets (f32Ty.round r (aInt.toInt < 0) aInt.toInt.natAbs 0) t
          | 3 => gets (f32Ty.round r false aInt.toNat 0) t
          | 4 => gets (f16Ty.encode r (f32Ty.decode a32)) t
          | 5 => gets (f32Ty.encode 0 (f16Ty.decode ((s.me.src .f16 f.srcA 0).toNat % 65536))) t
          | 6 => gets (bf16Ty.encode r (f32Ty.decode a32)) t
          | _ => gets (f32Ty.encode 0 (bf16Ty.decode ((s.me.src .bf16 f.srcA 0).toNat % 65536))) t)

/-- R258, R259, R235: SCMP, SFCMP and QLOG write the condition to pT and its complement to pF, combined with the old values;
q7 stays true. Where both fields name one register the write of pF stands, which is a choice of the model
(notes/assumptions/14.md). -/
def Obligations.ScalarCompares : Prop :=
  ∀ (f : FmtP) (s : State),
    let ty := if 2 ≤ f.ty.toNat then f.ty.toNat + 4 else f.ty.toNat
    let a := s.me.elem ty f.srcA 0 0
    let b := s.me.elem ty f.srcB 0 0
    let ints := match f.cond.toNat with
      | 0 => decide (a = b) | 1 => decide (a ≠ b) | 2 => decide (a < b) | 3 => decide (a ≤ b) | 4 => decide (b < a)
      | _ => decide (b ≤ a)
    let o := f32Ty.compare (s.me.src .f32 f.srcA 0).toNat (s.me.src .f32 f.srcB 0).toNat
    let flts := match f.cond.toNat with
      | 0 => decide (o = some .eq) | 1 => decide (o ≠ some .eq) | 2 => decide (o = some .lt)
      | 3 => decide (o = some .lt ∨ o = some .eq) | 4 => decide (o = some .gt) | 5 => decide (o = some .gt ∨ o = some .eq)
      | 6 => decide (o = none) | _ => decide (o ≠ none)
    let sel (x : Operand) : Bool := match x with
      | .vec n => s.me.qGet (n.toNat % 8) != decide (8 ≤ n.toNat)
      | _ => false
    let logic := match f.cond.toNat with
      | 0 => sel f.srcA && sel f.srcB | 1 => sel f.srcA || sel f.srcB | 2 => sel f.srcA != sel f.srcB | _ => sel f.srcA
    let new (n : Nat) (c : Bool) : Bool := match f.combine.toNat with
      | 0 => c | 1 => s.me.qGet n && c | _ => s.me.qGet n || c
    let wrote (c : Bool) (t : State) : Prop :=
      (f.pT ≠ 7 → f.pT ≠ f.pF → t.me.qGet f.pT.toNat = new f.pT.toNat c)
        ∧ (f.pF ≠ 7 → t.me.qGet f.pF.toNat = new f.pF.toNat (!c)) ∧ t.me.qGet 7 = true
    s.gives (byQ f.guard f.neg) (sigScmp f) (.scmp f) (wrote ints)
      ∧ s.gives (byQ f.guard f.neg) (sigSfcmp f) (.sfcmp f) (wrote flts)
      ∧ s.gives (byQ f.guard f.neg) (sigQlog f) (.qlog f) (wrote logic)

/-! ## Vector words (groups 2 and 3) -/

/-- R282, R283, R131: in every ACTIVE lane and for every element, VADD, VSUB, VMUL, VMULH, VMAD, VMIN, VMAX and VABS write the
exact result clamped with SAT and wrapped without, and VDOT4 the sum of four products and the 32-bit addend. -/
def Obligations.VectorArithmetic : Prop :=
  ∀ (f : FmtA) (s : State),
    let m := s.active (byP f.guard f.neg)
    let ty := f.type
    let fit := fitted ty f.sat
    let runs (g : Sig) (i : Instr) (v : Int → Int → Int → Int) : Prop :=
      s.gives (byP f.guard f.neg) g i fun t => ∀ l, l < 32 → inMask m l = true → ∀ k, k < elemN ty → t.me.holds ty f.dst l k
        (v (s.me.elem ty f.srcA l k) (s.me.elem ty f.srcB l k) (s.me.elem ty f.srcC l k))
    runs (sigVInt f tyAll true 2) (.vadd f) (fun a b _ => fit (a + b))
      ∧ runs (sigVInt f tyAll true 2) (.vsub f) (fun a b _ => fit (a - b))
      ∧ runs (sigVInt f tyAll true 2) (.vmul f) (fun a b _ => fit (a * b))
      ∧ runs (sigVInt f tyAll false 2) (.vmulh f) (fun a b _ => a * b / 2 ^ elemW ty)
      ∧ runs (sigVInt f tyAll true 3) (.vmad f) (fun a b c => fit (a * b + c))
      ∧ runs (sigVInt f tyAll false 2) (.vmin f) (fun a b _ => min a b)
      ∧ runs (sigVInt f tyAll false 2) (.vmax f) (fun a b _ => max a b)
      ∧ runs (sigVInt f [0, 2, 4, 6] true 1) (.vabs f) (fun a _ _ => fit a.natAbs)
      ∧ s.gives (byP f.guard f.neg) (sigVdot4 f) (.vdot4 f) (fun t => ∀ l, l < 32 → inMask m l = true →
          let p (k : Nat) : Int := s.me.elem ty f.srcA l k * s.me.elem ty f.srcB l k
          t.me.holds (ty - 4) f.dst l 0 (fitted (ty - 4) f.sat (p 0 + p 1 + p 2 + p 3 + s.me.elem (ty - 4) f.srcC l 0)))

/-- R282, R284, R285: the bitwise vector operations, shifts of each element by its own amount, bit fields and counts. -/
def Obligations.VectorBits : Prop :=
  ∀ (f : FmtA) (s : State),
    let ty := f.type
    let w := elemW ty
    let m := s.active (byP f.guard f.neg)
    let lanes (post : Nat → State → Prop) (t : State) : Prop := ∀ l, l < 32 → inMask m l = true → post l t
    let runs (g : Sig) (i : Instr) (post : Nat → State → Prop) : Prop := s.gives (byP f.guard f.neg) g i (lanes post)
    let a (l : Nat) := s.me.srcT ty f.srcA l
    let b (l : Nat) := s.me.srcT ty f.srcB l
    let c (l : Nat) := s.me.srcT ty f.srcC l
    let elem (x : Dword) (i : Nat) : Nat := x.toNat / 2 ^ (w * i) % 2 ^ w
    let o (l : Nat) := min ((b l).toNat % 256) w
    let n (l : Nat) := min ((b l).toNat / 256 % 256) (w - o l)
    let field (l : Nat) := (a l).toNat / 2 ^ o l % 2 ^ n l
    let bits (op : Dword → Dword → Dword) (l : Nat) (t : State) : Prop := t.me.holdsT ty f.dst l (op (a l) (b l))
    let shifts (op : Nat → Nat → Nat) (l : Nat) (t : State) : Prop :=
      f.dst ≠ .zero → ∀ i, i < elemN ty → elem (t.me.srcT ty f.dst l) i = op (elem (a l) i) (elem (b l) i)
    runs (sigVInt f tyAll false 2) (.vand f) (bits (· &&& ·))
      ∧ runs (sigVInt f tyAll false 2) (.vor f) (bits (· ||| ·))
      ∧ runs (sigVInt f tyAll false 2) (.vxor f) (bits (· ^^^ ·))
      ∧ runs (sigVInt f tyAll false 2) (.vandn f) (bits fun a b => a &&& ~~~ b)
      ∧ runs (sigVInt f tyAll false 2) (.vshl f) (shifts fun x k => if w ≤ k then 0 else x * 2 ^ k % 2 ^ w)
      ∧ runs (sigVInt f tyAll false 2) (.vshr f) (shifts fun x k => if w ≤ k then 0 else x / 2 ^ k)
      ∧ runs (sigVInt f tyAll false 2) (.vsra f)
          (shifts fun x k => (((x : Int).bmod (2 ^ w) / 2 ^ min k (w - 1)) % 2 ^ w).toNat)
      ∧ runs (sigVInt f tyPlain false 2) (.vbfe f) (fun l t => t.me.holdsT ty f.dst l
          (if isSigned ty then BitVec.ofInt 64 ((field l : Int).bmod (2 ^ n l)) else BitVec.ofNat 64 (field l)))
      ∧ runs (sigVInt f tyPlain false 3) (.vbfi f) (fun l t => ∃ d : Dword, t.me.holdsT ty f.dst l d
          ∧ d.toNat % 2 ^ o l = (c l).toNat % 2 ^ o l ∧ d.toNat / 2 ^ o l % 2 ^ n l = (a l).toNat % 2 ^ n l
          ∧ d.toNat / 2 ^ (o l + n l) = (c l).toNat / 2 ^ (o l + n l))
      ∧ runs (sigVCount f) (.vpopc f) (fun l t =>
          t.me.holdsWord f.dst l (BitVec.ofNat 32 (((List.range w).filter fun i => (a l).getLsbD i).length)))
      ∧ runs (sigVCount f) (.vclz f) (fun l t => t.me.holdsWord f.dst l
          (BitVec.ofNat 32 (if (a l).toNat = 0 then w else w - 1 - Nat.log2 (a l).toNat)))

/-- R286, R287: the vector immediate forms, VMOV, VMOVI, VSEL by a p predicate, VIDX with the lane's number, and the byte
permutation of VPRMT. -/
def Obligations.VectorMoves : Prop :=
  ∀ (f : FmtA) (g : FmtB) (h : FmtC) (s : State),
    let lanes (guard : BitVec 3) (neg : Bool) (post : Nat → State → Prop) (t : State) : Prop :=
      ∀ l, l < 32 → inMask (s.active (byP guard neg)) l = true → post l t
    let runsA (u : Sig) (i : Instr) (post : Nat → State → Prop) : Prop :=
      s.gives (byP f.guard f.neg) u i (lanes f.guard f.neg post)
    let runsB (u : Sig) (i : Instr) (post : Nat → State → Prop) : Prop :=
      s.gives (byP g.guard g.neg) u i (lanes g.guard g.neg post)
    let moved (two : Bool) (o : Operand) (l : Nat) (t : State) : Prop :=
      if two then t.me.holdsPair f.dst l (s.me.src64 o l) else t.me.holdsWord f.dst l (s.me.src .int o l)
    let ty := if g.mod5.getLsbD 0 then 6 else 0
    let w := elemW ty
    let k := g.imm24.toNat
    let a (l : Nat) := s.me.srcT ty g.srcA l
    let byte (l i : Nat) : Nat :=
      let c := (s.me.src .int f.srcC l).toNat / 16 ^ i
      let x := ((s.me.src .int f.srcA l).toNat + 2 ^ 32 * (s.me.src .int f.srcB l).toNat) / 256 ^ (c % 8) % 256
      if c / 8 % 2 = 1 then (if 128 ≤ x then 255 else 0) else x
    runsA (sigVInt f tyAll false 1) (.vmov f) (moved (wide f.type) f.srcA)
      ∧ s.gives (byP h.guard h.neg) (sigVmovi h) (.vmovi h) (lanes h.guard h.neg fun l t =>
          match h.mod8.toNat with
          | 0 => t.me.holdsWord h.dst l h.imm32
          | 1 => t.me.holdsPair h.dst l (h.imm32.signExtend 64)
          | 2 => t.me.holdsPair h.dst l (h.imm32.setWidth 64)
          | _ => ∀ n, h.dst = .vec n → t.me.vGet (n.toNat + 1) l = h.imm32 ∧ t.me.vGet n.toNat l = s.me.vGet n.toNat l)
      ∧ runsA (sigVsel f) (.vsel f) (fun l =>
          moved (f.mod7.getLsbD 4) (if inMask (s.me.pGet (f.mod7.toNat % 8)) l = f.mod7.getLsbD 3 then f.srcB else f.srcA) l)
      ∧ runsA (sigVInt f [0, 6] false 2) (.vidx f) (fun l t => t.me.holds f.type f.dst l 0
          (fitted f.type false (s.me.elem f.type f.srcA l 0 + l * s.me.elem f.type f.srcB l 0)))
      ∧ runsA (sigVprmt f) (.vprmt f) (fun l t => f.dst ≠ .zero → ∀ i, i < 4 →
          (t.me.src .int f.dst l).toNat / 256 ^ i % 256 = byte l i)
      ∧ runsB (sigVImm g true false false) (.vaddi g) (fun l t => t.me.holds ty g.dst l 0
          (fitted ty (g.mod5.getLsbD 1) (s.me.elem ty g.srcA l 0 + g.imm24.toInt)))
      ∧ runsB (sigVImm g false false false) (.vandi g) (fun l t => t.me.holdsT ty g.dst l (a l &&& g.imm24.signExtend 64))
      ∧ runsB (sigVImm g false false true) (.vshli g) (fun l t => t.me.holdsT ty g.dst l
          (if w ≤ k then 0 else BitVec.ofNat 64 ((a l).toNat * 2 ^ k % 2 ^ w)))
      ∧ runsB (sigVImm g false true true) (.vshri g) (fun l t => t.me.holdsT ty g.dst l
          (if g.mod5.getLsbD 2 then BitVec.ofInt 64 (((a l).toNat : Int).bmod (2 ^ w) / 2 ^ min k (w - 1))
            else if w ≤ k then 0 else BitVec.ofNat 64 ((a l).toNat / 2 ^ k)))

/-- R288, R289, R290, R292, R298, R235: VCMP, FCMP and PLOG write the condition of each ACTIVE lane to pT and its complement to
pF; PMOV moves between a p register and a lane mask; VOTE answers any, all or the ballot of the ACTIVE lanes. p7 stays true.
Where pT and pF name one register the write of pF stands, which is a choice of the model (notes/assumptions/14.md). -/
def Obligations.VectorPredicates : Prop :=
  ∀ (f : FmtP) (h : FmtA) (s : State),
    let m := s.active (byP f.guard f.neg)
    let n := s.active (byP h.guard h.neg)
    let ty := if 2 ≤ f.ty.toNat then f.ty.toNat + 4 else f.ty.toNat
    let ints (l : Nat) : Bool :=
      let a := s.me.elem ty f.srcA l 0
      let b := s.me.elem ty f.srcB l 0
      match f.cond.toNat with
      | 0 => decide (a = b) | 1 => decide (a ≠ b) | 2 => decide (a < b) | 3 => decide (a ≤ b) | 4 => decide (b < a)
      | _ => decide (b ≤ a)
    let flts (l : Nat) : Bool :=
      let k := fltCK f.ty.toNat
      let o := (fltTy f.ty.toNat).compare ((s.me.src k f.srcA l).toNat % 2 ^ fltW f.ty.toNat)
        ((s.me.src k f.srcB l).toNat % 2 ^ fltW f.ty.toNat)
      match f.cond.toNat with
      | 0 => decide (o = some .eq) | 1 => decide (o ≠ some .eq) | 2 => decide (o = some .lt)
      | 3 => decide (o = some .lt ∨ o = some .eq) | 4 => decide (o = some .gt) | 5 => decide (o = some .gt ∨ o = some .eq)
      | 6 => decide (o = none) | _ => decide (o ≠ none)
    let sel (x : Operand) (l : Nat) : Bool := match x with
      | .vec r => inMask (s.me.pGet (r.toNat % 8)) l != decide (8 ≤ r.toNat)
      | _ => false
    let logic (l : Nat) : Bool := match f.cond.toNat with
      | 0 => sel f.srcA l && sel f.srcB l | 1 => sel f.srcA l || sel f.srcB l | 2 => sel f.srcA l != sel f.srcB l
      | _ => sel f.srcA l
    let new (r l : Nat) (c : Bool) : Bool := match f.combine.toNat with
      | 0 => c | 1 => inMask (s.me.pGet r) l && c | _ => inMask (s.me.pGet r) l || c
    let wrote (c : Nat → Bool) (t : State) : Prop := ∀ l, l < 32 →
      (f.pT ≠ 7 → f.pT ≠ f.pF →
          inMask (t.me.pGet f.pT.toNat) l = if inMask m l then new f.pT.toNat l (c l) else inMask (s.me.pGet f.pT.toNat) l)
        ∧ (f.pF ≠ 7 → inMask m l = true → inMask (t.me.pGet f.pF.toNat) l = new f.pF.toNat l (!(c l)))
        ∧ inMask (t.me.pGet 7) l = true
    let word (v : Word) (t : State) : Prop :=
      (∀ r, h.dst = .sca r → t.me.sGet r = v)
        ∧ (∀ r, h.dst = .vec r → ∀ l, l < 32 → inMask n l = true → t.me.vGet r.toNat l = v)
    s.gives (byP f.guard f.neg) (sigVcmp f) (.vcmp f) (wrote ints)
      ∧ s.gives (byP f.guard f.neg) (sigFcmp f) (.fcmp f) (wrote flts)
      ∧ s.gives (byP f.guard f.neg) (sigPlog f) (.plog f) (wrote logic)
      ∧ s.gives (byP h.guard h.neg) (sigPmov h) (.pmov h) (fun t =>
          if h.mod7.getLsbD 0 then
            ∀ r, h.dst = .vec r → r ≠ 7 → ∀ l, l < 32 → inMask (t.me.pGet r.toNat) l =
              if inMask n l then inMask (s.me.src .int h.srcA l) l else inMask (s.me.pGet r.toNat) l
          else ∃ v, word v t ∧ ∀ l, l < 32 → inMask v l = sel h.srcA l)
      ∧ s.gives (byP h.guard h.neg) (sigVote h) (.vote h) (fun t =>
          match h.mod7.toNat with
          | 0 => word (if (List.range 32).any (fun l => inMask n l && sel h.srcA l) then 1 else 0) t
          | 1 => word (if (List.range 32).all (fun l => !(inMask n l) || sel h.srcA l) then 1 else 0) t
          | _ => ∃ v, word v t ∧ ∀ l, l < 32 → inMask v l = (inMask n l && sel h.srcA l))

/-- R291, R293, R294, R151: SHFL reads the lane that its mode names, its own where there is none; VRED and VSCAN combine the
ACTIVE lanes, an f32 sum in the order of Table 6.9 and the steps of R294, an integer sum exactly and then wrapped or clamped.
An integer VSCAN is fitted once, at its end (notes/assumptions/15.md). -/
def Obligations.CrossLane : Prop :=
  ∀ (f : FmtA) (s : State),
    let m := s.active (byP f.guard f.neg)
    let n := if f.mod7.getLsbD 2 then 2 else 1
    let src (l : Nat) : Nat :=
      let k := (s.me.src .int f.srcB l).toNat
      match f.mod7.toNat % 4 with
      | 0 => k % 32
      | 1 => l ^^^ (k % 32)
      | 2 => if k ≤ l then l - k else l
      | _ => if l + k < 32 then l + k else l
    let ready := (∀ l, l < 32 → inMask m l = true → ∀ r, r ∈ (uSrc f.srcA f.tA n).vregs → inMask (s.me.vEmpty r) (src l) = false)
      ∧ ∀ r, r ∈ (uSrc f.srcA f.tA n).sregs → s.me.sEmpty r = false
    let ty := f.type
    let v (l : Nat) : Int := s.me.elem ty f.srcA l 0
    let x (d : Nat) (l : Nat) : Nat := if inMask m l then (s.me.src .f32 f.srcA l).toNat else d
    let isF := f.mod7.getLsbD 6
    let gets (l : Nat) (r : Dword) (t : State) : Prop := t.me.holdsT (if isF then 0 else ty) f.dst l r
    let add := f32Ty.add f.round
    let ints (op : Nat) (l : Nat) : Int := if inMask m l then v l else redIdI ty op
    (ready → s.gives (byP f.guard f.neg) (sigShfl f) (.shfl f) fun t => ∀ l, l < 32 → inMask m l = true →
        if f.mod7.getLsbD 2 then t.me.holdsPair f.dst l (s.me.src64 f.srcA (src l))
        else t.me.holdsWord f.dst l (s.me.src .int f.srcA (src l)))
      ∧ s.gives (byP f.guard f.neg) (sigRed f true) (.vred f) (fun t => ∃ r, (∀ l, l < 32 → inMask m l = true → gets l r t) ∧
          match redOp f, isF with
          | some 0, true => r = BitVec.ofNat 64 (laneTree add (x 0x80000000) 5 0)
          | some 0, false => r = BitVec.ofInt 64 (fitted ty f.sat ((lanesOf m).map v).sum) ∨ wide ty = false ∧
              loHalf r = BitVec.ofInt 32 (fitted ty f.sat ((lanesOf m).map v).sum)
          | some 1, false => ∃ l, l < 32 ∧ inMask m l = true ∧ elemI ty r 0 = v l ∧ ∀ k, k < 32 → inMask m k = true → v l ≤ v k
          | some 2, false => ∃ l, l < 32 ∧ inMask m l = true ∧ elemI ty r 0 = v l ∧ ∀ k, k < 32 → inMask m k = true → v k ≤ v l
          | some o, true => ∀ l, l < 32 → inMask m l = true → f32Ty.isNan (x 0 l) = false →
              f32Ty.isNan r.toNat = false ∧
                (if o = 1 then f32Ty.key r.toNat ≤ f32Ty.key (x 0 l) else f32Ty.key (x 0 l) ≤ f32Ty.key r.toNat)
          | _, _ => True)
      ∧ s.gives (byP f.guard f.neg) (sigRed f false) (.vscan f) (fun t => ∀ l, l < 32 → inMask m l = true →
          match redOp f, isF with
          | some 0, true =>
            let r := lanePrefix add (x 0x80000000) 5 l
            gets l (BitVec.ofNat 64 (if f32Ty.isNan r then 0x7FC00000 else r)) t
          | some o, false => f.dst ≠ .zero → t.me.elem ty f.dst l 0 = fitted ty f.sat (lanePrefix (redInt o) (ints o) 5 l)
          | some o, true =>
            let r := lanePrefix (redFlt o f.round) (x (redIdF o)) 5 l
            gets l (BitVec.ofNat 64 (if f32Ty.isNan r then 0x7FC00000 else r)) t
          | none, _ => True)

/-- R295, R296, R297, R306: vector floating point takes each element's exact result, rounded once by ROUND; FSUB adds with the
sign of the second operand inverted; FMIN and FMAX and FMOV choose and change signs; FDOT2 rounds the sum of two products and
an f32 once. -/
def Obligations.VectorFloat : Prop :=
  ∀ (f : FmtA) (s : State),
    let m := s.active (byP f.guard f.neg)
    let r := f.round
    let ty := fltTy f.type
    let w := fltW f.type
    let e (o : Operand) (l i : Nat) : Nat := (s.me.src (fltCK f.type) o l).toNat / 2 ^ (w * i) % 2 ^ w
    let runs (g : Sig) (i : Instr) (v : Nat → Nat → Nat → Nat) : Prop :=
      s.gives (byP f.guard f.neg) g i fun t => ∀ l, l < 32 → inMask m l = true → f.dst ≠ .zero → ∀ k, k < fltN f.type →
        (t.me.src .int f.dst l).toNat / 2 ^ (w * k) % 2 ^ w = v (e f.srcA l k) (e f.srcB l k) (e f.srcC l k) % 2 ^ w
    let val (x : Nat) : FVal := ty.decode x
    runs (sigFlt f [0, 1, 2] true 2) (.fadd f) (fun a b _ => ty.encode r (FVal.sum r [val a, val b]))
      ∧ runs (sigFlt f [0, 1, 2] true 2) (.fsub f) (fun a b _ => ty.encode r (FVal.sum r [val a, (val b).negate]))
      ∧ runs (sigFlt f [0, 1, 2] true 2) (.fmul f) (fun a b _ => ty.encode r ((val a).mul (val b)))
      ∧ runs (sigFlt f [0, 1, 2] true 3) (.ffma f) (fun a b c => ty.encode r (FVal.sum r [(val a).mul (val b), val c]))
      ∧ runs (sigFlt f [0, 1, 2] false 2) (.fmin f) (fun a b _ =>
          if ty.isNan a then (if ty.isNan b then ty.nan else b) else if ty.isNan b then a
          else if ty.key a < ty.key b then a else b)
      ∧ runs (sigFlt f [0, 1, 2] false 2) (.fmax f) (fun a b _ =>
          if ty.isNan a then (if ty.isNan b then ty.nan else b) else if ty.isNan b then a
          else if ty.key a < ty.key b then b else a)
      ∧ runs (sigFmov f) (.fmov f) (fun a _ _ =>
          let mag := a % 2 ^ (w - 1)
          let neg := (bitOf a (w - 1) && !(f.mod7.getLsbD 3)) != f.mod7.getLsbD 4
          if ty.isNan a then ty.nan else mag + (if neg then 2 ^ (w - 1) else 0))
      ∧ s.gives (byP f.guard f.neg) (sigFlt f [1, 2] true 3) (.fdot2 f) (fun t => ∀ l, l < 32 → inMask m l = true →
          t.me.holdsWord f.dst l (BitVec.ofNat 32 (f32Ty.encode r (FVal.sum r
            [(val (e f.srcA l 0)).mul (val (e f.srcB l 0)), (val (e f.srcA l 1)).mul (val (e f.srcB l 1)),
              f32Ty.decode (s.me.src .f32 f.srcC l).toNat]))))

/-- R299 to R302, R307, R137, R150: the special cases of FRCP, FRSQ, FSQRT and FDIV, the exact cases of FEXP2, FLOG2, FSINPI and
FCOSPI, what FRND and FLDEXP leave unchanged, and the classes of FCLASS. -/
def Obligations.VectorFunctions : Prop :=
  ∀ (f : FmtA) (s : State),
    let m := s.active (byP f.guard f.neg)
    let a (l : Nat) : Nat := (s.me.src .f32 f.srcA l).toNat
    let b (l : Nat) : Nat := (s.me.src .f32 f.srcB l).toNat
    let out (t : State) (l : Nat) : Nat := (t.me.src .int f.dst l).toNat
    let runs (g : Sig) (i : Instr) (post : Nat → Nat → Nat → Prop) : Prop :=
      s.gives (byP f.guard f.neg) g i fun t => ∀ l, l < 32 → inMask m l = true → f.dst ≠ .zero → post (a l) (b l) (out t l)
    let pInf := 0x7F800000
    let nInf := 0xFF800000
    let nan := 0x7FC00000
    runs (sigFlt f [0] false 1) (.frcp f) (fun x _ y =>
        (x = 0 → y = pInf) ∧ (x = 0x80000000 → y = nInf) ∧ (x = pInf → y = 0) ∧ (x = nInf → y = 0x80000000)
          ∧ (f32Ty.isNan x = true → y = nan) ∧ (x = 0x40000000 → y = 0x3F000000))
      ∧ runs (sigFlt f [0] false 1) (.frsq f) (fun x _ y =>
          (x = 0 → y = pInf) ∧ (x = 0x80000000 → y = nInf) ∧ (x = pInf → y = 0) ∧ (f32Ty.isNan x = true → y = nan)
            ∧ (x = 0x40800000 → y = 0x3F000000))
      ∧ runs (sigFlt f [0] false 1) (.fsqrt f) (fun x _ y =>
          (x = 0x80000000 → y = 0x80000000) ∧ (x = nInf → y = nan)
            ∧ (f32Ty.isNan x = false → 0x80000000 < x → y = nan) ∧ (x = 0x40800000 → y = 0x40000000))
      ∧ runs (sigFlt f [0] false 2) (.fdiv f) (fun x d y =>
          (x = 0 → d = 0 → y = nan) ∧ (x = pInf → d = pInf → y = nan) ∧ (x = 0x3F800000 → d = 0 → y = pInf)
            ∧ (x = 0x3F800000 → d = 0x80000000 → y = nInf) ∧ (f32Ty.isNan x = true → y = nan))
      ∧ runs (sigFlt f [0] false 1) (.fexp2 f) (fun x _ y =>
          (x = 0 → y = 0x3F800000) ∧ (x = pInf → y = pInf) ∧ (x = nInf → y = 0) ∧ (f32Ty.isNan x = true → y = nan))
      ∧ runs (sigFlt f [0] false 1) (.flog2 f) (fun x _ y =>
          (x = 0x3F800000 → y = 0) ∧ (x = pInf → y = pInf) ∧ (x = 0 → y = nInf) ∧ (f32Ty.isNan x = true → y = nan))
      ∧ runs (sigFlt f [0] false 1) (.fsinpi f) (fun x _ y =>
          (x = 0 → y = 0) ∧ (x = 0x3F000000 → y = 0x3F800000) ∧ (x = pInf → y = nan) ∧ (f32Ty.isNan x = true → y = nan))
      ∧ runs (sigFlt f [0] false 1) (.fcospi f) (fun x _ y =>
          (x = 0 → y = 0x3F800000) ∧ (x = 0x3F800000 → y = 0xBF800000) ∧ (x = pInf → y = nan) ∧ (f32Ty.isNan x = true → y = nan))
      ∧ runs (sigFlt f [0, 1, 2] true 1) (.frnd f) (fun x _ y => f.type = 0 →
          (x = 0 → y = 0) ∧ (x = 0x80000000 → y = 0x80000000) ∧ (x = pInf → y = pInf) ∧ (x = nInf → y = nInf)
            ∧ (f32Ty.isNan x = true → y = nan))
      ∧ runs (sigFlt f [0] true 2) (.fldexp f) (fun x _ y =>
          (x = 0 → y = 0) ∧ (x = 0x80000000 → y = 0x80000000) ∧ (x = pInf → y = pInf) ∧ (x = nInf → y = nInf)
            ∧ (f32Ty.isNan x = true → y = nan))
      ∧ runs (sigFlt f [0, 1, 2] false 1) (.fclass f) (fun x _ y => f.type = 0 →
          (x = nInf → y = 1) ∧ (x = 0x80000000 → y = 8) ∧ (x = 0 → y = 16) ∧ (x = pInf → y = 128)
            ∧ (f32Ty.isNan x = true → y = if bitOf x 22 then 512 else 256))

/-- R303, R304, R305: FCVT converts by its code, FPACK quantises under a scale and FUNPACK decodes what it packed, and FBSCALE
gives one scale for the ACTIVE lanes. -/
def Obligations.VectorConversions : Prop :=
  ∀ (f : FmtA) (s : State),
    let m := s.active (byP f.guard f.neg)
    let r := f.round
    let c := cvtCode f
    let a (l : Nat) : Nat := (s.me.src (fcvtCK c) f.srcA l).toNat
    let b (l : Nat) : Nat := (s.me.src (fcvtCK c) f.srcB l).toNat
    let lanes (post : Nat → State → Prop) (t : State) : Prop := ∀ l, l < 32 → inMask m l = true → post l t
    let gets (n l : Nat) (t : State) : Prop := t.me.holdsWord f.dst l (BitVec.ofNat 32 n)
    let e := bfmtElem (packFmt f)
    let scale (l : Nat) : Nat := (s.me.src .int f.srcB l).toNat % 256
    s.gives (byP f.guard f.neg) (sigFcvt f) (.fcvt f) (lanes fun l t =>
        match c with
        | 0 => t.me.holdsWord f.dst l (BitVec.ofInt 32 (f32Ty.toInt r (-2147483648) 2147483647 (a l)))
        | 1 => t.me.holdsWord f.dst l (BitVec.ofInt 32 (f32Ty.toInt r 0 4294967295 (a l)))
        | 2 => gets (f32Ty.ofInt r (BitVec.ofNat 32 (a l)).toInt) l t
        | 3 => gets (f32Ty.ofInt r (a l)) l t
        | 4 => gets (convF f32Ty f16Ty r (a l)) l t
        | 5 => gets (convF f16Ty f32Ty 0 (a l % 65536)) l t
        | 6 => gets (convF f32Ty bf16Ty r (a l)) l t
        | 7 => gets (convF bf16Ty f32Ty 0 (a l % 65536)) l t
        | 8 => gets (convF f32Ty f16Ty r (a l) + 65536 * convF f32Ty f16Ty r (b l)) l t
        | 9 => gets (convF f32Ty bf16Ty r (a l) + 65536 * convF f32Ty bf16Ty r (b l)) l t
        | 10 => gets (convF f16Ty f32Ty 0 (a l / 65536 % 65536)) l t
        | 11 => gets (convF bf16Ty f32Ty 0 (a l / 65536 % 65536)) l t
        | 12 => t.me.holdsPair f.dst l (BitVec.ofInt 64 (f32Ty.toInt r (-(2 ^ 63)) (2 ^ 63 - 1) (a l)))
        | 13 => gets (f32Ty.ofInt r (s.me.src64 f.srcA l).toInt) l t
        | 14 => gets (convF f16Ty bf16Ty r (a l % 65536) + 65536 * convF f16Ty bf16Ty r (a l / 65536 % 65536)) l t
        | _ => gets (convF bf16Ty f16Ty r (a l % 65536) + 65536 * convF bf16Ty f16Ty r (a l / 65536 % 65536)) l t)
      ∧ s.gives (byP f.guard f.neg) (sigFpack f) (.fpack f) (lanes fun l t => f.dst ≠ .zero → ∀ i, i < packN f →
          let x := (s.me.srcN f.srcA i l).toNat
          (t.me.src .int f.dst l).toNat / 2 ^ (e.bits * i) % 2 ^ e.bits =
            (if scale l = 255 then 0
              else if f32Ty.isNan x then
                (if e = .mxf8e4 ∨ e = .mxf8e5 then 127 + (if bitOf x 31 then 128 else 0) else 0)
              else quant e (f32Ty.decode x) (scale l)) % 2 ^ e.bits)
      ∧ s.gives (byP f.guard f.neg) (sigFunpack f) (.funpack f) (lanes fun l t => ∀ n, f.dst = .vec n → ∀ i, i < packN f →
          (t.me.vGet (n.toNat + i) l).toNat =
            e.decodeTo f32Ty ((s.me.src .int f.srcA l).toNat / 2 ^ (e.bits * i) % 2 ^ e.bits) (scale l) % 2 ^ 32)
      ∧ s.gives (byP f.guard f.neg) (sigFbscale f) (.fbscale f) (fun t =>
          let xs := (List.range 32).map fun l =>
            if inMask m l then f32Ty.decode (s.me.src .f32 f.srcA l).toNat else FVal.fin false 0 0
          let v : Word := BitVec.ofNat 32 (mxScale e xs)
          (∀ q, f.dst = .sca q → t.me.sGet q = v)
            ∧ (∀ q, f.dst = .vec q → ∀ l, l < 32 → inMask m l = true → t.me.vGet q.toNat l = v)
            ∧ ((∃ l, l < 32 ∧ inMask m l = true ∧ (xs.getD l .nan = .nan ∨ ∃ g, xs.getD l .nan = .inf g)) → v = 255))

/-! ## Control (group 1) -/

/-- R224, R246, R264, R265: BRA, BRX, JMPI, CALL, CALLI and RET move the ACTIVE lanes to the target that they name, and the
other lanes of the entry to the fall-through address; the calls write that address to the link pair. -/
def Obligations.ControlTransfers : Prop :=
  ∀ (f : FmtX) (h : FmtA) (s : State), s.plain = true →
    let there : Dword := s.entry.pc + f.off32.signExtend 64 * 8
    let reg (l : Nat) : Dword := s.me.src64 h.srcA l
    let goes (guard : Wave → LaneMask) (g : Sig) (i : Instr) (tgt : Nat → Dword) (link : Option Operand) : Prop :=
      (∀ l, l < 32 → inMask (s.active guard) l = true → (tgt l).toNat < 2 ^ 56 ∧ (tgt l).toNat % 8 = 0) →
        s.gives guard g i fun t => ∀ l, l < 32 → inMask s.entry.mask l = true →
          if inMask (s.active guard) l then
            t.me.standsAt l (tgt l) ∧ ∀ o, link = some o → t.me.holdsPair o l s.nextPc
          else t.me.standsAt l s.nextPc
    goes (byQ f.guard f.neg) (sigX f false) (.bra f) (fun _ => there) none
      ∧ goes (byP f.guard f.neg) (sigX f false) (.brx f) (fun _ => there) none
      ∧ goes (byQ h.guard h.neg) (sigJump h false) (.jmpi h) reg none
      ∧ goes (byQ f.guard f.neg) (sigX f true) (.call f) (fun _ => there) (some f.link)
      ∧ goes (byQ h.guard h.neg) (sigJump h true) (.calli h) reg (some h.dst)
      ∧ goes (byQ h.guard h.neg) (sigJump h false) (.ret h) reg none

/-- R266, R267: the ACTIVE lanes of EXIT leave the frontier for good, and the others fall through; YIELD as the last instruction of
a clause demotes the entry, and elsewhere goes on. -/
def Obligations.ExitsAndYields : Prop :=
  ∀ (f : FmtA) (s : State), s.plain = true → (s.ctx (s.ctxOf s.cur)).fifo = [] →
    (∀ u, s.unitOf s.cur = some u → u.cvs = []) →
    let m := s.active (byQ f.guard f.neg)
    s.gives (byQ f.guard f.neg) (sigExit f) (.exit f) (fun t => ∀ l, l < 32 → inMask s.entry.mask l = true →
        if inMask m l then (∀ e, e ∈ t.me.frontier → inMask e.mask l = false) ∧ inMask (t.wx t.cur).exited l = true
        else t.me.standsAt l s.nextPc)
      ∧ s.gives (byQ f.guard f.neg) (sigPlainA f) (.yield f) (fun t =>
        if s.entry.todo.length ≤ 1 then
          ∀ l, l < 32 → inMask s.entry.mask l = true → t.me.standsAt l s.nextPc
            ∧ ((∀ e, e ∈ s.me.frontier → e.pc ≠ s.nextPc) → ∀ e, e ∈ t.me.frontier → inMask e.mask l = true → e.demoted = true)
        else s.becomes t ∧ s.goesOn t)

/-- R39, R41, R42, R269: a wave arrives at a block barrier once in a phase. While members are missing, BAR of mode 0 waits for
the end of the phase; the last arrival ends it, and the wave goes on. BAR of mode 2 waits for the phase that the wave arrived
in. A second arrival in one phase traps. -/
def Obligations.BlockBarriers : Prop :=
  ∀ (b : FmtB) (s : State) (u : WorkUnit), s.unitOf s.cur = some u → (s.wx s.cur).barHeld = none →
    s.storesHeld s.cur = false → (s.wx s.cur).returns = [] → b.imm24.toNat % 64 < 16 →
    let name := b.imm24.toNat % 64
    let mode := b.imm24.toNat / 64
    let bar := barFind u.bars name
    let last := Tbl.find (s.wx s.cur).arrived name
    s.gives (byQ b.guard b.neg) (sigBar b) (.bar b) fun t =>
      if mode = 2 then
        match last with
        | none => s.becomes t ∧ s.goesOn t
        | some p => if p < bar.phase then s.goesOn t else t.awaited = some (.barrier name p)
      else if last = some bar.phase then s.traps t (s.active (byQ b.guard b.neg)) 0x0A 0
      else ∃ v, t.unitOf t.cur = some v ∧ Tbl.find (t.wx t.cur).arrived name = some bar.phase ∧
        if bar.arrived.length + 1 < u.alive.length then
          barFind v.bars name = { bar with arrived := bar.arrived ++ [s.me.uid * 32 + s.me.idx] }
            ∧ (if mode = 0 then t.awaited = some (.barrier name bar.phase) else s.goesOn t)
        else barFind v.bars name = { bar with arrived := [], phase := bar.phase + 1 } ∧ s.goesOn t

/-- R242, R260, Table 11.9: CRD of every index that Table 11.9 lists reads the register that it names: one of 32 bits into a scalar
or every ACTIVE lane of a vector register, LANEID into each lane, one of 64 bits into a pair. The registers of a trap read as zero
outside a trap handler; a BTD register of a bank that the unit has not traps with APERTURE. -/
def Obligations.ControlRegisterReads : Prop :=
  ∀ (b : FmtB) (s : State) (u : WorkUnit), s.unitOf s.cur = some u →
    let i := b.imm24.toNat
    let w := s.cur
    let m := s.active (byQ b.guard b.neg)
    let k := (i - 0x100) / 4
    let bank := (s.core u.core).bank (u.bankMap.getD k 0)
    let trap (v : Handler → Nat) : Nat := match (s.wx w).handler with | some h => if h.system then 0 else v h | none => 0
    let name (v : Cv → Nat) : Nat := match Tbl.find u.cvs ((i - 0x40) / 2) with | some c => v c | none => 0
    let word : Nat :=
      if i = 1 then s.me.idx
      else if i = 2 then u.crec.unit
      else if i = 3 then w / 96 / 16
      else if i = 4 then w / 96 % 16 + 16 * (w % 96 / 24) + 64 * (w % 24)
      else if i = 5 then (if s.launchCancelled u.crec.lid then 1 else 0)
      else if i = 6 then (s.wx w).progidx.toNat
      else if i = 7 then s.me.valloc
      else if i = 0x18 then s.txlogReg w
      else if i = 0x19 then (s.wx w).txretry.toNat
      else if i = 0x20 then trap fun h => h.trapCode.toNat
      else if i = 0x21 then trap fun h => h.trapMask.toNat
      else s.me.dcGet (i - 0x10)
    let pair : Nat :=
      if i = 8 then (s.die (w / 96 / 16)).clk.cycle s.time
      else if i = 9 then (s.die (w / 96 / 16)).clk.scycle s.time
      else if i = 10 then s.time - (Config.skew (w / 96 / 16)).val
      else if i = 11 then (s.die (w / 96 / 16)).clk.steplog.toNat
      else if i = 12 then (s.die (w / 96 / 16)).stkcfg.toNat
      else if i = 0x1A then (s.ctx u.crec.ctx).mapspill.toNat
      else if i = 0x1B then (s.ctx u.crec.ctx).xring.toNat
      else if i = 0x22 then trap fun h => h.trapPc.toNat
      else if i = 0x23 then trap fun h => h.trapAddr.toNat
      else if i < 0x100 then name fun c =>
        if i % 2 = 0 then c.list.toNat else c.mask.toNat + 2 ^ 32 * (c.cfg % 2 ^ 15) + (if c.declared then 2 ^ 47 else 0)
      else (if i % 4 = 0 then bank.btd0 else if i % 4 = 1 then bank.satf else if i % 4 = 2 then bank.invf else bank.poisf).toNat
    let narrow : Prop := (1 ≤ i ∧ i ≤ 7) ∨ (0x10 ≤ i ∧ i ≤ 0x15) ∨ i = 0x18 ∨ i = 0x19 ∨ i = 0x20 ∨ i = 0x21
    let wide : Prop := (8 ≤ i ∧ i ≤ 12) ∨ i = 0x1A ∨ i = 0x1B ∨ i = 0x22 ∨ i = 0x23 ∨ (0x40 ≤ i ∧ i < 0x60)
      ∨ (0x100 ≤ i ∧ i < 0x180 ∧ k < u.sbanks + u.cbanks)
    let reads (post : State → Prop) : Prop := s.gives (byQ b.guard b.neg) (sigCrd b) (.crd b) post
    (i = 0 → reads fun t => ∀ l, l < 32 → inMask m l = true → t.me.holdsWord b.dst l (BitVec.ofNat 32 l))
      ∧ (narrow → reads fun t => (∀ n, b.dst = .sca n → t.me.sGet n = BitVec.ofNat 32 word)
          ∧ ∀ r, b.dst = .vec r → ∀ l, l < 32 → inMask m l = true → t.me.vGet r.toNat l = BitVec.ofNat 32 word)
      ∧ (wide → reads fun t => t.me.holdsPair b.dst 0 (BitVec.ofNat 64 pair))
      ∧ (0x100 ≤ i → u.sbanks + u.cbanks ≤ k → reads fun t => s.traps t m 0x07 0)

/-- R47, R182, R195, R242, R324: the writes of control registers that have a row of their own hold the fields of the register,
and refuse the values that it does not take. -/
def Obligations.ControlRegisterWrites : Prop :=
  ∀ (b : FmtB) (s : State) (u : WorkUnit), s.unitOf s.cur = some u →
    let w := s.cur
    let v := s.me.src .int b.srcA 0
    let x := s.me.src64 b.srcA 0
    let c := s.ctx u.crec.ctx
    let m := s.active (byQ b.guard b.neg)
    let size := x.toNat / 2 ^ 56
    let ring : Dword := x &&& 0x00FFFFFFFFFFF3C1
    let log := x.toNat / 64 % 16
    let runs (i : Instr) (post : State → Prop) : Prop := s.gives (byQ b.guard b.neg) (sigCwr b) i post
    runs (.progidxWrite b) (fun t =>
        (s.updWx w fun y => { y with progidx := v &&& 0x1FFF, resumed := false }).becomes t)
      ∧ runs (.dcCounterWrite b) (fun t => (s.updWave w fun y => y.dcSet (b.imm24.toNat - 0x10) (v.toNat % 64)).becomes t)
      ∧ runs (.mapspillWrite b) (fun t =>
          if x.getLsbD 0 = true ∧ (size < 16 ∨ 22 < size) then s.traps t m 0x02 0
          else (s.setCtx u.crec.ctx { c with mapspill := x &&& 0xFFFFFFFFFFFFFFC1 }).becomes t)
      ∧ runs (.xringWrite b) (fun t =>
          if x.getLsbD 0 = true ∧ (log < 6 ∨ 12 < log) then s.traps t m 0x02 0
          else if ring = c.xring then s.becomes t
          else if s.ringsIdle u.crec.ctx then
            (t.ctx u.crec.ctx).xring = ring ∧ ∀ d, (s.die d).owner = some u.crec.ctx → s.dies.any (fun p => p.1 = d) = true →
              ((t.die d).x u.crec.ctx).ring = ring ∧ ((t.die d).x u.crec.ctx).kick = 0 ∧ ((t.die d).x u.crec.ctx).next = 0
          else t.awaited = some .rings)
      ∧ runs (.txlogWrite b) (fun t =>
          if v.toNat % 65536 = u.txlog % 65536 ∧ v.toNat < 2 ^ 18 then s.becomes t else s.traps t m 0x02 0)
      ∧ runs (.txretryWrite b) (fun t =>
          if 256 ≤ v.toNat then s.traps t m 0x02 0 else (s.updWx w fun y => { y with txretry := v }).becomes t)

/-- R156, R157, R158, R164: BTD_WRITE writes a word of a bank's descriptor, CVCFG_WRITE with DECLARED set declares a name from
its list and changes nothing otherwise, and a CWR of CVLIST writes the list. -/
def Obligations.BankRegisterWrites : Prop :=
  ∀ (b : FmtB) (s : State) (u : WorkUnit), s.unitOf s.cur = some u →
    let x := s.me.src64 b.srcA 0
    let m := s.active (byQ b.guard b.neg)
    let i := b.imm24.toNat
    let k := (i - 0x100) / 4
    let c := (i - 0x40) / 2
    let list := (u.cv c).list
    let cfg := x.toNat / 2 ^ 32 % 2 ^ 15
    let room := (Tbl.find u.cvs c).isSome = true ∨ s.cvBound u.core < 16
    let fmt := x.toNat % 8
    let slots := x.toNat / 16 % 64
    let cols := x.toNat / 65536 % 128
    let most := if fmt = 0 then 60 else if fmt = 4 then 15 else 30
    let runs (i : Instr) (post : State → Prop) : Prop := s.gives (byQ b.guard b.neg) (sigCwr b) i post
    (0x100 ≤ i → runs (.btdWrite b) fun t =>
        if i % 4 = 0 ∧ (5 ≤ fmt ∨ most < slots ∨ cols = 0 ∨ 64 < cols) then s.traps t m 0x02 0
        else if u.sbanks + u.cbanks ≤ k then s.traps t m 0x07 0
        else if s.banksBusy s.me.uid (laneBit k) s.nextId then t.awaited = some (.banks (laneBit k) s.nextId)
        else (s.updBank u.core (u.bankMap.getD k 0) fun y =>
          if i % 4 = 0 then { y with btd0 := x &&& 0xFF7F03F7 } else if i % 4 = 1 then { y with satf := x }
          else if i % 4 = 2 then { y with invf := x } else { y with poisf := x }).becomes t)
      ∧ runs (.cvcfgWrite b) (fun t =>
        if x.getLsbD 47 = false then s.becomes t
        else match declareTrap u list (loHalf x) cfg with
          | some code => s.traps t m code 0
          | none =>
            if ¬ room then t.awaited = some .cvFree
            else if (u.cv c).rounds = [] then (s.setCv s.me.uid c ⟨true, list, loHalf x, cfg, []⟩).becomes t
            else t.awaited = some (.round c))
      ∧ runs (.cwr b) (fun t =>
        if room then (s.setCv s.me.uid c { (u.cv c) with list := x }).becomes t else t.awaited = some .cvFree)

/-! ## Memory (groups 1, 4 and 5) -/

/-- R79, R110, R239, R309, R312 to R315: LD, LDS, LDB and SLD in the storage aperture put the bytes that the wave sees there on
their way to the destination registers, which are empty until then. -/
def Obligations.BankLoads : Prop :=
  ∀ (f : FmtM) (s : State) (u : WorkUnit), s.unitOf s.cur = some u → s.opens (ctrOf f) →
    ((s.core (coreOf s.cur)).quad (quadOf s.cur)).fwd.length < 16 →
    let core := coreOf s.cur
    let n := 2 ^ f.size.toNat
    let regs := if n ≤ 4 then 1 else n / 4
    let bytes (b off : Nat) : List Byte := (List.range n).map fun j => s.storageByte s.cur core (u.phys b) (off + j)
    let fine (b : Nat) : Prop := ((s.core core).bank (u.phys b)).bad = []
    let loads (g : Sig) (i : Instr) (addr : Nat → Nat) : Prop :=
      (∀ l, l < 32 → inMask (s.active (byP f.guard f.neg)) l = true →
        ∃ b off, s.place s.cur l (addr l) n .load = .bank b off ∧ fine b) →
      s.gives (byP f.guard f.neg) g i fun t => ∀ l b off, l < 32 → inMask (s.active (byP f.guard f.neg)) l = true →
        s.place s.cur l (addr l) n .load = .bank b off →
          t.onTheWay (ctrOf f) (arriving true (operandReg f.data) regs l (bytes b off))
    let lane := lowestLane s.entry.mask
    loads (sigLd f) (.ld f) (effAddr s.me f)
      ∧ loads (sigLds f) (.lds f) (storageAddr s.me f)
      ∧ loads (sigLdb f) (.ldb f) (blockAddr s.me f)
      ∧ ((s.wx s.cur).tx = [] → ∀ b off, s.place s.cur lane (effAddr s.me f lane) n .load = .bank b off → fine b →
          s.gives (byQ f.guard f.neg) (sigSld f) (.sld f) fun t =>
            t.onTheWay (ctrOf f) (arriving false (operandReg f.data) regs 0 (bytes b off)))

/-- R93, R107 to R109, R261, R262, R311, R313, R315: LD, LDB and SLD read memory as their core sees it (the value of the lowest
ACTIVE lane, which is performed first). A load that something holds at its home has its registers empty, and waits there with the bytes
that the core holds; SLDK goes past the L1 to its home, with the bytes that are on their way from its core. -/
def Obligations.MemoryLoads : Prop :=
  ∀ (f : FmtM) (k : FmtB) (s : State) (u : WorkUnit), s.unitOf s.cur = some u → s.outsideTx →
    let core := coreOf s.cur
    let asid := (s.ctx (s.ctxOf s.cur)).asid
    let n := 2 ^ f.size.toNat
    let regs := if n ≤ 4 then 1 else n / 4
    let pol := f.cpol.toNat
    let bytes (p : Phys) : List Byte := (List.range n).map (s.loadedByte u.crec.lid p n pol)
    let zeros (n : Nat) : List Byte := List.replicate n 0
    let loads (g : Sig) (i : Instr) (addr : Nat → Nat) : Prop :=
      s.opens (ctrOf f) →
      ((∀ l, l < 32 → inMask (s.active (byP f.guard f.neg)) l = true →
          ∃ p, s.place s.cur l (addr l) n .load = .mem p ∧ s.reachable l p n pol) →
        s.gives (byP f.guard f.neg) g i fun t =>
          let l := lowestLane (s.active (byP f.guard f.neg))
          ∀ p, s.place s.cur l (addr l) n .load = .mem p →
            t.onTheWay (ctrOf f) (arriving true (operandReg f.data) regs l (bytes p)))
      ∧ ((∀ l, l < 32 → inMask (s.active (byP f.guard f.neg)) l = true →
          ∃ p, s.place s.cur l (addr l) n .load = .mem p ∧ (s.hold s.cur l .plain true p n pol).isSome = true) →
        s.gives (byP f.guard f.neg) g i fun t =>
          let l := lowestLane (s.active (byP f.guard f.neg))
          ∀ p, s.place s.cur l (addr l) n .load = .mem p →
            t.waitsAtHome (ctrOf f) p.loc (s.haveBytes core asid s.me.uid (s.allocates core p pol) p.loc n)
              (arriving true (operandReg f.data) regs l (zeros n)))
    let lane := lowestLane s.entry.mask
    let va := ((s.me.src64 k.srcA 0).toNat + k.imm24.toNat) % 2 ^ 64
    let m := if k.mod5.getLsbD 0 then 8 else 4
    loads (sigLd f) (.ld f) (effAddr s.me f)
      ∧ loads (sigLdb f) (.ldb f) (blockAddr s.me f)
      ∧ (s.opens (ctrOf f) → ∀ p, s.place s.cur lane (effAddr s.me f lane) n .load = .mem p → s.reachable lane p n pol →
          s.gives (byQ f.guard f.neg) (sigSld f) (.sld f) fun t =>
            t.onTheWay (ctrOf f) (arriving false (operandReg f.data) regs 0 (bytes p)))
      ∧ (va + m ≤ 2 ^ 56 → va % m = 0 → ∀ p, s.xlate s.cur va m .load = .ok p → s.locPoisoned p.loc p.mxf m = false →
          s.gives (byQ k.guard k.neg) (sigSldk k) (.sldk k) fun t => s.goesOn t ∧
            t.waitsAtHome none p.loc (s.cellarBytes core (s.lidOf s.cur) p.loc m) (arriving false (operandReg k.dst) (m / 4) 0 (zeros m)))

/-- R109, R110, R111, R261, R309, R312 to R315: after ST, STS, STB and SST the wave reads in the storage aperture what each lane
stored that no later lane overlaps, and its core reads in memory what the highest ACTIVE lane stored. -/
def Obligations.Stores : Prop :=
  ∀ (f : FmtM) (s : State) (u : WorkUnit), s.unitOf s.cur = some u → s.opens (ctrOf f) →
    let core := coreOf s.cur
    let asid := (s.ctx (s.ctxOf s.cur)).asid
    let n := 2 ^ f.size.toNat
    let data (l j : Nat) : Byte := BitVec.ofNat 8 ((s.me.srcN f.data (j / 4) l).toNat / 256 ^ (j % 4))
    let banked (t : State) (l b off : Nat) : Prop := ∀ j, j < n → t.storageByte t.cur core (u.phys b) (off + j) = data l j
    let stored (t : State) (l : Nat) (p : Phys) : Prop :=
      ∀ j x, j < n → t.coreByte core asid true { p.loc with ra := p.loc.ra + j } x = data l j
    let plainly (p : Phys) : Prop := ¬ (2 ≤ p.loc.alop ∧ p.loc.alop ≤ 4) ∧ s.wayOf p.loc ≠ .none ∧ p.loc.ra % n = 0
    let inBanks (g : Sig) (i : Instr) (addr : Nat → Nat) : Prop :=
      (∀ l, l < 32 → inMask (s.active (byP f.guard f.neg)) l = true → ∃ b off, s.place s.cur l (addr l) n .store = .bank b off) →
      s.gives (byP f.guard f.neg) g i fun t => ∀ l b off, l < 32 → inMask (s.active (byP f.guard f.neg)) l = true →
        s.place s.cur l (addr l) n .store = .bank b off →
        (∀ k c o, l < k → k < 32 → inMask (s.active (byP f.guard f.neg)) k = true → s.place s.cur k (addr k) n .store = .bank c o →
          u.phys c ≠ u.phys b ∨ o + n ≤ off ∨ off + n ≤ o) → banked t l b off
    let inMemory (g : Sig) (i : Instr) (addr : Nat → Nat) : Prop :=
      s.outsideTx →
      (∀ l, l < 32 → inMask (s.active (byP f.guard f.neg)) l = true → ∃ p, s.place s.cur l (addr l) n .store = .mem p) →
      s.gives (byP f.guard f.neg) g i fun t => ∀ l p, l < 32 → inMask (s.active (byP f.guard f.neg)) l = true →
        (∀ k, l < k → inMask (s.active (byP f.guard f.neg)) k = false) →
        s.place s.cur l (addr l) n .store = .mem p → plainly p → stored t l p
    let lane := lowestLane s.entry.mask
    inBanks (sigSt f) (.st f) (effAddr s.me f) ∧ inBanks (sigSts f) (.sts f) (storageAddr s.me f)
      ∧ inBanks (sigStb f) (.stb f) (blockAddr s.me f)
      ∧ inMemory (sigSt f) (.st f) (effAddr s.me f) ∧ inMemory (sigStb f) (.stb f) (blockAddr s.me f)
      ∧ ((s.wx s.cur).tx = [] → s.gives (byQ f.guard f.neg) (sigSst f) (.sst f) fun t =>
          match s.place s.cur lane (effAddr s.me f lane) n .store with
          | .bank b off => banked t lane b off
          | .mem p => plainly p → stored t lane p
          | .trap code => s.traps t (s.active (byQ f.guard f.neg)) code (trapAddr code (effAddr s.me f lane))
          | .walk => ∃ page, t.awaited = some (.walk asid page)
          | .fault _ _ => u.crec.idemp = false → ∃ e, e ∈ t.me.frontier ∧ e.stat = .fault)

/-- R237, R239, R320, R321, Table 14.4: ATOM, RED and CAS in a storage bank leave there the new value of the operation where no other
ACTIVE lane's bytes overlap, and ATOM and CAS put the old value of the lowest ACTIVE lane on its way; in memory, an atomic that
the L1 does not perform leaves for its home with the lane's operands. -/
def Obligations.Atomics : Prop :=
  ∀ (f : FmtM) (s : State) (u : WorkUnit), s.unitOf s.cur = some u → s.opens (ctrOf f) →
    let core := coreOf s.cur
    let m := s.active (byP f.guard f.neg)
    let n := 2 ^ f.size.toNat
    let w := 8 * n
    let lim := 2 ^ w
    let op := f.off9.toNat % 16
    let scope := f.off9.toNat / 16 % 8
    let operand (o : Operand) (l : Nat) : Nat := ((s.me.srcN o 0 l).toNat + 2 ^ 32 * (s.me.srcN o 1 l).toNat) % lim
    let arg (l : Nat) : Nat :=
      if op = 11 ∨ op = 13 then (s.me.src .f32 f.data2 l).toNat
      else if op = 12 then (s.me.src .bf16 f.data2 l).toNat else operand f.data2 l
    let signed (x : Nat) : Int := (x : Int).bmod lim
    let addr (l : Nat) : Nat := (s.me.src64 f.addr l).toNat
    let put (old b : Nat) : Nat :=
      match op with
      | 0 => (old + b) % lim
      | 1 => (old + lim - b) % lim
      | 2 => if signed b < signed old then b else old
      | 3 => if signed old < signed b then b else old
      | 4 => min old b
      | 5 => max old b
      | 6 => old &&& b
      | 7 => old ||| b
      | 8 => old ^^^ b
      | 9 => b
      | 10 => if b ≤ old then 0 else old + 1
      | 11 => f32Ty.encode 0 (FVal.sum 0 [f32Ty.decode old, f32Ty.decode b])
      | 12 =>
        let half (x y : Nat) : Nat := bf16Ty.encode 0 (FVal.sum 0 [bf16Ty.decode x, bf16Ty.decode y])
        half (old % 65536) (b % 65536) + 65536 * half (old / 65536) (b / 65536)
      | _ => f32Ty.totalMinmax true old b
    let d := s.drainFwd core (quadOf s.cur)
    let old (b off : Nat) : Nat := ofBytes (((d.core core).bank (u.phys b)).readN off n)
    let at_ (l : Nat) : Place := s.place s.cur l (addr l) n .atomic
    let apart (l : Nat) : Prop := ∀ k b off c o, k < 32 → k ≠ l → inMask m k = true → at_ l = .bank b off → at_ k = .bank c o →
      u.phys c ≠ u.phys b ∨ o + n ≤ off ∨ off + n ≤ o
    let banked (g : Sig) (i : Instr) (reg : Option Nat) (new : Nat → Nat → Option Nat) : Prop :=
      (∀ l, l < 32 → inMask m l = true → ∃ b off, at_ l = .bank b off ∧ ((s.core core).bank (u.phys b)).bad = []) →
      s.gives (byP f.guard f.neg) g i fun t => ∀ l b off, l < 32 → inMask m l = true → at_ l = .bank b off →
        (apart l → ofBytes (((t.core core).bank (u.phys b)).readN off n) = (new l (old b off)).getD (old b off))
          ∧ ∀ r, reg = some r → l = lowestLane m →
              t.onTheWay (ctrOf f) (arriving true r (n / 4) l (((d.core core).bank (u.phys b)).readN off n))
    let sent (g : Sig) (i : Instr) (cas : Bool) (reg : Option Nat) (cmp : Nat → Nat) : Prop :=
      (∀ l, l < 32 → inMask m l = true → ∃ p, at_ l = .mem p
        ∧ (p.loc.tgt = 2 → cas = true ∨ op = 0 ∨ op = 9) ∧ (2 ≤ scope ∨ p.loc.tgt ≠ 0 ∨ s.allocates core p 0 = false)) →
      s.gives (byP f.guard f.neg) g i fun t => ∀ l p, l < 32 → inMask m l = true → at_ l = .mem p →
        ∃ e a, e ∈ (t.core core).cellar ∧ e.req = .atomic p.loc a ∧ a.wid = s.cur ∧ a.lane = l ∧ a.n = n ∧ a.op = op
          ∧ a.cas = cas ∧ a.cmp = cmp l ∧ a.b = arg l ∧ a.reg = reg
          ∧ ∃ r, r ∈ (t.wx t.cur).returns ∧ r.id = a.ret ∧ r.ctr = ctrOf f
    let reg := some (operandReg f.data)
    let swap (l old : Nat) : Option Nat := if old = operand f.data l then some (arg l) else none
    let always (l old : Nat) : Option Nat := some (put old (arg l))
    banked (sigAtom f) (.atom f) reg always ∧ banked (sigAtomRed f) (.red f) none always ∧ banked (sigCas f) (.cas f) reg swap
      ∧ sent (sigAtom f) (.atom f) false reg (operand f.data) ∧ sent (sigAtomRed f) (.red f) false none (operand f.data)
      ∧ sent (sigCas f) (.cas f) true reg (operand f.data)

/-- R114, R318: with nothing outstanding, an acquire at CLUSTER scope or wider leaves no clean byte in the L1 of its core, and a
release at CLUSTER to PACKAGE scope no dirty byte; what the core stored before is on its way to its home. A fence of BLOCK scope
goes on. -/
def Obligations.Fences : Prop :=
  ∀ (b : FmtB) (s : State),
    let core := coreOf s.cur
    let c := s.core core
    let kind := b.imm24.toNat % 4
    let scope := b.imm24.toNat / 4
    let l1 (t : State) : List (Nat × Byte × Bool) := (t.core core).l1.flatMap (·.bytes)
    s.releasable → (s.wx s.cur).returns = [] →
      s.gives (byP b.guard b.neg) (sigFence b) (.fence b) fun t =>
        (scope ≤ 1 → s.becomes t ∧ s.goesOn t)
          ∧ (2 ≤ scope → scope ≤ 3 → kind ≠ 3 → s.goesOn t
            ∧ (kind ≠ 1 → ∀ x, x ∈ l1 t → x.2.2 = true) ∧ (kind ≠ 0 → ∀ x, x ∈ l1 t → x.2.2 = false)
            ∧ (kind ≠ 0 → ∀ x o v, x ∈ c.l1 → o < 128 → Tbl.find x.bytes o = some (v, true) →
                ∃ e bytes mask, e ∈ (t.core core).cellar ∧ e.req = .write x.loc bytes mask
                  ∧ bytes.getD o 0#8 = v ∧ mask.getD o false = true))

/-- R316, R319: CINV and CWB of no bytes do nothing, and a range beyond the global window traps; with nothing to wait for, CWB at CORE
scope leaves no dirty byte of the range's lines in the L1 of its core, and CINV no byte. PREF changes no register, no byte of a bank
and, without compressed frames, no byte of memory as its home holds it, whatever its address is. -/
def Obligations.CacheMaintenance : Prop :=
 (∀ (f : FmtA) (s : State),
    let core := coreOf s.cur
    let va := (s.me.src64 f.srcA 0).toNat
    let n := (s.me.src .int f.srcB 0).toNat
    let asid := (s.ctx (s.ctxOf s.cur)).asid
    let m := s.active (byP f.guard f.neg)
    let mine (x : L1Line) : Prop := x.asid = asid ∧ inLocs (s.rangeLocs s.cur va n) x.loc = true
    let runs (i : Instr) (post : State → Prop) : Prop :=
      s.gives (byP f.guard f.neg) (sigCache f) i fun t =>
        (n = 0 → s.becomes t ∧ s.goesOn t) ∧ (n ≠ 0 → 2 ^ 56 < va + n → s.traps t m 0x07 va)
          ∧ (n ≠ 0 → va + n ≤ 2 ^ 56 → s.releasable → f.mod7 = 0 → s.goesOn t ∧ post t)
    runs (.cwb f) (fun t => ∀ x, x ∈ (t.core core).l1 → mine x → ∀ y, y ∈ x.bytes → y.2.2 = false)
      ∧ runs (.cinv f) (fun t => ∀ x, x ∈ (t.core core).l1 → ¬ mine x))
  ∧ (∀ (f : FmtM) (s : State), s.gives (byP f.guard f.neg) (sigPref f) (.pref f) fun t =>
    s.goesOn t ∧ s.me.keepsRegs t.me [] 0 [] ∧ s.me.keepsPreds t.me [] 0 [] ∧ s.me.keepsRest t.me
      ∧ (∀ c b off, t.bankByte c b off = s.bankByte c b off)
      ∧ (s.memOk = true → s.reg 0x0020 = 0 → ∀ l, l.alop = 0 → t.byteAt l = s.byteAt l))

/-! ## Work, traps, handlers and registers (group 1) -/

/-- R27, R62, R70, R71, R270, R271: SPAWN, CARDDEC, CONT and JCDEC of a readable record of the global window release the wave's
writes, send their request behind them through the cellar, and end when it has been taken. A CONT whose launch does not run traps.
CANCEL of a graph, phase or job that has members puts a cancel in effect, of a running launch marks its card, and of what does not
exist does nothing. -/
def Obligations.WorkCreation : Prop :=
 (∀ (f : FmtA) (s : State) (u : WorkUnit), s.unitOf s.cur = some u → s.releasable →
    let core := coreOf s.cur
    let die := dieOf s.cur
    let va := (s.me.src64 f.srcA 0).toNat
    let m := s.active (byQ f.guard f.neg)
    let near : Option Nat := match f.mod7.toNat with
      | 0 => some die
      | 1 => if die / 12 = 0 then none else some (die - 12)
      | 2 => if die / 12 = 6 then none else some (die + 12)
      | 3 => if die % 12 = 0 then none else some (die - 1)
      | _ => if die % 12 = 11 then none else some (die + 1)
    let sends (n : Nat) (acc : AccKind) (g : Sig) (i : Instr) (req : (Nat → Byte) → Option Req) : Prop :=
      (va + n ≤ 2 ^ 56 → va % n = 0 → ∀ p, s.xlate s.cur va n acc = .ok p →
        s.gives (byQ f.guard f.neg) g i fun t =>
          match req (s.loadedByte u.crec.lid p n 1) with
          | none => s.traps t m 0x02 0
          | some r => ∃ e, e ∈ (t.core core).cellar ∧ e.req = r ∧ e.uid = s.me.uid ∧ e.ctx = u.crec.ctx
              ∧ t.awaited = some (.applied core (e.id + 1)) ∧ (∀ x, x ∈ (t.core core).l1 → x.isDirty = false))
        ∧ (s.me.issuing.isSome = true → s.entry.stage = 2 → s.entry.left = none → m ≠ 0 →
            s.applied core s.entry.mark = true → ∃ t, exec i s = .next t ∧ s.becomes t ∧ s.goesOn t)
    let running (slot : Nat) : Bool := (s.runningSlot u.crec.ctx slot).isSome
    sends 64 .load (sigSpawn f) (.spawn f) (fun _ => some (.spawn va near))
      ∧ sends 64 .atomic (sigCreate f) (.carddec f) (fun _ => some (.preds va die (lowestLane m)))
      ∧ sends 32 .load (sigCreate f) (.cont f)
          (fun b => if running ((b 28).toNat + 256 * (b 29).toNat) then some (.cont ((List.range 32).map b)) else none)
      ∧ sends 16 .load (sigCreate f) (.jcdec f) (fun _ => some (.join va die)))
  ∧ (∀ (b : FmtB) (s : State),
    let ctx := s.ctxOf s.cur
    let level := b.imm24.toNat % 8
    let x := (s.me.src .int b.srcA 0).toNat
    let id := if level = 4 then x else x % 65536
    s.gives (byQ b.guard b.neg) (sigCancel b) (.cancel b) fun t =>
      (level ≠ 1 → (s.counter ctx level id).isSome = true → ⟨level, id⟩ ∈ (t.ctx ctx).cancels)
        ∧ (level ≠ 1 → s.counter ctx level id = none → s.becomes t ∧ s.goesOn t)
        ∧ (level = 1 → (∀ p, p ∈ s.queues.launches → ¬ (p.2.ctx = ctx ∧ p.2.slot = some id ∧ p.2.running = true)) →
            s.becomes t ∧ s.goesOn t)
        ∧ (level = 1 → ∀ p c, s.queues.launches.find? (fun p => p.2.ctx = ctx && p.2.slot = some id && p.2.running) = some p →
            s.card ctx p.2.card = some c → ∃ d, t.card ctx p.2.card = some d ∧ d.cancelled = true))

/-- R241, R265, R273, R424, R425: TRAP, BKPT and an unassigned opcode trap their lanes where they stand; a word that fails a check
of decode traps with ILLEGAL_OPERAND, REG_RANGE or PRIVILEGE before any other effect; a transfer traps on its target. -/
def Obligations.TrapsRaised : Prop :=
  ∀ (b : FmtB) (f : FmtX) (a : FmtA) (word : Dword) (s : State),
    let q := byQ b.guard b.neg
    let there : Dword := s.entry.pc + f.off32.signExtend 64 * 8
    let refused (guard : Wave → LaneMask) (g : Sig) (i : Instr) : Prop :=
      (∀ u, s.unitOf s.cur = some u → u.cvs = []) → s.me.issuing.isSome = true → s.entry.stage = 0 → s.entry.left = none → s.entry.done = 0 → s.active guard ≠ 0 →
        ∀ code, g.trap s.me (s.wx s.cur).handler.isSome = some code →
          ∃ t, exec i s = .next t ∧ s.traps t (s.active guard) code 0
    s.gives q (sigTrap b) (.trap b) (fun t => s.traps t (s.active q) 0x11 b.imm24.toNat)
      ∧ s.gives q (sigTrap b) (.bkpt b) (fun t => s.traps t (s.active q) 0x12 b.imm24.toNat)
      ∧ s.gives unguarded {} (.unassignedOpcode word) (fun t => s.traps t s.entry.mask 0x01 0)
      ∧ (2 ^ 56 ≤ there.toNat → s.gives (byQ f.guard f.neg) (sigX f false) (.bra f) fun t =>
          s.traps t (s.active (byQ f.guard f.neg)) 0x07 there.toNat)
      ∧ (there.toNat < 2 ^ 56 → there.toNat % 8 ≠ 0 → s.gives (byQ f.guard f.neg) (sigX f false) (.bra f) fun t =>
          s.traps t (s.active (byQ f.guard f.neg)) 0x06 there.toNat)
      ∧ refused (byQ a.guard a.neg) (sigSInt a tyAll true 2) (.sadd a)
      ∧ refused (byP a.guard a.neg) (sigVInt a tyAll true 2) (.vadd a)
      ∧ refused q (sigFrset b) (.frset b) ∧ refused q (sigFeset b) (.feset b) ∧ refused (byQ a.guard a.neg) (sigHret a) (.hret a)

/-- R274, R374: HRET ends handler mode: every lane of the interrupted frontier stands where it stood; the trapped entry goes back
to its instruction, past it, or out of the frontier, as the mode says. A frontier in which a lane stands twice, or one that has not
exited stands nowhere, is refused. -/
def Obligations.HandlerReturn : Prop :=
  ∀ (a : FmtA) (s : State) (h : Handler) (e : Entry), (s.wx s.cur).handler = some h → h.system = false → h.save = false →
    h.trapped = some e → (s.wx s.cur).txGone = [] → (∀ u, s.unitOf s.cur = some u → u.cvs = []) →
    let past : Dword := if e.fetched = true ∧ 2 ≤ e.todo.length then e.pc else e.pc + BitVec.ofNat 64 (8 * (e.hdr.toNat % 16 + 2))
    let out : LaneMask := (s.wx s.cur).exited
    let whole := if a.srcA = .con 2 then disjointMasks (Tbl.vals h.intr) (out ||| e.mask) else disjointMasks (Tbl.vals h.intr ++ [e]) out
    s.gives (byQ a.guard a.neg) (sigHret a) (.hret a) fun t =>
      if whole = false then s.traps t (s.active (byQ a.guard a.neg)) 0x02 0
      else (t.wx t.cur).handler = none ∧ s.me.keepsRegs t.me [] 0 [] ∧ s.me.keepsPreds t.me [] 0 []
        ∧ (∀ x, x ∈ Tbl.vals h.intr → x.isTrapped = false → ∀ l, l < 32 → inMask x.mask l = true → t.me.standsAt l x.pc)
        ∧ ∀ l, l < 32 → inMask e.mask l = true →
            match a.srcA with
            | .con 0 => t.me.standsAt l e.pc
            | .con 1 => t.me.standsAt l past
            | _ => (disjointMasks (Tbl.vals h.intr ++ [e]) out = true → ∀ x, x ∈ t.me.frontier → inMask x.mask l = false)
                ∧ inMask (t.wx t.cur).exited l = true

/-- R36, R37, R275 to R277: FRGET reads a position of the frontier into four scalars, FRSET writes a position of the interrupted
frontier, and FEGET and FESET read and write the full bits of a register. REGGROW grants zeroed full registers at once where the
quadrant has them and no request waits, and waits otherwise; REGSHRINK gives registers back once they are full; both answer the new
allotment, and both refuse an allotment outside 8 to 256. -/
def Obligations.HandlerAccesses : Prop :=
 (∀ (b : FmtB) (s : State),
    let k := b.imm24.toNat
    let w (i : Nat) : Word := s.me.srcN b.srcA i 0
    let runs (g : Sig) (i : Instr) (post : State → Prop) : Prop := s.gives (byQ b.guard b.neg) g i post
    let words (e : Entry) (first : Bool) : List Word :=
      [e.pc.setWidth 32, (e.pc >>> 32).setWidth 32, e.mask,
        BitVec.ofNat 32 (e.prio + (if e.demoted then 4096 else 0) + 8192 + if first then 16384 else 0)]
    runs (sigFrget b) (.frget b) (fun t => ∀ n, b.dst = .sca n → ∀ i, i < 4 →
        t.me.sGet (n + i) = match (s.wx s.cur).handler with
          | some h => (match Tbl.find h.intr k with | some e => (words e false).getD i 0 | none => 0)
          | none => (match s.me.frontier[k]? with | some e => (words e (k = 0)).getD i 0 | none => 0))
      ∧ runs (sigFrset b) (.frset b) (fun t => ∃ h, (t.wx t.cur).handler = some h ∧
          match Tbl.find h.intr k with
          | some e => (w 3).getLsbD 13 = true ∧ e.pc = (w 1).zeroExtend 64 <<< 32 ||| (w 0).zeroExtend 64 ∧ e.mask = w 2
              ∧ e.demoted = (w 3).getLsbD 12 ∧ e.stat = .ready ∧ e.slot = 0
          | none => (w 3).getLsbD 13 = false)
      ∧ runs (sigFeget b) (.feget b) (fun t => t.me.holdsWord b.dst 0
          (match b.srcA with | .vec n => ~~~ (s.me.vEmpty n.toNat) | .sca n => if s.me.sEmpty n then 0 else 1 | _ => 0))
      ∧ runs (sigFeset b) (.feset b) (fun t =>
          match b.dst with
          | .vec n => t.me.vEmpty n.toNat = ~~~ (s.me.src .int b.srcA 0)
          | .sca n => t.me.sEmpty n = !((s.me.src .int b.srcA 0).getLsbD 0)
          | _ => True))
  ∧ (∀ (b : FmtB) (s : State),
    let n := b.imm24.toNat
    let v := s.me.valloc
    let m := s.active (byQ b.guard b.neg)
    let quad := (s.core (coreOf s.cur)).quad (quadOf s.cur)
    let full := ∀ r, v - n ≤ r → r < v → s.me.vEmpty r = 0
    let answers (x : Nat) (t : State) : Prop := t.me.valloc = x ∧ t.me.holdsWord b.dst 0 (BitVec.ofNat 32 x) ∧ s.goesOn t
    s.gives (byQ b.guard b.neg) (sigReg b) (.reggrow b) (fun t =>
        if 256 < v + n then s.traps t m 0x02 0
        else if quad.grows = [] ∧ s.quadUsed (coreOf s.cur) (quadOf s.cur) + n ≤ 1024 then
          answers (v + n) t ∧ ∀ r, v ≤ r → (∀ l, t.me.vGet r l = 0) ∧ t.me.vEmpty r = 0
        else t.awaited = some .grow ∧ s.cur ∈ ((t.core (coreOf s.cur)).quad (quadOf s.cur)).grows
          ∧ (t.wx t.cur).growWant = n ∧ t.me.valloc = v)
      ∧ s.gives (byQ b.guard b.neg) (sigReg b) (.regshrink b) (fun t =>
        (v < n + 8 → s.traps t m 0x02 0)
          ∧ (n + 8 ≤ v → full → answers (v - n) t)
          ∧ (n + 8 ≤ v → ¬ full → t.me.valloc = v ∧ ∃ vs, t.awaited = some (.full vs []))))

/-! ## Transactions (group 5) -/

/-- R325, R329 to R331, Table 14.6: TXBEGIN opens a transaction in each ACTIVE lane that has none, with the target that it names;
TXABORT aborts those of its lanes with its code, TXSTAT puts each lane's status on its way, and TXSERIAL asks for a serial turn. -/
def Obligations.TransactionStates : Prop :=
  ∀ (x : FmtX) (b : FmtB) (f : FmtA) (s : State) (u : WorkUnit), s.unitOf s.cur = some u → 2 ≤ u.txlog →
    let w := s.cur
    let there : Dword := s.entry.pc + x.off32.signExtend 64 * 8
    let logs (m : LaneMask) (n : Nat) : Prop := ∀ l, l < 32 → inMask m l = true → s.logIn w l n = true
    let top (m : LaneMask) (l : Nat) : Prop := l < 32 ∧ inMask m l = true ∧ ∀ k, l < k → inMask m k = false
    let mx := s.active (byP x.guard x.neg)
    let mb := s.active (byP b.guard b.neg)
    let mf := s.active (byP f.guard f.neg)
    let status (l : Nat) : Nat :=
      let y := s.logRead w l 9 1
      s.logRead w l 10 1 % 16 + 16 * (y / 2 % 2) + 32 * (y % 2) + 256 * s.logRead w l 8 1 + 65536 * s.logRead w l 11 1
    (there.toNat < 2 ^ 56 → s.settled → (s.wx w).tx = [] → s.plain = true → logs mx (u.txlog * 8) →
        s.gives (byP x.guard x.neg) (sigTxbegin x) (.txbegin x) fun t =>
          (∀ l, l < 32 → inMask mx l = true → ∃ y, Tbl.find (t.wx w).tx l = some y ∧ y.target = there ∧ y.young = 0)
            ∧ (∀ l, l < 32 → inMask s.entry.mask l = true → t.me.standsAt l s.nextPc)
            ∧ ∀ l, top mx l → t.logRead w l 12 2 = 0 ∧ t.logRead w l 9 1 / 2 % 2 = 1)
      ∧ s.gives (byP b.guard b.neg) (sigTxabort b) (.txabort b) (fun t =>
          (∀ l, l < 32 → inMask mb l = true → Tbl.find (t.wx w).tx l = none)
            ∧ ∀ l y, top (s.txLanes w mb) l → Tbl.find (s.wx w).tx l = some y →
                t.logRead w l 10 1 = 5 ∧ t.logRead w l 11 1 = b.imm24.toNat ∧ t.logRead w l 12 2 = 0)
      ∧ (logs (if f.mod7 = 1 then allLanes else mf) 16 →
          s.gives (byP f.guard f.neg) (sigTxstat f) (.txstat f) fun t =>
            match f.dst with
            | .vec n => f.mod7 = 0 → ∀ l, l < 32 → inMask mf l = true →
                t.onTheWay none [⟨true, n.toNat, l, BitVec.ofNat 32 (status l)⟩]
            | .sca n => ∃ v : Word, t.onTheWay none [⟨false, n, 0, v⟩]
                ∧ ∀ l, l < 32 → inMask v l = decide (s.logRead w l 10 1 % 16 ≠ 0)
            | _ => True)
      ∧ (logs mf 16 → s.gives (byP f.guard f.neg) (sigTxPlain f) (.txserial f) fun t =>
          (∀ l, l < 32 → inMask mf l = true → Tbl.find (t.wx w).tx l = none) ∧ ∀ l, top mf l → t.logRead w l 9 1 % 2 = 1)

/-- R328: TXEND of a lane that read what its homes still hold, 640 ns after its youngest access and with no line locked, commits:
its writes leave through the cellar as one request, and its transaction is over. Where a home holds another value it aborts with
VALUE. -/
def Obligations.TransactionEnds : Prop :=
  ∀ (f : FmtA) (s : State) (l : Nat) (y : TxLane), l < 32 → s.active (byP f.guard f.neg) = laneBit l →
    Tbl.find (s.wx s.cur).tx l = some y → s.logBad s.cur l = false → y.young + 640 ≤ s.time → s.releasable →
    let ents := s.txEnts s.cur l
    let place (e : TxEnt) : Option Phys := s.wordPhys s.cur e.word (if e.write then .store else .load)
    let home (e : TxEnt) : Nat := ((place e).map (·.loc.ra)).getD 0
    let held (e : TxEnt) : Bool := e.write || ofBytes (s.homeBytes (home e) 8) = e.value
    (∀ e, e ∈ ents → (place e).isSome = true ∧ s.homeStops ⟨0, 0, 0, home e⟩ = false) → s.homes.locks = [] →
    s.gives (byP f.guard f.neg) (sigTxPlain f) (.txend f) fun t =>
      Tbl.find (t.wx s.cur).tx l = none ∧
        if ents.all held then
          t.logRead s.cur l 10 1 = 0
            ∧ ∀ e, e ∈ ents → e.write = true → (∀ d, d ∈ ents → d.write = true → home d = home e → d = e) →
                ∀ i, i < 8 → e.mask.testBit i = true → home e % 8 = 0 → (∀ d, d ∈ ents → home d % 8 = 0) →
                  ∃ c a, c ∈ (t.core (coreOf s.cur)).cellar ∧ c.req = .apply a ∧ a.wid = s.cur
                    ∧ (home e + i, BitVec.ofNat 8 (e.value / 256 ^ i)) ∈ a.cells
        else t.logRead s.cur l 10 1 = 1

/-! ## Banks (group 6) -/

/-- R91, R92, R336: BANKMODE of banks that the unit has already in the mode goes on at once where no lane's log lies in them, and otherwise waits for its
completion, after which each bank is in the new mode, and one that leaves or enters CACHE holds nothing. A bank that the unit has
not traps. -/
def Obligations.BankModes : Prop :=
  ∀ (f : FmtA) (s : State) (u : WorkUnit), s.unitOf s.cur = some u →
    let mask := s.me.src .int f.srcA 0
    let m := s.active (byP f.guard f.neg)
    let bank (t : State) (b : Nat) : Bank := (t.core u.core).bank (u.bankMap.getD b 0)
    let mode : BMode := match f.mod7.toNat with | 0 => .cache | 1 => .storage | _ => .compute
    let beyond := ∃ b, b < 32 ∧ inMask mask b = true ∧ u.sbanks + u.cbanks ≤ b
    let there := ∀ b, b < 32 → inMask mask b = true → (bank s b).mode = mode
    (beyond → s.gives (byP f.guard f.neg) (sigBankmode f) (.bankmode f) fun t => s.traps t m 0x02 0)
      ∧ (¬ beyond → there → s.modeBusy s.me.uid mask = false → s.abortLogs u mask = s →
          s.gives (byP f.guard f.neg) (sigBankmode f) (.bankmode f) fun t => s.becomes t ∧ s.goesOn t)
      ∧ (¬ beyond → ¬ there → (s.wx s.cur).tx = [] →
          s.gives (byP f.guard f.neg) (sigBankmode f) (.bankmode f) fun t =>
            ∃ v c, t.unitOf t.cur = some v ∧ c ∈ v.modeCh ∧ c.mask = mask ∧ c.mode = f.mod7.toNat
              ∧ t.awaited = some (.banks mask (c.id + 1)))
      ∧ ∀ c, u.modeCh = [c] → u.cvs = [] → c.mode < 3 → s.banksBusy s.me.uid c.mask c.id = false →
          s.copiesName s.me.uid c.mask c.id = false → (s.core u.core).room 512 = true →
          (∀ q, q < 4 → ((s.core u.core).quad q).fwd = []) →
          ∃ t, exec (.bankmodeComplete s.me.uid c.id) s = .next t ∧ (t.unit s.me.uid).map (·.modeCh) = some []
            ∧ ∀ b, b < 32 → inMask c.mask b = true →
                (bank t b).mode = (match c.mode with | 0 => BMode.cache | 1 => .storage | _ => .compute)
                  ∧ ((bank s b).mode ≠ (bank t b).mode → (bank s b).mode = .cache ∨ (bank t b).mode = .cache →
                      (bank t b).bytes = [])

/-- R123, R158, R338, R340, R343, R344: CVSET declares a name; a BMAC of a declared name signs its lanes into the name's round and
counts, and the round issues once every lane of its waves has signed; a name that is not declared traps. OPRDY performs the
stores that its quadrant holds. -/
def Obligations.Convergence : Prop :=
  ∀ (f : FmtA) (s : State) (u : WorkUnit), s.unitOf s.cur = some u →
    let m := s.active (byP f.guard f.neg)
    let list := s.me.src64 f.srcA 0
    let mask := s.me.src .int f.srcB 0
    let cfg := (s.me.src .int f.srcC 0).toNat
    let n := f.mod7.toNat % 16
    let c := u.cv n
    let o := signOf (s.sees (byP f.guard f.neg)) f
    let k := f.mod7.toNat / 16
    let alone := c.waves = [s.me.idx] ∧ u.widAt s.me.idx = s.cur
    let signs := m ||| (s.wx s.cur).exited
    s.gives (byP f.guard f.neg) (sigCvset f) (.cvset f) (fun t =>
        match declareTrap u list mask cfg with
        | some code => s.traps t m code 0
        | none =>
          if mask = 0 then s.becomes t
          else if (Tbl.find u.cvs n).isSome = true ∨ s.cvBound u.core < 16 then
            (if (u.cv n).rounds = [] then (s.setCv s.me.uid n ⟨true, list, mask, cfg, []⟩).becomes t
             else t.awaited = some (.round n))
          else t.awaited = some .cvFree)
      ∧ ((s.wx s.cur).resumed = false → s.me.dcGet k ≤ 62 → c.declared = false → c.rounds = [] →
          s.gives (byP f.guard f.neg) (sigBmac f) (.bmac f) fun t => s.traps t m 0x10 0)
      ∧ ((s.wx s.cur).resumed = false → s.me.dcGet k ≤ 62 → c.declared = true → alone → c.rounds = [] → u.cvs = [(n, c)] →
          formTrap u s.me o (cfgAfmt c.cfg) = none → s.modeBusy s.me.uid allLanes = false →
          u.alive.contains (u.slots.getD s.me.idx 0) = true →
          (signs = allLanes → s.jointTrap u c { id := 0, ops := [{ o with signed := m }] } = none) →
          s.gives (byP f.guard f.neg) (sigBmac f) (.bmac f) fun t =>
            ∃ v r p, t.unitOf t.cur = some v ∧ (v.cv n).rounds = [r] ∧ r.ops = [p] ∧ p.wid = s.cur ∧ p.signed = m
              ∧ p.ctr = k ∧ p.base = o.base ∧ p.off = o.off ∧ t.me.dcGet k = s.me.dcGet k + 1
              ∧ if signs = allLanes then r.issued = true ∧ r.banks = c.mask ∧ r.rows = 0 else r.issued = false)
      ∧ s.gives (byP f.guard f.neg) (sigOprdy f) (.oprdy f) (fun t =>
          s.goesOn t ∧ ((t.core (coreOf s.cur)).quad (quadOf s.cur)).fwd = []
            ∧ ∀ e, ((s.core (coreOf s.cur)).quad (quadOf s.cur)).fwd.getLast? = some e → e.core = coreOf s.cur →
                ∀ i, i < e.bytes.length → t.bankByte (coreOf s.cur) e.bank (e.off + i) = e.bytes.getD i 0#8)

/-- R166, R167, R345 to R347: BRDACC of a bank of which the wave has observed every round reads columns of accumulators under the
exponent of the descriptor and may zero them, BWRACC writes them with their flags, and BACCZ zeroes every accumulator of its banks. -/
def Obligations.Accumulators : Prop :=
  ∀ (f : FmtA) (s : State) (u : WorkUnit), s.unitOf s.cur = some u →
    let m := s.active (byP f.guard f.neg)
    let b := (s.me.src .int f.srcA 0).toNat
    let c0 := (s.me.src .int f.srcB 0).toNat
    let cnt := f.mod7.toNat % 16 + 1
    let conv := f.mod7.toNat / 16 % 4
    let bank (t : State) (b : Nat) : Bank := (t.core u.core).bank (u.bankMap.getD b 0)
    let k := bank s b
    let e := (((k.btd0.toNat / 2 ^ 24 % 256 : Nat) : Int)).bmod 256
    let ready := c0 + cnt ≤ 64 ∧ b < u.sbanks + u.cbanks ∧ (k.mode = .storage ∨ k.mode = .compute) ∧ s.turnAt (laneBit b)
    let read (v : Word) (c : Nat) : Word :=
      let neg := decide (v.toInt < 0)
      match conv with
      | 0 => if k.invf.getLsbD c then 0x7FC00000 else BitVec.ofNat 32 (f32Ty.round 0 neg v.toInt.natAbs e)
      | 1 => if k.invf.getLsbD c then 0x7FC0 else BitVec.ofNat 32 (bf16Ty.round 0 neg v.toInt.natAbs e)
      | _ => v
    let top : Int := 2147483647
    let fit (v : Int) : Int := max (-top - 1) (min top v)
    let written (y : Word) : Word :=
      if conv = 2 then y
      else match f32Ty.decode y.toNat with
        | .nan => 0
        | .inf neg => BitVec.ofInt 32 (if neg then -top - 1 else top)
        | .fin neg a x => BitVec.ofInt 32 (fit (roundInt 0 neg a (x - e)))
    (ready → k.poisf = 0 → (∀ r, r ∈ u.ran → inMask r.banks b = true → s.unobserved s.cur r = false) →
        s.gives (byP f.guard f.neg) (sigBrdacc f) (.brdacc f) fun t => s.goesOn t ∧
          ∀ n, f.dst = .vec n → ∀ i l, i < cnt → l < 32 → inMask m l = true →
            t.me.vGet (n.toNat + i) l = read (k.accAt l (c0 + i)) (c0 + i)
              ∧ (bank t b).accAt l (c0 + i) = if f.mod7.getLsbD 6 then 0 else k.accAt l (c0 + i))
      ∧ (ready → s.gives (byP f.guard f.neg) (sigBwracc f) (.bwracc f) fun t => s.goesOn t ∧
          ∀ n, f.srcC = .vec n → ∀ i l, i < cnt → l < 32 → inMask m l = true →
            (bank t b).accAt l (c0 + i) = written (s.me.vGet (n.toNat + i) l)
              ∧ (conv ≠ 2 → f32Ty.decode (s.me.vGet (n.toNat + i) l).toNat = .nan → (bank t b).invf.getLsbD (c0 + i) = true))
      ∧ (let mask := s.me.src .int f.srcA 0
         (∀ i, i < 32 → inMask mask i = true → i < u.sbanks + u.cbanks
            ∧ ((bank s i).mode = .storage ∨ (bank s i).mode = .compute)) → s.turnAt mask →
          s.gives (byP f.guard f.neg) (sigBaccz f) (.baccz f) fun t => s.goesOn t ∧
            ∀ i, i < 32 → inMask mask i = true → ∀ l c, (bank t i).accAt l c = 0)

/-- R154, R168, R348, R349: BFILL puts the values of its lanes into the planes and the scales of a slot, and BHAD transforms rows
of a storage bank by stages of sums and differences and scales them by a power of two. -/
def Obligations.SlotRows : Prop :=
  ∀ (f : FmtA) (s : State) (u : WorkUnit), s.unitOf s.cur = some u →
    let m := s.active (byP f.guard f.neg)
    let b := (s.me.src .int f.srcA 0).toNat
    let sel := (s.me.src .int f.srcB 0).toNat
    let k := (s.core u.core).bank (u.bankMap.getD b 0)
    let byte (t : State) (i : Nat) : Nat := (Tbl.get 0#8 ((t.core u.core).bank (u.bankMap.getD b 0)).bytes i).toNat
    let quiet := ∀ q, q < 4 → ((s.core (coreOf s.cur)).quad q).fwd = [] ∧ ((s.core u.core).quad q).fwd = []
    let fmt := k.btd0.toNat % 8
    let slot := sel % 64
    let row0 := sel / 64 % 32
    let cnt := f.mod7.toNat % 32 + 1
    let width := if fmt = 0 then 4 else if fmt = 4 then 16 else 8
    let size := 256 * width
    let per := 32 / width
    let scales := if fmt = 2 ∨ fmt = 3 then 128 else 64
    let ty := if f.mod7.getLsbD 2 then bf16Ty else f32Ty
    let z := if f.mod7.getLsbD 2 then 2 else 4
    let len := 2 ^ (4 + f.mod7.toNat % 4)
    let down := f.mod7.toNat / 8 % 8
    let rows := (s.me.src .int f.srcC 0).toNat
    let row (t : State) (r : Nat) : List Nat :=
      (List.range len).map fun i => (List.range z).foldr (fun j a => byte t (sel + (r * len + i) * z + j) + 256 * a) 0
    let stage (x : List Nat) (t : Nat) : List Nat :=
      (List.range len).map fun i =>
        let p := x.getD (i ^^^ (2 ^ t)) 0
        let v := x.getD i 0
        if i.testBit t then ty.encode 0 (FVal.sum 0 [ty.decode p, (ty.decode v).negate])
        else ty.encode 0 (FVal.sum 0 [ty.decode v, ty.decode p])
    let scaled (x : Nat) : Nat := match ty.decode x with
      | .fin neg a e => if a = 0 then x else ty.round 0 neg a (e - down)
      | v => ty.encode 0 v
    (quiet → s.turnAt (laneBit b) → b < u.sbanks + u.cbanks → k.mode = .storage ∨ k.mode = .compute → fmt < 5 →
      slot < 61440 / size → (f.mod7.getLsbD 5 = false → row0 + cnt ≤ 32) →
        s.gives (byP f.guard f.neg) (sigBfill f (s.fillFmt s.cur f)) (.bfill f) fun t => s.goesOn t ∧
          ∀ n, f.srcC = .vec n →
            if f.mod7.getLsbD 5 then
              ∀ i, i < scales → inMask m (i / 4) = true →
                byte t (61440 + scales * slot + i) = (s.me.vGet n.toNat (i / 4)).toNat / 256 ^ (i % 4) % 256
            else ∀ l c p, l < cnt → inMask m l = true → c < 64 → p < width →
              (byte t (size * slot + 256 * p + 8 * (row0 + l) + c / 8)).testBit (c % 8)
                = ((s.me.vGet (n.toNat + c / per) l).toNat).testBit (width * (c % per) + p))
      ∧ (quiet → s.turnAt (laneBit b) → b < u.sbanks + u.cbanks → k.mode = .storage → rows ≠ 0 → sel % (len * z) = 0 →
          sel + rows * len * z ≤ 65536 →
          s.gives (byP f.guard f.neg) (sigBhad f) (.bhad f) fun t => s.goesOn t ∧
            ∀ r, r < rows → row t r = (((List.range (4 + f.mod7.toNat % 4)).foldl stage (row s r)).map scaled))

/-! ## Lanes into scalars, and work for the engines -/

/-- R196, R200, R317, R350 to R353: with nothing of the core to release, MERGE, UNMERGE, NMRED and NMSCAN hand the descriptor that
they read to their engine, MAPREL its handle and status address, ACOPY its descriptor and start vector to the copy unit; the
status register is empty and the counter counts. XKICK sets the die's kick index, or is refused with a SCHED record. -/
def Obligations.EngineHandOver : Prop :=
  ∀ (f : FmtA) (s : State) (u : WorkUnit), s.unitOf s.cur = some u →
    let w := s.cur
    let m := s.active (byP f.guard f.neg)
    let va := (s.me.src64 f.srcA 0).toNat
    let at_ := (s.me.src64 f.srcB 0).toNat
    let count := (s.me.src .int f.srcA 0).toNat
    let dst : Option Nat := match f.dst with | .sca n => some n | _ => none
    let counts (k : Nat) (t : State) : Prop := s.goesOn t ∧ (k < 6 → t.me.dcGet k = s.me.dcGet k + 1)
    let taken (c : EngCmd) (k : Nat) (t : State) : Prop :=
      c.ctx = s.ctxOf w ∧ c.uid = s.me.uid ∧ c.wid = w ∧ c.card = none ∧ c.dst = dst ∧ c.role = 0 ∧ c.waiting = false
        ∧ c.result = none ∧ c.ctr = (if k < 6 then some k else none) ∧ (∀ r, dst = some r → t.me.sEmpty r = true) ∧ counts k t
    let read (p : Phys) : List Byte := (List.range 64).map (s.loadedByte u.crec.lid p 64 1)
    let full (k : Nat) : Prop := k < 6 ∧ 63 ≤ s.me.dcGet k
    let sends (i : Instr) (kind at_ : Nat) : Prop :=
      va % 64 = 0 → va + 64 ≤ 2 ^ 56 → ∀ p, s.xlate w va 64 .load = .ok p →
        let b := read p
        let y := (b.getD at_ 0).toNat
        s.gives (byP f.guard f.neg) (sigEngine f) i fun t =>
          if y % 8 = 7 ∨ y / 8 % 8 < 1 ∨ 4 < y / 8 % 8 ∨ 64 ≤ y then s.traps t m 0x02 0
          else if full (y % 8) then t.awaited = some (.counters [(y % 8, 62)])
          else ∃ c, taken c (y % 8) t ∧ c.kind = kind ∧ c.desc = b ∧ c.scope = y / 8 % 8 ∧
            if kind ≤ 2 then c.die = dieOf w ∧ (t.die c.die).merge = (s.die c.die).merge ++ [c]
            else c.die = (b.getD 2 0).toNat ∧ t.queues.nmQ = s.queues.nmQ ++ [c]
    let die := s.die (dieOf w)
    let x := die.x (s.ctxOf w)
    (s.settled → sends (.merge f) 0 12 ∧ sends (.unmerge f) 1 12 ∧ sends (.nmred f) 3 3 ∧ sends (.nmscan f) 4 3)
      ∧ (s.settled → at_ % 8 = 0 → at_ + 8 ≤ 2 ^ 56 →
          s.gives (byP f.guard f.neg) (sigMaprel f) (.maprel f) fun t =>
            let k := f.mod7.toNat % 8
            if full k then t.awaited = some (.counters [(k, 62)])
            else ∃ c, taken c k t ∧ c.kind = 2 ∧ c.handle = count % 65536 ∧ c.status = at_ ∧ c.scope = f.mod7.toNat / 8 % 8
              ∧ c.die = dieOf w ∧ (t.die c.die).merge = (s.die c.die).merge ++ [c])
      ∧ (s.settled → s.gives (byP f.guard f.neg) (sigXkick f) (.xkick f) fun t => s.goesOn t ∧
          if x.ring.getLsbD 0 = false ∨ count < x.kick ∨ die.lowRequest (s.ctxOf w) + 2 ^ xrLog x.ring < count then
            s.posts t (some (s.ctxOf w)) 9 0x24
          else ((t.die (dieOf w)).x (s.ctxOf w)).kick = count)
      ∧ (va % 64 = 0 → va + 64 ≤ 2 ^ 56 → ∀ p, s.xlate w va 64 .load = .ok p →
          let b := read p
          let y := (b.getD 60 0).toNat
          let h (i : Nat) : Nat := (s.me.srcN f.srcB (i / 2) 0).toNat / 65536 ^ (i % 2) % 65536
          let start : List Nat := match f.srcB with | .sca _ => (List.range 5).map h | _ => [0, 0, 0, 0, 0]
          y / 8 % 2 = 0 → s.modeBusy s.me.uid (s.copyNames u b) = false → ((s.core (coreOf w)).quad (quadOf w)).fwd = [] →
          s.gives (byP f.guard f.neg) (sigAcopy f) (.acopy f) fun t =>
            match s.copyTrap u b start with
            | some code => s.traps t m code 0
            | none =>
              if full (y % 8) then t.awaited = some (.counters [(y % 8, 62)])
              else counts (y % 8) t ∧ ∃ c, (t.core (coreOf w)).copies = (s.core (coreOf w)).copies ++ [c] ∧ c.desc = b ∧ c.iter = start
                ∧ c.uid = s.me.uid ∧ c.wid = w ∧ c.card = none ∧ c.cardDec = none ∧ c.walked = false
                ∧ c.ctr = (if y % 8 < 6 then some (y % 8) else none) ∧ c.scope = y / 16 % 8)

/-- R111, R173 to R180: a MERGE whose turn has come makes a map in the loft and has its output tokens and status to write, unless its
job has been cancelled meanwhile, an UNMERGE the rows that its map names, and a MAPREL releases its map; a descriptor that is refused,
and a handle that names no map, have their status codes to write. What is to be written goes through the cellar of the core that
issued the command, and once all of it is applied the command ends with its status in its register. -/
def Obligations.MergeCompletions : Prop :=
  ∀ (die : Nat) (c : EngCmd) (rest : List EngCmd) (s : State), (s.die die).merge = c :: rest → c.die = die →
    let b := c.desc
    let n := leAt b 0 2
    let dim := leAt b 2 2
    let w := leAt b 4 2
    let h := leAt b 10 2
    let status := leAt b 56 8
    let word (h code n : Nat) : List Byte := toBytes 2 h ++ toBytes 1 code ++ [0#8] ++ toBytes 4 n
    let refused (i : Instr) (h code : Nat) : Prop := ∀ ps, status + 8 ≤ 2 ^ 56 →
      s.engPlaceAll c.ctx [(status, word h code 0, 8)] = .ok ps → s.happens i fun t => t.performed c code (h + 65536 * code) ps
    (s.atTurn c →
      (c.kind = 0 → mergeBad b = true → refused (.mergeComplete die) 0xFFFF 3)
      ∧ (c.kind = 0 → mergeBad b = false → h = 0xFFFF → ∀ i keys vals sizes prot z ps,
          (s.die die).mapIndex = some i → ceilDiv n 128 ≤ (s.die die).loftFree →
          s.mergeReads c b = .ok ((keys, vals, sizes, prot), z) → z.cmdHeld c.id = some c →
          let halves := byteAt b 8 = 1
          let size (t : Nat) : Nat := if leAt b 32 8 = 0 then 0x3F800000 else leAt sizes (4 * t) 4
          let merged := mergeSet halves n dim (leAt b 6 2) keys prot
          let order := mergeOrder halves n merged
          let out := mergeOutput w vals size order merged
          let hd := die * 512 + i
          leAt b 48 8 + out.length ≤ 2 ^ 56 →
          z.engPlaceAll c.ctx [(leAt b 48 8, out, 4), (status, word hd 0 order.length, 8)] = .ok ps →
          s.happens (.mergeComplete die) fun t => t.performed c 0 hd ps ∧ (t.die die).loft = (z.die die).loft ++
            if z.cancelIn c.ctx 4 c.job then [] else [⟨hd, c.ctx, c.job, n, order.length, mergeMap n order merged, false, false⟩])
      ∧ (c.kind = 1 → unmergeBad b = true → refused (.unmergeComplete die) h 3)
      ∧ (c.kind = 1 → unmergeBad b = false → s.heldMap die c.ctx h = none → refused (.unmergeComplete die) h 4)
      ∧ (c.kind = 1 → unmergeBad b = false → ∀ m rows z ps, s.heldMap die c.ctx h = some m → m.lost = false →
          leAt b 16 8 + 4 * w * m.nout ≤ 2 ^ 56 → leAt b 24 8 + 4 * w * m.n0 ≤ 2 ^ 56 →
          s.engRead c.ctx (leAt b 16 8) (4 * w * m.nout) 6 = .ok (rows, z) → z.cmdHeld c.id = some c →
          z.engPlaceAll c.ctx [(leAt b 24 8, m.entries.flatMap (fun r => (rows.drop (4 * w * r)).take (4 * w)), 4),
            (status, word h 0 m.n0, 8)] = .ok ps →
          s.happens (.unmergeComplete die) fun t => t.performed c 0 h ps)
      ∧ (c.kind = 2 → c.status + 8 ≤ 2 ^ 56 → ∀ ps,
          let code := if (s.heldMap die c.ctx c.handle).isSome then 0 else 4
          s.engPlaceAll c.ctx [(c.status, word c.handle code 0, 8)] = .ok ps →
          s.happens (.maprelComplete die) fun t => t.performed c code (c.handle + 65536 * code) ps
            ∧ (code = 0 → ∀ m, m ∈ (t.die die).loft → m.handle ≠ c.handle)))
      ∧ (∀ code val, c.stands code val →
          (c.kind = 0 → s.finishes (.mergeComplete die) c val) ∧ (c.kind = 1 → s.finishes (.unmergeComplete die) c val)
            ∧ (c.kind = 2 → s.finishes (.maprelComplete die) c val))

/-- R111, R183 to R193: an NMRED combines the elements of each row, or of each column, and has one output for each to write; an
NMSCAN the pairs that its predicate selects, or the largest, with their count. A descriptor that is refused has code 3 to write. What
is to be written goes through the cellar of the core that issued the command, and once all of it is applied the command ends. -/
def Obligations.NearMemoryCompletions : Prop :=
  ∀ (k : Nat) (c : EngCmd) (s : State), (s.queues.nmQ.find? fun x => x.id = k && x.kind = c.kind) = some c →
    let b := c.desc
    let status := leAt b 40 8
    let word (n code : Nat) : List Byte := toBytes 4 n ++ toBytes 1 code ++ List.replicate 3 0#8
    let refused (i : Instr) : Prop := ∀ ps, status + 8 ≤ 2 ^ 56 →
      s.engPlaceAll c.ctx [(status, word 0 3, 8)] = .ok ps → s.happens i fun t => t.performed c 3 3 ps
    let op := (b.getD 0 0).toNat
    let byRow := (b.getD 1 0).getLsbD 0
    let wide := (b.getD 1 0).getLsbD 2
    let len := leAt b 4 4
    let cnt := leAt b 4 4
    let cap := leAt b 8 4
    let ty := (b.getD 1 0).toNat
    let z := if ty = 1 then 2 else 4
    let pairs (l : List Byte) : List (Nat × Nat) := (List.range cnt).map fun i => (i, leAt l (z * i) z)
    let scans (l : List Byte) (y : State) (out : List (Nat × Nat)) (count code : Nat) : Prop :=
      s.nmRead c.ctx (leAt b 16 8) (leAt b 16 8) (cnt * z) = .ok (l, y) → y.cmdHeld c.id = some c → ∀ ps,
        y.engPlaceAll c.ctx [(leAt b 32 8, out.flatMap (fun p => toBytes 4 p.1 ++ toBytes 4 p.2), 8), (status, word count code, 8)]
          = .ok ps → s.happens (.nmscanComplete k) fun t => t.performed c code code ps
    (s.atTurn c →
      (c.kind = 3 → nmredBad c b = true → refused (.nmredComplete k))
      ∧ (c.kind = 3 → nmredBad c b = false → ∀ rows y ps, s.nmRows c.ctx b = .ok (rows, y) → y.cmdHeld c.id = some c →
          let groups := if byRow then rows else (List.range len).map fun e => rows.map fun r => r.getD e 0
          let size := if wide then 64 else if op = 1 ∨ op = 4 then 8 else 4
          let out (g : List Nat) : List Byte := (joinAll op (g.map (nrNode b))).out op wide (loHalf (Config.freeOf g)).toNat
          y.engPlaceAll c.ctx [(leAt b 32 8, groups.flatMap out, size), (status, word groups.length 0, 8)] = .ok ps →
          s.happens (.nmredComplete k) fun t => t.performed c 0 0 ps)
      ∧ (c.kind = 4 → nmscanBad c b = true → refused (.nmscanComplete k))
      ∧ (c.kind = 4 → nmscanBad c b = false → op < 8 → ∀ l y,
          let hits := (pairs l).filter fun p => scanHit op ty (leAt b 24 4) (leAt b 28 4) p.2
          scans l y (hits.take cap) hits.length (if cap < hits.length then 6 else 0))
      ∧ (c.kind = 4 → nmscanBad c b = false → op = 8 → ∀ l y,
          let good := (pairs l).filter fun p => scanCmp ty p.2 p.2 ≠ none
          ∃ top, scans l y top top.length 0 ∧ top.length = min cap good.length ∧ (∀ p, p ∈ top → p ∈ good)
            ∧ ∀ p q, p ∈ top → q ∈ good → q ∉ top → scanCmp ty q.2 p.2 ≠ some .gt))
      ∧ (∀ code val, c.stands code val →
          (c.kind = 3 → s.finishes (.nmredComplete k) c val) ∧ (c.kind = 4 → s.finishes (.nmscanComplete k) c val))

/-- R92, R196 to R202, R317: a copy among the first eight of its core moves its elements, and ends with its counter once its writes
are applied; an engine of a die takes the next request below the kick index, and a request that has been performed writes its
outputs and its completion record. -/
def Obligations.CopiesAndTransforms : Prop :=
  ∀ (s : State),
    (∀ (core : Nat) (k : Copy), ((s.core core).copies.take 8).find? (fun c => c.id = k.id) = some k → k.core = core →
      (∀ m, k.walked = true → k.wr = [] → k.mark = some m → k.failed = false → s.applied core m = true → k.card = none → k.cardDec = none →
        (∀ u, s.unit k.uid = some u → u.cvs = []) →
        s.happens (.acopyComplete core k.id) fun t => (∀ c, c ∈ (t.core core).copies → c.id ≠ k.id)
          ∧ (s.issuer k.uid k.wid = true → ∀ n, k.ctr = some n → 0 < (s.wave k.wid).dcGet n →
              (t.wave k.wid).dcGet n = (s.wave k.wid).dcGet n - 1))
      ∧ (k.walked = false → k.role = 0 → k.waiting = false → k.desc ≠ [] → k.iter = [0, 0, 0, 0, 0] →
        cpExt k.desc = [1, 1, 1, 1, 1] → cpConv k.desc = 0 → slotDst k.desc = false →
        apertureOf (cpSrc k.desc) = 1 → apertureOf (cpDst k.desc) = 1 →
        (∀ u, s.unit k.uid = some u → ∀ h, h ∈ u.hads → s.hadOn u h = false) →
        let n := 2 ^ cpEsz k.desc
        ∀ ps qs, s.bankBytes k (cpSrc k.desc) n = some ps → s.bankBytes k (cpDst k.desc) n = some qs → qs.Nodup →
          (∀ p, p ∈ ps → p.2 ∉ ((s.core core).bank p.1).bad) →
          s.happens (.acopyComplete core k.id) fun t =>
            (∀ (i : Nat) (p q : Nat × Nat), ps[i]? = some p → qs[i]? = some q → t.bankByte core q.1 q.2 = s.bankByte core p.1 p.2)
              ∧ ∃ c, c ∈ (t.core core).copies ∧ c.id = k.id ∧ c.walked = true))
      ∧ (∀ (die engine ctx : Nat), (s.die die).owner = some ctx → (s.die die).flying engine = none →
        (∀ c, c ∈ (s.die die).xcards → c.ctx ≠ ctx) →
        let x := (s.die die).x ctx
        x.ring.getLsbD 0 = true → x.next < x.kick →
        s.happens (.xformRequestStart die engine) fun t => ((t.die die).x ctx).next = x.next + 1 ∧ ∃ r,
          (t.die die).xfly = (s.die die).xfly ++ [r] ∧ r.i = x.next ∧ r.cmd.engine = engine ∧ r.cmd.ctx = ctx
            ∧ r.cmd.descVa = xrBase x.ring + die * 64 * 2 ^ xrLog x.ring + x.next % 2 ^ xrLog x.ring * 64)
      ∧ (∀ (die engine : Nat) (x : XFly), (s.die die).flying engine = some x → x.cmd.kind = 5 → x.cmd.die = die → s.atTurn x.cmd →
        let c := x.cmd
        let b := c.desc
        let ring (z : State) : Dword := ((z.die die).x c.ctx).ring
        let slot (z : State) : Nat := xrBase (ring z) + 84 * 64 * 2 ^ xrLog (ring z) + die * 16 * 2 ^ xrLog (ring z)
          + x.i % 2 ^ xrLog (ring z) * 16
        let line (z : State) (code val : Nat) : List Byte := (b.drop 4).take 4 ++ b.take 1 ++ toBytes 1 code ++ toBytes 1 c.engine
          ++ toBytes 1 (x.i / 2 ^ xrLog (ring z) % 2) ++ toBytes 4 val ++ toBytes 4 (z.refTime die)
        let records (z : State) (code val : Nat) : Prop := z.cmdOut c.id = false → ∀ ps, z.engPlaces c.ctx (slot z) (line z code val) 16 = .ok ps →
          s.happens (.xformRequestComplete die engine) fun t =>
            (ps.foldl (fun s p => s.engPut c.id (c.die * 16) c.ctx 0 p.1 p.2) z).commandEnds t c val
        (xformBad b = true → records s 3 0)
          ∧ (xformBad b = false → xfFunc b = 6 → xDSTB b = 0 → ∀ l z ps,
              s.engRead c.ctx (xSRC b) (xfRows b * 2 ^ 32 + xfCols b) 6 = .ok (l, z) →
              z.engPlaceAll c.ctx [(xDSTA b, sha512 l, 4)] = .ok ps → z.storeFull (z.cmdLid c) ps = false → records (z.putAll c ps) 0 0))

/-! ## Waves (events) -/

/-- R34, R223 to R226, R239, R240, R423: of the ready waves of a quadrant one of the highest effective priority issues, the next after
the one chosen last at that priority; a clause that is fetched gives its slots in order once its wait mask is satisfied, and one with
a bad header traps; values that return fill their registers, and the counter falls with the last of them; a load that waited at its
home reads there once nothing holds it, under the bytes that its core held. -/
def Obligations.FetchAndReturn : Prop :=
  ∀ (s : State),
    (∀ quad, ((s.core (quad / 4)).quad (quad % 4)).holder = none → ((List.range 24).any fun k => s.ready (quad * 24 + k)) = true →
      s.happens (.issueChoice quad) fun t => ∃ k, k < 24 ∧
        let w := quad * 24 + k
        let can (j : Nat) : Prop := j < 24 ∧ s.ready (quad * 24 + j) = true
        let top (j : Nat) : Prop := can j ∧ s.effPrio (quad * 24 + j) = s.effPrio w
        s.ready w = true ∧ t.cur = w ∧ ((t.core (quad / 4)).quad (quad % 4)).holder = some w ∧ (t.wx w).wait = none ∧ (t.wx w).passed = 0
          ∧ (∀ j, can j → s.effPrio (quad * 24 + j) ≤ s.effPrio w)
          ∧ (∀ j, can j → j ≠ k → (t.wx (quad * 24 + j)).passed = (s.wx (quad * 24 + j)).passed + 1)
          ∧ (match Tbl.find ((s.core (quad / 4)).quad (quad % 4)).last (s.effPrio w) with
            | some l => if l < k then ∀ j, top j → l < j → k ≤ j else ∀ j, top j → j ≤ l ∧ k ≤ j
            | none => ∀ j, top j → k ≤ j))
      ∧ (∀ e hb b ps qs, s.me.issuing = some e → e.fetched = false → e.slot = 0 → e.code = 0 →
        let h : Dword := BitVec.ofNat 64 (ofBytes hb)
        let n := h.toNat % 16 + 1
        let word (i : Nat) : Dword := BitVec.ofNat 64 (leAt b (8 * i) 8)
        let lims := ((List.range 6).filter fun i => h.getLsbD (23 + i)).map fun i => (i, 0)
        let below := ∀ p, p ∈ lims → s.me.dcGet p.1 ≤ p.2
        s.fetchBytes s.cur e.pc.toNat 8 = .ok hb ps → (s.wx s.cur).resumed = false →
        (h.toNat / 2 ^ 42 ≠ 0 ∨ h.toNat / 2 ^ (4 + n) % 2 ^ (16 - n) ≠ 0 → s.happens .clauseFetch fun t => s.traps t e.mask 0x05 0)
          ∧ (h.toNat / 2 ^ 42 = 0 → h.toNat / 16 % 2 ^ 16 = 0 → s.fetchBytes s.cur (e.pc.toNat + 8) (8 * n) = .ok b qs →
            (∀ i, i + 1 < n → isTransfer ((word i).toNat % 1024) = false) →
            s.happens .clauseFetch fun t =>
              (below → ∃ d, t.me.issuing = some d ∧ d.fetched = true ∧ d.pc = e.pc ∧ d.mask = e.mask ∧ d.hdr = h
                ∧ d.todo = (List.range n).map (fun i => ⟨i, 0, word i, false⟩))
                ∧ (¬ below → t.awaited = some (.counters lims))))
      ∧ (∀ w r, (s.wx w).returns.find? (fun x => x.id = r.id) = some r → r.gate = false →
        ((s.wx w).vtos = [] → r.held = [] → s.happens (.loadDataReturn w r.id) fun t =>
          (∀ v, v ∈ r.vals → (∀ u, u ∈ r.vals → u.vec = v.vec → u.reg = v.reg → (v.vec = true → u.lane = v.lane) → u = v) →
            if v.vec then v.lane < 32 → (t.wave w).vGet v.reg v.lane = v.val ∧ inMask ((t.wave w).vEmpty v.reg) v.lane = false
            else (t.wave w).sGet v.reg = v.val ∧ (t.wave w).sEmpty v.reg = false)
          ∧ (r.pend = 0 → (∀ q, q ∈ (t.wx w).returns → q.id ≠ r.id)
              ∧ ∀ n, r.ctr = some n → 0 < (s.wave w).dcGet n → (t.wave w).dcGet n = (s.wave w).dcGet n - 1))
        ∧ (∀ h, (s.wx w).vtos = [] → r.vals = [] → r.held = [h] → s.heldStops w h = false →
            (∀ x, x ∈ s.heldLoads w → x.id < h.id → lineLoc x.loc ≠ lineLoc h.loc) →
            let n := h.have_.length
            s.meet h.loc n = s → s.locPoisoned h.loc h.mxf n = false → s.wayOf h.loc ≠ .none →
            let home := (s.readyLoc h.loc).readLoc h.loc h.mxf n
            let b := (h.have_.zip home).map fun q => q.1.getD q.2
            s.happens (.loadDataReturn w r.id) fun t => ∀ i v, h.out[i]? = some v →
              (∀ j u, h.out[j]? = some u → u.vec = v.vec → u.reg = v.reg → (v.vec = true → u.lane = v.lane) → j = i) →
              let x := BitVec.ofNat 32 (leAt b (4 * i) 4)
              if v.vec then v.lane < 32 → (t.wave w).vGet v.reg v.lane = x ∧ inMask ((t.wave w).vEmpty v.reg) v.lane = false
              else (t.wave w).sGet v.reg = x ∧ (t.wave w).sEmpty v.reg = false)
        ∧ (∀ p x, (s.wx w).vtos = [p] → r.held = [] → p.pair = false → p.lane < 32 → r.vals = [⟨true, p.src, p.lane, x⟩] →
            s.happens (.loadDataReturn w r.id) fun t => (t.wave w).sGet p.dst = x ∧ (t.wave w).sEmpty p.dst = false ∧ (t.wx w).vtos = []))

/-- R45 to R50, R69, R272, R372 to R374: a wave whose entries are all trapped, held or blocked takes its first trap: the trap
registers hold the code, the lanes, the clause header and the address, and one entry of all 32 lanes starts at the handler of the
context; with no handler, or in handler mode, the context stops. A halted or pre-empted wave that has drained enters the system
handler; a unit that permits it is discarded, where no wave of it is halted, and its record queued again, or held while its
queue has no room or its launch is cancelled; a unit whose waves have left the handler is SAVED. -/
def Obligations.ExceptionEntry : Prop :=
  ∀ (w : Nat) (s : State),
    let x := s.wave w
    let ctx := s.ctxOf w
    let first (e : Entry) : Prop := e ∈ x.frontier ∧ e.isTrapped = true ∧ ∀ d, d ∈ x.frontier → d.isTrapped = true → e.seq ≤ d.seq
    let inHandler (t : State) (h : Handler) : Prop := (t.wx w).handler = some h ∧ (t.wx w).wait = none
      ∧ ∃ e, (t.wave w).frontier = [e] ∧ e.pc = BitVec.ofNat 64 (s.ctx ctx).handler ∧ e.mask = allLanes ∧ e.stat = .ready ∧ e.fetched = false
    let drained : Bool := s.canStop w && s.returned w && s.cmdsDone w && !(s.roundsRun w)
    ((∃ e, e ∈ x.frontier ∧ e.isTrapped = true) →
        ((s.wx w).handler = none → s.onlyTraps w = true → (s.ctx ctx).handler ≠ 0 →
          s.happens (.programTrapTaken w) fun t => x.keepsRegs (t.wave w) [] 0 [] ∧ x.keepsPreds (t.wave w) [] 0 []
            ∧ ∃ e h code addr, first e ∧ e.stat = .trapped code addr ∧ inHandler t h ∧ h.system = false ∧ h.trapped = some e
              ∧ h.trapCode = BitVec.ofNat 32 (code + 256 * e.slot + 4096 * e.code) ∧ h.trapMask = e.mask ∧ h.trapPc = e.pc
              ∧ h.trapAddr = BitVec.ofNat 64 addr ∧ ∀ d, d ∈ x.frontier → d.isTrapped = false → ∃ k, (k, d) ∈ h.intr)
        ∧ ((s.wx w).handler.isSome = true ∨ (s.onlyTraps w = true ∧ (s.ctx ctx).handler = 0) →
          s.happens (.programTrapTaken w) fun t => (t.ctx ctx).stopped = true
            ∧ ∃ r, r ∈ t.hubs.errQ ∧ r.ctx = some ctx ∧ (r.bytes.getD 0 0).toNat = 10 ∧ (r.bytes.getD 1 0).toNat = 3))
      ∧ (x.live = true → (s.wx w).parked = false → s.happens (.debuggerHalt w) fun t =>
          if drained then ∃ h, inHandler t h ∧ h.system = true ∧ h.save = false ∧ h.trapped = none else (t.wx w).halt = true)
      ∧ (∀ u uid, s.unit uid = some u → u.stat = .resident → u.alive ≠ [] →
          (u.crec.abortOk = true → ∀ l, s.launch u.crec.lid = some l → cardCoop l.flags = false →
            (∀ v, v ∈ u.aliveWids → s.halted v = false) →
            let z := s.dropUnit uid true
            s.happens (.preemptRequest uid) fun t => t.unit uid = none ∧ ∃ r,
              (if z.launchCancelled u.crec.lid = false ∧ z.recWaits u.crec.ctx (dieOfCore u.core) u.crec.prio = false then
                ∃ k, dieOfCore k = dieOfCore u.core ∧ r ∈ (t.core k).uq else r ∈ t.queues.held)
              ∧ r.code = u.crec.code ∧ r.frame = u.crec.frame ∧ r.join = u.crec.join ∧ r.unit = u.crec.unit ∧ r.lid = u.crec.lid
              ∧ r.flags.testBit 3 = true)
          ∧ (u.crec.abortOk = true → ∀ v, v ∈ u.aliveWids → s.halted v = true →
              s.happens (.preemptRequest uid) fun t => (t.unit uid).isSome = true ∧ (t.wx v).preempt = true)
          ∧ (u.crec.abortOk = false → u.aliveWids.all (fun v => (s.wx v).parked) = true →
              s.happens (.preemptRequest uid) fun t => (t.unit uid).map (·.stat) = some .saved)
          ∧ (u.crec.abortOk = false → ∀ v, v ∈ u.aliveWids → (s.wx v).parked = false → (s.wx v).handler = none →
              s.happens (.preemptRequest uid) fun t =>
                (t.wx v).preempt = true ∨ ∃ h, (t.wx v).handler = some h ∧ h.system = true ∧ h.save = true))

/-- R37, R50, R160 to R163, R266, R267, R396, R397, R405, R406: a quadrant grants the first request for registers that it has room
for, zeroed and full; a register of a MIRROR_OK wave is mirrored; a sleeping wave goes on at its time; a wave that has not begun a
clause for 1 s has its lanes trapped; a wave that waits for a port is suspended; a wave with no lane left leaves its slot; and a
round that has issued gives its counters back. -/
def Obligations.WaveEvents : Prop :=
  ∀ (w quad : Nat) (s : State),
    let x := s.wave w
    let y := s.wx w
    let mine := ((s.core (quad / 4)).quad (quad % 4))
    (∀ rest, mine.grows = w :: rest → s.quadUsed (quad / 4) (quad % 4) + y.growWant ≤ 1024 →
        s.happens (.reggrowGrant quad) fun t => (t.wave w).valloc = x.valloc + y.growWant
          ∧ ((t.core (quad / 4)).quad (quad % 4)).grows = rest
          ∧ ∀ r, x.valloc ≤ r → (∀ l, (t.wave w).vGet r l = 0) ∧ (t.wave w).vEmpty r = 0)
      ∧ (∀ u r, s.unitOf w = some u → u.crec.mirrorOk = true → s.quadHeld (coreOf w) (quadOf w) ≤ 512 → r < x.valloc → x.vEmpty r = 0 →
          y.mirrored.contains r = false →
          s.happens (.mirrorCopyDone w r) fun t => (t.wx w).mirrored = y.mirrored ++ [r])
      ∧ (∀ at_, y.wait = some (.time at_) → at_ ≤ s.time → s.happens (.sleepExpiry w) fun t => (t.wx w).wait = none ∧ t.wave w = x)
      ∧ (s.watched w = true → y.lastIssue + 1000000000 ≤ s.time → (x.frontier.any fun e => !e.isTrapped && e.mask ≠ 0) = true →
          (∀ u, s.unitOf w = some u → u.cvs = []) →
          s.happens (.watchdogExpiry w) fun t =>
            (∀ e l, e ∈ x.frontier → l < 32 → inMask e.mask l = true → e.isTrapped = false →
              ∃ d, d ∈ (t.wave w).frontier ∧ inMask d.mask l = true ∧ d.stat = .trapped 0x13 0 ∧ d.pc = e.pc)
              ∧ (t.wx w).lastIssue = s.time)
      ∧ (s.peerWait w = true → y.suspended = none → s.happens (.peerSuspendExpiry w) fun t => (t.wx w).suspended = some s.time)
      ∧ (∀ at_, s.peerWait w = false ∨ at_ + 2000000000 ≤ s.time → y.suspended = some at_ → s.happens (.peerSuspendExpiry w) fun t =>
          (t.wx w).suspended = none ∧ (t.wx w).lastIssue = y.lastIssue + (s.time - at_))
      ∧ (∀ u, s.waveDone w = true → s.unitOf w = some u → u.cvs = [] → s.happens (.waveComplete w) fun t =>
          (t.wave w).live = false ∧ ∃ v, t.unit x.uid = some v ∧ v.alive = u.alive.filter fun k => u.core * 96 + k ≠ w)
      ∧ (∀ uid u cv r o, s.unit uid = some u → ((u.cv cv).rounds.find? fun r => r.issued) = some r → r.ops = [o] → o.wid = w →
          s.banksBusy uid (r.banks ||| r.chunks) r.id = false →
          s.happens (.roundComplete uid cv) fun t =>
            (∃ v, t.unit uid = some v ∧ ∀ q, q ∈ (v.cv cv).rounds → q.id ≠ r.id)
              ∧ (0 < x.dcGet o.ctr → (t.wave w).dcGet o.ctr = x.dcGet o.ctr - 1))

/-! ## Work (events) -/

/-- R25 to R29, R62, R66 to R70: a unit whose waves have ended releases its writes and frees its banks, and is gone once they are
applied; a join counter and a card's PREDS fall by one, and at zero post what they guard; a decrement at zero is reported; a core
that is able takes the record at the head of its queue, and the unit's waves stand in their quadrants with their start registers. -/
def Obligations.UnitEvents : Prop :=
  ∀ (s : State),
    (∀ uid u, s.unit uid = some u → u.alive = [] →
      (u.stat ≠ .completing → s.unitCmdsDone uid = true → (s.core u.core).room 1 = true → s.epochHeld (dieOfCore u.core) = false →
        (∀ x, x ∈ (s.core u.core).l1 → x.isDirty = false) →
        s.happens (.unitComplete uid) fun t => (t.unit uid).map (·.stat) = some .completing
          ∧ (∀ b, b ∈ u.bankMap → Tbl.find (t.core u.core).banks b = none)
          ∧ (u.crec.join ≠ 0 → ∃ e, e ∈ (t.core u.core).cellar ∧ e.req = .join u.crec.join (dieOfCore u.core) ∧ e.ctx = u.crec.ctx))
      ∧ (u.stat = .completing → s.applied u.core u.mark = true → s.happens (.unitComplete uid) fun t => t.unit uid = none
          ∧ ∀ l, s.launch u.crec.lid = some l → (t.launch u.crec.lid).map (·.left) = some (l.left - 1)))
      ∧ (∀ k e addr die b, s.inFlight k = some e → e.req = .join addr die → e.held = none → s.earlier e = false →
        s.vaHeld e.ctx addr 16 .atomic = false → s.readVa e.ctx addr 16 .atomic = .ok b →
        let n := leAt b 0 4
        let kind := leAt b 4 2
        (n = 0 → s.happens (.joinDecrement k) fun t => s.posts t (some e.ctx) 9 0x20 ∧ t.inFlight k = none)
          ∧ (2 ≤ n → s.happens (.joinDecrement k) fun t =>
              t.homes = ((s.landed k).deviceWrite? e.ctx addr (toBytes 4 (n - 1))).homes ∧ (s.homes.snaps = [] → t.queues = s.queues))
          ∧ (n = 1 → kind = 2 → s.happens (.joinDecrement k) fun t => t.queues.subs = s.queues.subs ++ [⟨e.ctx, leAt b 8 8, die, 2, false⟩])
          ∧ (n = 1 → kind = 1 → ∀ g l, s.readVa e.ctx (leAt b 8 8) 32 .load = .ok g → s.runningSlot e.ctx (leAt g 28 2) = some l →
              s.launchCancelled l.id = false → s.recWaits e.ctx (leAt g 28 2 / 64) l.prio = false →
              s.happens (.joinDecrement k) fun t => ∃ c r, dieOfCore c = leAt g 28 2 / 64 ∧ r ∈ (t.core c).uq ∧ r.code = leAt g 0 8
                ∧ r.frame = leAt g 8 8 ∧ r.join = leAt g 16 8 ∧ r.unit = leAt g 24 4 ∧ r.flags = leAt g 30 2 ∧ r.lid = l.id))
      ∧ (∀ k e addr die lane b, s.inFlight k = some e → e.req = .preds addr die lane → e.held = none → s.earlier e = false →
        s.listBefore e = false → s.vaHeld e.ctx addr 8 .atomic = false → s.readVa e.ctx addr 8 .atomic = .ok b →
        let n := leAt b 4 2
        (n = 0 → s.happens (.predsDecrement k) fun t => s.posts t (some e.ctx) 9 0x21 ∧ t.inFlight k = none)
          ∧ (2 ≤ n → s.happens (.predsDecrement k) fun t =>
              t.homes = ((s.landed k).journal.deviceWrite? e.ctx (addr + 4) (toBytes 2 (n - 1))).homes
                ∧ (s.homes.snaps = [] → t.queues = s.queues))
          ∧ (n = 1 → ∀ c, s.card e.ctx addr = some c → c.stat = .held → s.cardCancelled c = false →
              s.cardWaits e.ctx c.prio (s.postTo c false (some die)) = false → s.happens (.predsDecrement k) fun t => (t.card e.ctx addr).map (·.stat) = some .posted))
      ∧ (∀ core c r l i z, s.savedFor core = none → s.popFrom core = some (c, r) → r.clu = none → s.launch r.lid = some l → l.id = r.lid →
        s.launchCancelled l.id = false → s.able core l = true → (s.updCore c fun x => { x with uq := x.uq.drop 1 }).loadDict core l = .ok (i, z) →
        s.happens (.unitPopStart core) fun t => t.starts core l r.unit r.frame r.code)

/-- R53 to R61, R63 to R67, R76, R77: a doorbell makes the ring handled up to its tail, or reports a ring error; a card that passes
the checks is registered, and held or posted, and one that fails is reported with its code; the command processor takes package
cards; a share takes a launch slot and its clusters are placed; a command card goes to its engine; a card that ends decrements its
successors and is gone; a host signal writes its value and sends its message; COOP launches are admitted one at a time. -/
def Obligations.CardEvents : Prop :=
  ∀ (s : State), s.hubs.sched.takeover = none →
    (∀ ctx tail, (s.ctx ctx).on = true → (s.ctx ctx).stopped = false → tail < 2 ^ 32 →
      let c := s.ctx ctx
      (2 ^ c.ringlog ≤ tail → s.happens (.doorbellWrite ctx tail) fun t => t.reported ctx 0x23 ∧ (t.ctx ctx).head = c.head)
        ∧ (tail < 2 ^ c.ringlog → (c.head + 1) % 2 ^ c.ringlog = tail → c.head ≠ tail →
            s.ringStalls ctx = false →
            let b := Mem.readN s.homes.host (c.ring + 16 * c.head) 16
            (byteAt b 8 = 1 → s.happens (.doorbellWrite ctx tail) fun t => (t.ctx ctx).head = tail)
              ∧ (byteAt b 8 = 0 → s.happens (.doorbellWrite ctx tail) fun t => t.reported ctx 0x23 ∧ (t.ctx ctx).head = c.head)))
      ∧ (∀ x b, s.queues.subs = [x] → x.src = 0 → x.held = false → (∀ n, (s.ctx n).tail = none) → s.readVa x.ctx x.addr 64 .load = .ok b →
        let code := s.checkCard x.ctx b 0 (some x.die)
        let c := cardOf x.ctx x.addr b 0 x.die
        (code ≠ 0 → s.happens .cardRegister fun t => t.reported x.ctx code)
          ∧ (code = 0 → s.counterRoom c (((s.counter x.ctx 2 c.graph).map (·.die)).getD x.die) = true → (s.ctx x.ctx).cancels = [] →
              s.cardWaits x.ctx c.prio none = false → s.happens .cardRegister fun t => t.queues.subs = [] ∧ ∃ d, t.card x.ctx x.addr = some d ∧ d.kind = cKind b ∧ d.prio = cPrio b
                ∧ d.graph = cGraph b ∧ d.phase = cPhase b ∧ d.job = cJob b ∧ d.stat = (if cPreds b = 0 then .posted else .held)))
      ∧ (∀ ctx x rest c b, (s.ctx ctx).pq = x :: rest → s.card ctx x.addr = some c → c.ctx = ctx → c.addr = x.addr →
        s.readVa ctx x.addr 64 .load = .ok b →
        (c.kind = 1 → cardCoop (cFlags b) = false → s.takeWaits ctx c b x = false → s.happens (.packageQueueTake ctx) fun t => ∀ p,
            p ∈ splitShares (ceilDiv (cUnits b) (max 1 (cCluster b))) (s.diesIn ctx) →
              ∃ y, y ∈ (t.die p.1).cardQ ∧ y.ctx = ctx ∧ y.addr = x.addr ∧ y.c0 = p.2.1 ∧ y.c1 = p.2.2)
          ∧ (2 ≤ c.kind → c.kind ≤ 5 → s.takeWaits ctx c b x = false → s.happens (.packageQueueTake ctx) fun t => x ∈ (t.die (s.targetDie c)).cardQ)
          ∧ (c.kind = 6 → s.happens (.packageQueueTake ctx) fun t =>
              t.queues.signals = s.queues.signals ++ [⟨ctx, x.addr, cCode b, BitVec.ofNat 64 (leAt b 16 8), leAt b 24 2, s.time⟩])
          ∧ (c.kind = 7 → s.takeWaits ctx c b x = false → s.happens (.packageQueueTake ctx) fun t => ∃ d, t.card ctx x.addr = some d ∧ d.stat = .done ∧ d.final = 4))
      ∧ (∀ die prio x, (s.die die).headOf prio = some x → s.headBefore die prio = false →
        (∀ l i, x.lid ≠ 0 → s.launch x.lid = some l → l.id = x.lid → (s.die die).freeSlot = some i →
          s.happens (.shareStart die prio) fun t => (t.die die).cardQ = (s.die die).cardQ.erase x
            ∧ (∃ h, Tbl.find (t.die die).slots i = some h ∧ h.lid = x.lid ∧ h.next = x.c0 ∧ h.last = x.c1
                ∧ h.left = min (x.c1 * l.cluster) l.units - x.c0 * l.cluster)
            ∧ (l.home = die → (t.launch x.lid).map (·.slot) = some (some (die * 64 + i))))
        ∧ (∀ c b, x.lid = 0 → s.card x.ctx x.addr = some c → c.ctx = x.ctx → c.addr = x.addr → s.readVa x.ctx x.addr 64 .load = .ok b →
            2 ≤ c.kind → c.kind ≤ 5 → let on := s.targetDie c
            s.issues on x.ctx = true →
            let isOf (kind : Nat) (e : EngCmd) : Prop :=
              e.card = some x.addr ∧ e.ctx = x.ctx ∧ e.kind = kind ∧ e.descVa = cCode b ∧ e.desc = []
            s.happens (.cardCommandIssue die prio) fun t => (t.card x.ctx x.addr).map (·.stat) = some .running
              ∧ match c.kind with
                | 2 => ∃ core k, dieOfCore core = on ∧ k ∈ (t.core core).copies ∧ k.card = some x.addr ∧ k.descVa = cCode b
                | 3 => ∃ e, (t.die on).xcards = (s.die on).xcards ++ [e] ∧ isOf 5 e
                | 4 => ∃ e, t.queues.nmQ = s.queues.nmQ ++ [e] ∧ isOf (3 + byteAt b 16) e ∧ e.die = byteAt b 17
                | _ => ∃ e, (t.die on).merge = (s.die on).merge ++ [e] ∧ isOf (byteAt b 16) e))
      ∧ (∀ die slot h l c i z, Tbl.find (s.die die).slots slot = some h → s.launch h.lid = some l → l.id = h.lid → l.cluster = 1 →
        h.next < h.last → h.next < l.units → (∀ p, p ∈ s.units → p.2.stat ≠ .saved) → s.launchCancelled l.id = false →
        (l.slot.isSome = true ∨ l.running = true) → s.coopBlocks die l.prio = false → s.bestCore (coresOf die) l = some c → s.loadDict c l = .ok (i, z) →
        s.happens (.clusterPlace die slot) fun t => t.starts c l h.next 0 l.code
          ∧ (Tbl.find (t.die die).slots slot).map (·.next) = some (h.next + 1))
      ∧ (∀ ctx addr c, s.card ctx addr = some c → c.stat = .done → s.lidQuiet c.lid = true →
        s.happens (.cardComplete ctx addr) fun t => t.card ctx addr = none ∧ ∀ a, a ∈ c.succs →
          ∃ e, e ∈ t.homes.flight ∧ e.req = .preds a (s.endDie c) 0xFF ∧ e.ctx = ctx ∧ e.core = noCore + s.endDie c)
      ∧ (∀ g c, s.queues.signals = [g] → s.signalReady g = true → s.granted g.addr 8 = true → Mem.wf s.homes.host = true →
        s.card g.ctx g.card = some c → s.happens .hostSignalPerform fun t => Mem.readN t.homes.host g.addr 8 = toBytes 8 g.val.toNat
          ∧ (g.vec ≠ 0xFFFF → t.hubs.msix = (s.sendMsix g.vec).hubs.msix ∧ t.hubs.msixPend = (s.sendMsix g.vec).hubs.msixPend) ∧ t.queues.signals = []
          ∧ ∃ d, t.card g.ctx g.card = some d ∧ d.stat = .done ∧ d.final = 4)
      ∧ (∀ lid rest, s.queues.coop = none → s.queues.coopQ = lid :: rest → s.queues.gridUse.length < 4 →
        s.happens .coopAdmit fun t => t.queues.coop = some lid ∧ t.queues.coopQ = rest)
      ∧ (∀ lid l, s.queues.coop = some lid → s.launch lid = some l → s.launchCancelled lid = false →
        let r := s.coopReserve l
        let l := { (r.launch lid).getD l with grid := [32, 33, 34, 35], gridBars := [] }
        let us := (r.setLaunch lid l).coopTaken l
        (r.coopReady l = false → s.happens .coopStart fun t => t = r)
          ∧ (∀ z, r.coopReady l = true → us.1.coopAll l us.2 = some (.ok z) →
              s.happens .coopStart fun t => t.queues.coop = none ∧ t.queues.gridUse = z.queues.gridUse ++ [lid] ∧ t.units = z.units
                ∧ t.waves = z.waves))

/-- R74, R75, R181: the command processor selects the next owner of a die that is due, or begins its slice again; a change of owner
whose units and commands have ended gives the die to the next context, with its STACK register and a new slice. -/
def Obligations.DieOwners : Prop :=
  ∀ (die : Nat) (s : State), s.hubs.sched.takeover = none →
    let d := s.die die
    let slice (n : Nat) : Nat := (if (s.ctx n).slice = 0 then 2000 else (s.ctx n).slice) * 1000
    let given (next : Option Nat) (t : State) : Prop := (t.die die).owner = next ∧ (t.die die).change = none
      ∧ ∀ n, next = some n → (t.die die).stkcfg = BitVec.ofNat 64 (s.reg (0x3000 + 8 * n)) ∧ (t.die die).sliceEnd = s.time + slice n
    (d.change = none → s.ownerDue die = true → s.happens (.timeSliceExpiry die) fun t => (t.die die).change = some (s.nextOwner die))
      ∧ (∀ n, d.change = none → s.ownerDue die = false → d.owner = some n → d.sliceEnd ≤ s.time →
          s.happens (.timeSliceExpiry die) fun t => (t.die die).sliceEnd = s.time + slice n ∧ (t.die die).owner = some n)
      ∧ (∀ next, d.change = some next → d.owner = none → s.happens (.ownerChange die) (given next))
      ∧ (∀ next o, d.change = some next → d.owner = some o →
          (∀ p, p ∈ s.units → p.2.crec.ctx = o → dieOfCore p.2.core = die → p.2.stat = .saved) → s.dieCmdsDone die o = true → s.epochHeld die = false →
          (∀ k x, k ∈ coresOf die → x ∈ (s.core k).l1 → x.isDirty = false) → s.happens (.ownerChange die) (given next))

/-! ## Homes (events) -/

/-- R81 to R83, R107, R112, R117, R118, R194, R321, R328, R332, R380, R391, R392, R409: a request leaves its cellar 640 ns after it
entered, or is staged; writes, atomics and alias stores are applied at their homes, and requests for work are handed on; flits leave
the quarantine; staged writes leave with their launch's end; a commit's bytes are written and its locks and token go. -/
def Obligations.HomeEvents : Prop :=
  ∀ (s : State),
    (∀ core k e, let c := s.core core
      c.cellar.find? (fun e => e.id = k) = some e → c.frozen = false → e.t + 640 ≤ s.time →
      (∀ x, x ∈ c.cellar → x.id < k → ∀ q, q ∈ x.req.lines → q ∉ e.req.lines) → (s.die (dieOfCore core)).clk.relock = none →
      (s.homes.flight.filter fun x => x.core = core).length < 512 → s.fifoFull (s.destOf e.req 0xFF) = false →
      (∀ l, e.req.loc = some l → s.wayChanges l = false) →
      let flags := ((s.launch e.lid).map (·.flags)).getD 0
      let off : Prop := ∃ l, e.req.loc = some l ∧ l.tgt ≠ 0
      let sent : CellarEntry := { e with epoch := Tbl.get 0 (s.die (dieOfCore e.core)).clock (dieOfCore e.core) }
      (¬ off → s.happens (.cellarEntryLeave core k) fun t => (∀ x, x ∈ (t.core core).cellar → x.id ≠ k)
          ∧ t.homes.flight = s.homes.flight ++ [sent])
        ∧ (off → cardStage flags = false → s.happens (.cellarEntryLeave core k) fun t => sent ∈ t.homes.flight
            ∧ ∀ l, s.launch e.lid = some l → (t.launch e.lid).map (·.eligible) = some false)
        ∧ (off → cardStage flags = true → (∀ l a, e.req = .atomic l a → a.reg = none) → s.storePages < storeRoom →
            s.happens (.cellarEntryLeave core k) fun t => (e.lid, e) ∈ t.homes.staged ∧ t.homes.flight = s.homes.flight))
      ∧ (∀ k e, s.inFlight k = some e → s.earlier e = false →
        (∀ l b m, e.req = .write l b m → s.homeWaits l b.length = false → s.quiet l → l.ra + b.length ≤ hbmEnd →
          s.happens (.writeApplyAtHome k) fun t => s.wrote t l.ra b m ∧ t.inFlight k = none
            ∧ ∀ x, (∀ i, i < 32 → l.ra ≤ 32 * x + i ∧ 32 * x + i - l.ra < b.length ∧ m.getD (32 * x + i - l.ra) false = true) →
              x ∉ t.homes.poison)
        ∧ (∀ addr dest, e.req = .spawn addr dest → s.happens (.writeApplyAtHome k) fun t =>
            t.queues.subs = s.queues.subs ++ [⟨e.ctx, addr, dest.getD 0xFF, 1, false⟩] ∧ t.inFlight k = none)
        ∧ (∀ b l, e.req = .cont b → s.runningSlot e.ctx (leAt b 28 2) = some l → s.launchCancelled l.id = false →
            s.recWaits e.ctx (leAt b 28 2 / 64) l.prio = false → s.happens (.writeApplyAtHome k) fun t => ∃ c r, dieOfCore c = leAt b 28 2 / 64 ∧ r ∈ (t.core c).uq ∧ r.code = leAt b 0 8
              ∧ r.frame = leAt b 8 8 ∧ r.join = leAt b 16 8 ∧ r.unit = leAt b 24 4 ∧ r.lid = l.id)
        ∧ (∀ l a, e.req = .atomic l a → s.homeWaits l a.n = false → s.quiet l → l.ra + a.n ≤ hbmEnd → s.locPoisoned l 0 a.n = false →
            let old := ofBytes (s.homeBytes l.ra a.n)
            s.happens (.atomicAtHome k) fun t => t.inFlight k = none
              ∧ s.stored t l.ra (if a.cas then (if old = a.cmp then toBytes a.n a.b else []) else toBytes a.n (atomNew a.op a.n old a.b))
              ∧ (s.waits e a = true → ∀ r, a.reg = some r → a.n = 4 ∨ a.n = 8 → ∃ q, q ∈ (t.wx a.wid).returns ∧ q.id = a.ret
                  ∧ ∀ v, v ∈ arriving true r (a.n / 4) a.lane (toBytes a.n old) → v ∈ q.vals))
        ∧ (∀ l mxf es, e.req = .alop l mxf es → s.homeWaits l (4 * es.length) = false → l.tgt = 0 → s.homes.snaps = [] →
            s.memOk = true → (∀ i, i < 4 * es.length → Tbl.find s.homes.l2 ((l.ra + i) / 128) = none) →
            s.happens (.aliasStoreApply k) fun t => ∀ (i : Nat) (x : Word), es[i]? = some x →
              let word (z : State) : Word := BitVec.ofNat 32 (ofBytes (Mem.readN z.homes.dram (l.ra + 4 * i) 4))
              let old := word s
              let most (lt : Bool) : Word := if (lt == decide (l.alop = 3)) then x else old
              word t =
                if l.alop = 2 then (if mxf = 1 then BitVec.ofNat 32 (fAdd old.toNat x.toNat) else old + x)
                else if mxf = 0 then most (old.slt x)
                else if mxf = 1 then BitVec.ofNat 32 (f32Ty.totalMinmax (l.alop = 3) old.toNat x.toNat)
                else most (old.ult x)))
      ∧ (∀ f, s.homes.egress = [f] → f.t + 640 ≤ s.time → s.wayStops f.loc = false → s.wayOf f.loc ≠ .none → f.loc.tgt ≠ 0 →
        f.loc.alop = 0 → s.memOk = true →
        s.happens .egressQuarantineRelease fun t => t.homes.egress = []
          ∧ ∀ (i : Nat) (x : Byte), f.bytes[i]? = some x → t.byteAt { f.loc with ra := f.loc.ra + i } = x)
      ∧ (∀ lid l, s.hubs.sched.takeover = none → s.queues.launches.find? (fun p => p.2.flush) = some (lid, l) → s.launch lid = some l →
        s.happens .stagedEgressFlush fun t => (∀ p, p ∈ t.homes.staged → p.1 ≠ lid)
          ∧ (∀ p, p ∈ s.homes.staged → p.1 = lid → { p.2 with dep := 0 } ∈ t.homes.flight)
          ∧ (l.units ≠ 0 → l.shares = 0 → s.launchCancelled lid = false → (s.card l.ctx l.card).isSome = true →
              ∃ c, t.card l.ctx l.card = some c ∧ c.stat = .done ∧ c.final = 4))
      ∧ (∀ d i v rest, s.hubs.frames = (d, [(i, v)]) :: rest → d < 84 → (s.die d).clk.relock = none → s.happens .releaseFrameReceive fun t =>
          let old := Tbl.get 0 (s.die d).inbox i
          let ahead := (v + 65536 - old) % 65536
          t.hubs.frames = rest ∧ Tbl.get 0 (t.die d).inbox i = if 1 ≤ ahead ∧ ahead ≤ 32767 then v else old)
      ∧ (∀ w e p, s.homes.flight.find? (fun e => match e.req with | .apply p => p.wid = w | _ => false) = some e → e.req = .apply p →
        s.earlier e = false → s.quiet ⟨0, 0, 0, 0⟩ → s.homes.l2.length + p.lines.length < 65536 → (∀ c, c ∈ p.cells → c.1 < hbmEnd ∧ c.1 / 128 ∈ p.lines) → (p.cells.map (·.1)).Nodup →
        (∀ l, l ∈ p.lines → s.homeStops ⟨0, 0, 0, l * 128⟩ = false) →
        s.happens (.txApplyComplete w) fun t => (∀ c, c ∈ p.cells → t.homeByte c.1 = c.2)
          ∧ (∀ a, a ∉ p.cells.map (·.1) → t.homeByte a = s.homeByte a) ∧ (∀ k, k ∈ t.homes.locks → k.wid ≠ applyLock p.id)
          ∧ (∀ x, x ∈ t.homes.flight → x.id ≠ e.id)
          ∧ ∀ k, p.serial = some k → (s.ctx e.ctx).token = some k → (t.ctx e.ctx).token = none)
      ∧ (∀ ctx k rest, (s.ctx ctx).token = none → (s.ctx ctx).fifo = k :: rest →
        s.happens (.serialTokenPass ctx) fun t => (t.ctx ctx).token = some k ∧ (t.ctx ctx).fifo = rest
          ∧ ((∃ e, e ∈ (s.wave (k / 32)).frontier ∧ inMask e.mask (k % 32) = true ∧ e.stat = .serial) →
              ∃ e, e ∈ (t.wave (k / 32)).frontier ∧ inMask e.mask (k % 32) = true ∧ e.stat = .ready))

/-- R86 to R88, R90, R101 to R104, R409, R411 to R413, R431: a walk of the page table gives a translation or the cause of a fault; a
page that a peer counts more often moves to it; the windows of migration end; dirty units of compressed frames are written back or
pinned, and a write that waits too long for a line stops its context; the patrol scrub reports what it finds; a protected page is
copied. -/
def Obligations.MemoryUpkeep : Prop :=
  ∀ (s : State),
    (∀ die k w, (s.die die).walks.find? (fun w => w.id = k) = some w → w.level = 3 → s.walkHeld w.page 3 w.table = false →
      let word (a : Nat) : Dword := BitVec.ofNat 64 (ofBytes (s.homeBytes a 8))
      let at_ (level t : Nat) : Nat := t + 8 * (w.page / 2 ^ (10 * level) % 1024)
      let goes (a next : Nat) : Prop := a < keptFrom ∧ (word a).getLsbD 0 = true ∧ (word a).getLsbD 1 = false
        ∧ next = fieldN (word a) 13 39 * 8192
      ((word (at_ 3 w.table)).getLsbD 0 = false → at_ 3 w.table < keptFrom → s.happens (.pageWalkComplete die k) fun t =>
          (∀ x, x ∈ (t.die die).walks → x.id ≠ k) ∧ ⟨w.asid, w.page, 1, s.nextId⟩ ∈ (t.die die).neg)
        ∧ (∀ t2 t1 t0, goes (at_ 3 w.table) t2 → goes (at_ 2 t2) t1 → goes (at_ 1 t1) t0 → at_ 0 t0 < keptFrom →
            let x := word (at_ 0 t0)
            x.getLsbD 0 = true → x.getLsbD 1 = true → leafReserved 0 x = false → s.happens (.pageWalkComplete die k) fun t =>
              (∀ x, x ∈ (t.die die).walks → x.id ≠ k) ∧ ⟨w.asid, w.page, 1, x, s.nextId⟩ ∈ (t.die die).tlb
                ∧ ⟨w.asid, w.page, 1, x, s.nextId⟩ ∈ (t.core w.core).tlb))
      ∧ (∀ ctx page peer ok at_, (s.ctx ctx).on = true → s.entryOf page 3 (s.ctx ctx).ptroot = some at_ → at_ < hbmEnd →
        s.memOk = true → s.reg 0x0058 = 0 → peer ≠ s.reg 0x0010 →
        let x : Dword := BitVec.ofNat 64 (ofBytes (s.homeBytes at_ 8))
        let frame := leafPa x / 65536
        let most := if s.reg 0x0048 = 0 then 4096 else s.reg 0x0048
        x.getLsbD 0 = true → x.getLsbD 1 = true → leafReserved 0 x = false → leafMigr x = true → leafTgt x = 0 →
        (∀ k, k ∈ s.homes.locks → k.line / 512 ≠ frame) → let key := ctx * 2 ^ 48 + page
        Tbl.get 0 s.hubs.mig.moves key < 3 → most < s.migCount frame peer → s.migCount frame (s.reg 0x0010) < s.migCount frame peer →
        s.happens (.migrationMove ctx page peer ok) fun t => Tbl.get 0 t.hubs.mig.moves key = Tbl.get 0 s.hubs.mig.moves key + 1
          ∧ (ok = false → t.homes = s.homes)
          ∧ (ok = true → ∃ n : Nat,
              (∀ i, i < 65536 → t.byteAt ⟨1, peer, 0, n * 65536 + i⟩ = s.homeByte (frame * 65536 + i))
                ∧ (frame, peer, n) ∈ t.hubs.mig.fwd
                ∧ ∀ c e, e ∈ (t.core c).tlb → e.covers (s.ctx ctx).asid page = false))
      ∧ (s.hubs.mig.window < s.time / s.migWindow → s.happens .migrationWindowEnd fun t =>
          t.hubs.mig.window = s.time / s.migWindow ∧ t.hubs.mig.counts = [] ∧ t.hubs.mig.moves = [] ∧ t.homes = s.homes)
      ∧ (∀ frame unit, let k := frame * 256 + unit
        let a := frameBase + k * 256
        unit < 256 → s.inFrames a = true → (∃ i, i < 256 ∧ s.inL2 (a + i) = some true) →
        let need := (compressUnit (s.homeBytes a 256)).2.1
        ((s.takeChunks need).isSome = true → s.happens (.compressWriteback frame unit) fun t =>
            (∀ i, i < 256 → t.inL2 (a + i) ≠ some true) ∧ ∀ p, p ∈ t.hubs.comp.pinned → p.1 ≠ k)
          ∧ (s.takeChunks need = none → s.pinsFull (homeSlice a) = false → s.happens (.compressWriteback frame unit) fun t =>
              ∃ p, p ∈ t.hubs.comp.pinned ∧ p.1 = k))
      ∧ (∀ k u rest, s.hubs.comp.pinned = (k, u) :: rest → s.reg 0x0038 / 64 < s.freeChunks →
        (s.takeChunks (compressUnit (s.homeBytes (frameBase + k * 256) 256)).2.1).isSome = true →
        s.happens .poolRefillUnpin fun t => ∀ p, p ∈ t.hubs.comp.pinned → p.1 ≠ k)
      ∧ (∀ id u e, s.hubs.comp.stalled.find? (fun p => p.2 + 10000000 ≤ s.time) = some (id, u) → s.inFlight id = some e →
        (s.ctx e.ctx).stopped = false → s.happens .compressStallExpiry fun t => (t.ctx e.ctx).stopped = true
          ∧ (∀ p, p ∈ t.hubs.comp.stalled → p.1 ≠ id)
          ∧ ∃ r, r ∈ t.hubs.errQ ∧ r.ctx = some e.ctx ∧ (r.bytes.getD 0 0).toNat = 8 ∧ (r.bytes.getD 1 0).toNat = 3
              ∧ (r.bytes.getD 40 0).toNat = 3)
      ∧ (∀ sector wrote, sector * 32 < hbmEnd →
        s.happens (.patrolScrubRead sector 1 wrote) (fun t => s.posts t none 5 0 ∧ t.homes = s.homes)
          ∧ s.happens (.patrolScrubRead sector 2 wrote) fun t => s.posts t none 5 2 ∧ sector ∈ t.homes.poison
              ∧ ∀ a, t.homeByte a = s.homeByte a)
      ∧ (∀ p e l, s.homes.snaps = [p] → p.copy = none → e ∈ s.homes.flight → e.req.loc = some l → l.tgt = 0 → l.ra / 65536 = p.page →
        s.happens (.snapshotPageCopy p.page) fun t =>
          ∃ bad, t.homes.snaps = [{ p with copy := some (s.homeBytes (p.page * 65536) 65536, bad) }])

/-! ## Errors, resets, the scheduler, clocks and links (events) -/

/-- R366, R371, R376, R382 to R390, R393, R394, R433: a strike at a core discards what it holds and takes its resident units, and the core is
scrubbed; a slice's quadrant is scrubbed; a router's or a hub's strike is corrected, restarts a core, hands the scheduler over, or is
fatal; a checker's mismatch queues an IDEMP unit again; a replay copies the snapshot back and posts its card again, as its queue has
room. -/
def Obligations.StrikesAndReplay : Prop :=
  ∀ (s : State), (∀ lid l, s.launch lid = some l → l.id = lid) →
    (∀ core est det, core < 1344 → s.happens (.strikeReportCore core est det) fun t =>
      let c := t.core core
      c.frozen = true ∧ c.scrub = some (s.time + 20000) ∧ c.cellar = [] ∧ c.l1 = []
        ∧ (∀ uid u, s.unit uid = some u → u.core = core → u.stat = .resident → t.unit uid = none)
        ∧ ∃ r, r ∈ t.hubs.errQ ∧ r.ctx = none ∧ (r.bytes.getD 0 0).toNat = 1 ∧ (r.bytes.getD 12 0).toNat = core / 16
            ∧ (r.bytes.getD 14 0).toNat = core % 16)
      ∧ (∀ core ok, (s.core core).scrub.isSome = true → s.happens (.coreScrubEnd core ok) fun t =>
          let c := t.core core
          c.scrub = none ∧ c.frozen = false ∧ c.banks = [] ∧ c.retired = ((s.core core).retired || !ok))
      ∧ (∀ die q est det, die < 84 → q < 8 → s.happens (.strikeReportSlice die q est det) fun t =>
          Tbl.find (t.die die).scrubs q = some (s.time + 50000, s.time, est, det) ∧ t.homes = s.homes)
      ∧ (∀ die q scrub line, Tbl.find (s.die die).scrubs q = some scrub →
          s.happens (.sliceScrubEnd die q []) (fun t => Tbl.find (t.die die).scrubs q = none ∧ t.homes = s.homes
              ∧ ∃ n, s.posts t none 1 n)
            ∧ (homeSlice (line * 128) / 2 = die → lineQuadrant (line * 128) = q → (Tbl.find s.homes.l2 line).isSome = true →
                ((∀ p, p ∈ Tbl.get [] s.homes.l2 line → p.2.2 = false) → s.happens (.sliceScrubEnd die q [line]) fun t =>
                    ∀ i, i < 128 → t.inL2 (line * 128 + i) = none)
                  ∧ (∀ i, i < 128 → s.inL2 (line * 128 + i) = some true → s.happens (.sliceScrubEnd die q [line]) fun t =>
                      (line * 128 + i) / 32 ∈ t.homes.poison)))
      ∧ (∀ die router est det, s.happens (.strikeReportRouter die router est det true) (fun t => (∃ n, s.posts t none 1 n) ∧ t.homes = s.homes)
          ∧ (s.hubs.fatal = none → s.happens (.strikeReportRouter die router est det false) fun t => s.isFatal t))
      ∧ (∀ hub index est det, hub < 2 →
          (index = 0 → hub = s.hubs.sched.hub → s.hubs.sched.takeover = none → s.hubs.sched.standby = true →
            s.happens (.strikeReportHub hub 8 index est det) fun t => t.hubs.sched.takeover = some s.time)
          ∧ (¬ (index = 0 ∧ hub = s.hubs.sched.hub) → s.happens (.strikeReportHub hub 8 index est det) fun t =>
              t.hubs.sched.restarting = s.hubs.sched.restarting ++ [(hub, index, s.time + 5000000)])
          ∧ s.happens (.strikeReportHub hub 6 index est det) (fun t => (∃ n, s.posts t none 1 n) ∧ t.homes = s.homes)
          ∧ (s.hubs.fatal = none → s.happens (.strikeReportHub hub 9 index est det) fun t => s.isFatal t))
      ∧ (∀ core uid u checker pipe quad op, s.unit uid = some u → u.core = core → u.stat ≠ .saved → u.crec.idemp = true → pipe ≠ 6 →
        (∀ l, s.launch u.crec.lid = some l → cardCoop l.flags = false) → (s.core core).chkTimes = [] →
        s.happens (.pipeCheckMismatch core uid checker pipe quad op) fun t => t.unit uid = none
          ∧ (∃ r, (if s.launchCancelled u.crec.lid = false ∧ s.recWaits u.crec.ctx (dieOfCore core) u.crec.prio = false then
                ∃ k, dieOfCore k = dieOfCore core ∧ r ∈ (t.core k).uq else r ∈ t.queues.held)
              ∧ r.code = u.crec.code ∧ r.frame = u.crec.frame ∧ r.unit = u.crec.unit ∧ r.lid = u.crec.lid)
          ∧ ∃ r, r ∈ t.hubs.errQ ∧ r.ctx = some u.crec.ctx ∧ (r.bytes.getD 0 0).toNat = 2 ∧ (r.bytes.getD 2 0).toNat = 0x0B)
      ∧ (∀ lid l, s.queues.launches.find? (fun p => p.2.replaying.isSome && s.replayReady p.1) = some (lid, l) → l.wordAt = 0 →
        (s.card l.ctx l.card = none → ∀ p bytes bad, (s.homes.snaps.filter fun p => p.lid = lid) = [p] → p.copy = some (bytes, bad) →
            p.page * 65536 < hbmEnd → s.happens .launchReplay fun t =>
              (t.launch lid).map (fun l => (l.replaying, l.replays, l.left)) = some (none, l.replays + 1, l.units)
                ∧ ∀ (i : Nat) (x : Byte), bytes[i]? = some x → t.homeByte (p.page * 65536 + i) = x)
          ∧ (∀ c, s.card l.ctx l.card = some c → s.cardCancelled c = false →
              (s.cardWaits c.ctx c.prio (if c.pkg then none else some c.home) = false → s.happens .launchReplay fun t =>
                  (t.card l.ctx l.card).map (·.stat) = some .posted)
                ∧ (s.cardWaits c.ctx c.prio (if c.pkg then none else some c.home) = true → s.happens .launchReplay fun t =>
                    (t.card l.ctx l.card).map (·.again) = some true)))

/-- R15, R20, R22, R218, R220, R371, R390, R436 to R438, R441: a reset leaves nothing but what stands outside the module, and a signed
image runs and is measured; errors that nothing contains are fatal and end in a reset after 10 ms; 100 ms without a heartbeat, or
a strike, hand the scheduler to the standby core. -/
def Obligations.ResetsAndTakeover : Prop :=
  ∀ (s : State),
    (∀ image sig svn, let good : Prop := signedByVendor image sig = true ∧ Config.rollback.toNat ≤ svn
      s.happens (.moduleReset image sig svn) fun t => (good → t.reg 0x0008 = 1 ∧ t.hubs.meas = sha512 image ∧ t.hubs.svn = svn)
        ∧ (¬ good → t.reg 0x0008 % 16 = 2) ∧ t.time = 0 ∧ t.waves = [] ∧ t.units = [] ∧ t.homes.dram = []
        ∧ t.homes.host = s.homes.host ∧ t.homes.peer = s.homes.peer)
      ∧ (s.hubs.fatal = none →
          (∀ cls detail, 1 ≤ cls → cls ≤ 15 → s.happens (.deviceFatal cls detail) fun t => s.isFatal t)
            ∧ (∀ die, s.happens (.ucieUnrecoverable die) fun t => s.isFatal t)
            ∧ ∀ die at_, (s.die die).clk.hotSince = some at_ → at_ + 100000000 ≤ s.time →
                s.happens (.thermalOverstayExpiry die) fun t => s.isFatal t)
      ∧ (∀ at_, s.hubs.fatal = some at_ → at_ ≤ s.time → s.happens .fatalGraceExpiry fun t =>
          t.hubs.fatal = none ∧ t.time = 0 ∧ t.waves = [] ∧ t.units = [] ∧ t.homes.dram = [] ∧ t.homes.host = s.homes.host
            ∧ ∀ b, s.hubs.boot = some b → t.reg 0x0008 % 16 =
                if signedByVendor b.body b.sig = true ∧ Config.rollback.toNat ≤ b.svn then 1 else 2)
      ∧ s.happens .timerFailover (fun t => t.hubs.timerHub = 1)
      ∧ (s.hubs.sched.takeover = none →
          s.happens .heartbeatWrite (fun t => t.hubs.sched.heartbeat = s.time)
            ∧ (s.hubs.sched.heartbeat + 100000000 ≤ s.time → s.hubs.sched.standby = true → s.happens .heartbeatTimeout fun t =>
                t.hubs.sched.takeover = some s.time ∧ s.posts t none 12 2)
            ∧ (s.hubs.sched.heartbeat + 100000000 ≤ s.time → s.hubs.sched.standby = false → s.hubs.fatal = none →
                s.happens .heartbeatTimeout fun t => s.isFatal t))
      ∧ (∀ at_, s.hubs.sched.takeover = some at_ → s.happens .schedulerTakeover fun t => t.hubs.sched.hub = 1 - s.hubs.sched.hub
          ∧ t.hubs.sched.standby = false ∧ t.hubs.sched.takeover = none ∧ t.hubs.sched.heartbeat = s.time
          ∧ ∃ r, r ∈ t.hubs.errQ ∧ r.ctx = none ∧ (r.bytes.getD 0 0).toNat = 12 ∧ (r.bytes.getD 40 0).toNat = 1)
      ∧ (∀ hub core at_ rest, s.hubs.sched.restarting = (hub, core, at_) :: rest → s.happens .cpCoreRestart fun t =>
          t.hubs.sched.restarting = rest ∧ s.posts t none 12 4
            ∧ (hub = 1 → core = 0 → s.hubs.sched.hub = 0 → t.hubs.sched.standby = true))

/-- R14 to R18, R21, R22, R89, R208 to R211, R222, R439, R440: operating-point requests are clipped, taken or held, and a relock ends
with the counters rescaled; a hot die is stepped down; refusals are counted and posted; a link port accepts a flit once, asks again
for one that fails, recovers, is trained, stops and goes per channel; a peer's write is applied at its home, or waits for it. -/
def Obligations.ClocksAndLinks : Prop :=
  ∀ (s : State),
    (∀ die index, let c := (s.die die).clk
      let top := (Config.ceiling die).val
      let i := min index top
      s.happens (.stepRequest die index) (fun t => let d := (t.die die).clk
          (i = c.op → d = c) ∧ (i ≠ c.op → c.relock.isSome = true → d = { c with held := some i })
            ∧ (i ≠ c.op → c.relock = none → d.op = i ∧ d.relock = some (s.time + 1500, c.op, c.scycle s.time) ∧ d.held = none)
            ∧ (top < index → s.posts t none 13 0))
        ∧ (c.relock = none → s.happens (.thermalLimitReached die) fun t => (t.die die).clk.op = 0 ∧ (t.die die).clk.hotSince = some s.time
            ∧ s.posts t none 13 0)
        ∧ (∀ e old scy, c.relock = some (e, old, scy) → e ≤ s.time → s.happens (.relockEnd die) fun t => let d := (t.die die).clk
            (c.held = none → d.relock = none ∧ d.op = c.op
                ∧ d.scycle s.time = scy * (c.op + 2) / (old + 2) + 450 * (c.op + 2) ∧ d.cycle s.time = c.cycBase)
              ∧ ∀ i, c.held = some i → i ≠ c.op → d.op = i ∧ d.relock.isSome = true))
      ∧ (∀ row die, row < 4 → s.hubs.limit.length = 4 → s.happens (.limitRefusal row die) fun t =>
          t.hubs.limit.getD row 0 = min 0xFFFF (s.hubs.limit.getD row 0 + 1) ∧ s.posts t none 13 row)
      ∧ (∀ port vc, port < 16 → vc < 4 →
          s.happens (.linkFlowStop port vc) (fun t => vc ∈ (t.port port).stopped)
            ∧ s.happens (.linkFlowGo port vc) fun t => vc ∉ (t.port port).stopped)
      ∧ (∀ port, port < 16 → let p := s.port port
          (∀ peer cmp, p.state < 2 → peer < 1024 → s.happens (.linkTrainingComplete port peer cmp) fun t =>
              (t.port port).state = 2 ∧ (t.port port).peer = peer ∧ (t.port port).cmpok = cmp)
            ∧ (p.state = 2 →
                ∀ flit : LinkFlit, let good : Prop := flit.bytes.length = 256 ∧ leAt flit.bytes 252 4 = crc32c (flit.bytes.take 252)
                  (good → s.happens (.linkFlitReceive port p.rxSeq flit) fun t =>
                      (t.port port).rxSeq = p.rxSeq + 1 ∧ (t.port port).state = 2 ∧ (flit.frame = true →
                        Tbl.get 0 t.hubs.portClock (98 + port) = (Tbl.get 0 s.hubs.portClock (98 + port) + 1) % 65536))
                  ∧ (good → ∀ seq, seq ≠ p.rxSeq → s.happens (.linkFlitReceive port seq flit) fun t => t = s)
                  ∧ (¬ good → p.fec = [] → p.resends < 3 → s.happens (.linkFlitReceive port p.rxSeq flit) fun t =>
                      (t.port port).rxSeq = p.rxSeq ∧ (t.port port).resends = p.resends + 1 ∧ (t.port port).state = 2)
                  ∧ (¬ good → p.resends = 3 → s.happens (.linkFlitReceive port p.rxSeq flit) fun t => (t.port port).state = 3
                      ∧ (t.port port).recov = min 0xFFFF (p.recov + 1) ∧ s.posts t none 7 1))
            ∧ (p.state = 3 → s.happens (.linkRetrainComplete port) (fun t => (t.port port).state = 2 ∧ s.posts t none 7 2)
                ∧ (p.since + 2000000000 ≤ s.time → s.happens (.linkRetrainTimeout port) fun t => (t.port port).state = 0 ∧ s.posts t none 7 3)))
      ∧ (∀ peer addr data, let l : Loc := ⟨0, 0, 0, addr⟩
          (∀ p, p ∈ s.hubs.mig.fwd → p.1 ≠ addr / 65536) → s.quiet l → s.hubs.fatal = none → s.inRecovery = false →
          ∀ i, s.portFrom peer addr = some i → s.peerCount i = 0 →
            (s.homeWaits l (max 1 data.length) = false → s.happens (.peerRequestArrive peer addr 1 data) fun t => s.stored t addr data)
              ∧ (s.homeWaits l (max 1 data.length) = true → s.happens (.peerRequestArrive peer addr 1 data) fun t =>
                  t.hubs.peerQ = s.hubs.peerQ ++ [⟨i, peer, addr, 1, data⟩] ∧ t.homes = s.homes))

/-! ## The host, the logs and the mailbox (events) -/

/-- R203 to R207, R222, R368 to R371, R405, R410, R442: BAR2 writes and reads pass the homes; a write to a module register, to
MBGO, MBSTAT and INJCTL; records are written at the slot of their log that WRIDX names, and a full log takes none. -/
def Obligations.HostAccessesAndLogs : Prop :=
  ∀ (s : State),
    (∀ addr data, let l : Loc := ⟨0, 0, 0, addr⟩
      s.quiet l → data ≠ [] → addr + data.length ≤ hbmEnd → s.homeWaits l data.length = false → s.inRecovery = false →
      (s.hubs.fatal = none → s.happens (.bar2Access true addr data) fun t => s.stored t addr data)
        ∧ s.happens (.bar2Access false addr data) fun t => t.homes = s.homes
            ∧ (s.poisoned addr data.length = true → s.posts t none 6 3) ∧ (s.poisoned addr data.length = false → t = s))
      ∧ (∀ off val, off % 8 = 0 → s.inRecovery = false →
          (0x18 ≤ off → off ≤ 0x58 → s.anyOn = false → s.happens (.bar0RegisterWrite off val) fun t => t.reg off = val.toNat)
            ∧ (0x10 ≤ off → off ≤ 0x58 → s.anyOn = true → s.happens (.bar0RegisterWrite off val) fun t => t = s)
            ∧ (0x80 ≤ off → off < 0x100 → s.happens (.bar0RegisterWrite off val) fun t => t.reg off = val.toNat / 4096 * 4096)
            ∧ (0x1000 ≤ off → off < 0x1040 → s.happens (.bar0RegisterWrite off val) fun t => t.reg off = val.toNat)
            ∧ (off < 0x10 → s.happens (.bar0RegisterWrite off val) fun t => t = s))
      ∧ (∀ val, s.reg 0x0008 % 16 = 1 →
          (s.hubs.mbox.busy = true → s.happens (.bar0RegisterWrite 0x1040 val) fun t => t.reg 0x1048 / 2 % 2 = 1 ∧ t.hubs.mbox = s.hubs.mbox)
            ∧ (s.hubs.mbox.busy = false → val.getLsbD 0 = true → let op := s.reg 0x1000 % 256
                (1 ≤ op → op ≤ 6 → s.happens (.bar0RegisterWrite 0x1040 val) fun t => t.hubs.mbox.busy = true ∧ t.hubs.mbox.op = op
                    ∧ t.reg 0x1048 % 2 = 1 ∧ ∀ i, i < 8 → leAt t.hubs.mbox.args (8 * i) 8 = s.reg (0x1000 + 8 * i))
                  ∧ (op = 0 ∨ 6 < op → s.happens (.bar0RegisterWrite 0x1040 val) fun t => t.mailEnds 1 0)))
      ∧ s.happens (.mbstatWrite 0) (fun t => t.reg 0x1048 / 2 % 2 = 0 ∧ t.reg 0x1048 % 2 = s.reg 0x1048 % 2
          ∧ t.reg 0x1048 / 4 = s.reg 0x1048 / 4)
      ∧ (∀ val, val ≠ 0 → s.happens (.mbstatWrite val) fun t => t = s)
      ∧ (∀ val : Dword, let x := val.toNat
          let kind := x / 16 % 16
          let bad : Prop := kind = 0 ∨ 7 ≤ kind ∨ x / 4 % 4 ≠ 0 ∨ x / 2 ^ 16 ≠ 0
          (bad → s.happens (.injctlWrite val) fun t => t = s)
            ∧ (¬ bad → s.happens (.injctlWrite val) fun t => t.reg 0x0F08 % 2 = x % 2 ∧ t.reg 0x0F08 / 16 % 16 = kind
                ∧ t.reg 0x0F08 / 256 % 256 = x / 256 % 256 ∧ (x % 2 = 1 → t.reg 0x0F08 / 2 % 2 = 0)))
      ∧ (∀ e rest, s.hubs.sched.takeover = none → s.hubs.errQ = e :: rest →
          let g := s.errLog e.ctx
          let n := s.logCount g
          let read := leAt (s.homeBytes (g.base + 4) 4) 0 4
          let used := g.span read (s.wrIdx g)
          s.homes.l2.length + 8 < 65536 → g.base + 64 + 64 * g.slots ≤ hbmEnd → read < 2 * g.slots → g.span (s.rdKept g) read ≤ g.span (s.rdKept g) (s.wrIdx g) →
          (used = g.slots → s.happens .errorRecordPost fun t => t.hubs.errQ = rest ∧ t.logCount g = n ∧ t.hubs.msix = s.hubs.msix ∧ t.hubs.msixPend = s.hubs.msixPend)
            ∧ (used ≠ g.slots → s.happens .errorRecordPost fun t => t.hubs.errQ = rest ∧ t.logCount g = n + 1
                ∧ t.hubs.msix = (s.sendMsix g.vec).hubs.msix ∧ t.hubs.msixPend = (s.sendMsix g.vec).hubs.msixPend
                ∧ t.homeBytes (g.base + 64 + 64 * (n % g.slots)) 64 = sealRecord e.bytes n
                ∧ leAt (t.homeBytes g.base 4) 0 4 = (n + 1) % (2 * g.slots)))
      ∧ (∀ f, s.hubs.sched.takeover = none → s.hubs.faultQ = [f] → (f.bytes.getD 11 0).toNat % 64 = 1 → f.bytes.length = 32 →
          let g := s.faultLog f.ctx
          let n := s.logCount g
          let read := leAt (s.homeBytes (g.base + 4) 4) 0 4
          s.homes.l2.length + 8 < 65536 → g.base + 64 + 32 * g.slots ≤ hbmEnd → read < 2 * g.slots → g.span (s.rdKept g) read ≤ g.span (s.rdKept g) (s.wrIdx g) →
          (g.span read (s.wrIdx g) < g.slots → s.happens .faultRecordPost fun t => t.hubs.faultQ = [] ∧ t.logCount g = n + 1
              ∧ t.homeBytes (g.base + 64 + 32 * (n % g.slots)) 32 = f.bytes
              ∧ t.hubs.msix = (s.sendMsix g.vec).hubs.msix ∧ t.hubs.msixPend = (s.sendMsix g.vec).hubs.msixPend)
            ∧ (g.slots ≤ g.span read (s.wrIdx g) → s.happens .faultRecordPost fun t => t = s))

/-- R207, R212 to R221, R401, R418, R449: CTXON admits a context as its descriptor says or names the field it refuses; CTXOFF drops one
when nothing of it is left; TLBINV clears translations and lets faulting lanes go on; FLASHXFER and CCILOAD check what they are given,
take what the flash brings, and end; ATTEST writes the report of Table 10.8. -/
def Obligations.MailboxOperations : Prop :=
  ∀ (s : State),
    (s.mboxRuns 1 = true → let n := s.arg 8 2
      let b := s.homeBytes (s.reg 0x0018 + 64 * n) 64
      (64 ≤ n → s.happens .ctxon fun t => t.mailEnds 2 0)
        ∧ (n < 64 → (s.ctx n).on = true → s.happens .ctxon fun t => t.mailEnds 3 1)
        ∧ (n < 64 → (s.ctx n).on = false → ∀ o, badField b = some o → s.happens .ctxon fun t => t.mailEnds 2 o ∧ (t.ctx n).on = false)
        ∧ (n < 64 → (s.ctx n).on = false → badField b = none → s.happens .ctxon fun t => t.mailEnds 0 0
            ∧ let c := t.ctx n
              c.on = true ∧ c.ptroot = leAt b 0 8 ∧ c.asid = leAt b 8 2 ∧ c.cprio = (b.getD 10 0).toNat ∧ c.dies = leAt b 16 16
                ∧ c.ring = leAt b 32 8 ∧ c.ringlog = (b.getD 40 0).toNat ∧ c.handler = leAt b 48 8 ∧ c.spill = leAt b 56 8
                ∧ c.head = 0 ∧ c.stopped = false))
      ∧ (s.mboxRuns 2 = true → let n := s.arg 8 2
        (n < 64 → (s.ctx n).on = false → s.happens .ctxoff fun t => t.mailEnds 3 1)
          ∧ (n < 64 → (s.ctx n).on = true → ((s.cancelJobs n).endFaultWaits n).ctxQuiet n = true → s.happens .ctxoff fun t =>
              t.mailEnds 0 0 ∧ (t.ctx n).on = false ∧ ∀ d m, m ∈ (t.die d).loft → m.ctx ≠ n))
      ∧ (s.mboxRuns 3 = true → s.arg 24 8 = 0 → let asid := s.arg 8 2
        let clear (t : State) : Prop := (∀ c e, e ∈ (t.core c).tlb → e.asid ≠ asid) ∧ (∀ d e, e ∈ (t.die d).tlb → e.asid ≠ asid)
          ∧ ∀ d e, e ∈ (t.die d).neg → e.asid ≠ asid
        (s.hubs.mbox.stage = 0 → s.happens .tlbinv clear)
          ∧ (s.hubs.mbox.stage = 2 → s.unperformed asid (s.arg 16 8) 0 s.hubs.mbox.n = true → s.happens .tlbinv fun t => t = s)
          ∧ (s.hubs.mbox.stage = 2 → s.unperformed asid (s.arg 16 8) 0 s.hubs.mbox.n = false → s.happens .tlbinv fun t =>
              t.mailEnds 0 0 ∧ clear t ∧ ∀ n w e, n < 64 → (s.ctx n).on = true → (s.ctx n).asid = asid → w ∈ s.ctxWaves n →
                e ∈ (t.wave w).frontier → e.stat ≠ .fault))
      ∧ (s.mboxRuns 4 = true → let list := s.arg 8 8
        let count := s.arg 16 2
        let bad : Prop := count = 0 ∨ list % 32 ≠ 0 ∨ hbmEnd < list + 32 * count
        (s.hubs.mbox.stage = 0 → bad → s.happens .flashxfer fun t => t.mailEnds 2 0)
          ∧ (s.hubs.mbox.stage = 0 → ¬ bad → s.happens .flashxfer fun t => t.hubs.mbox.busy = true ∧ t.hubs.mbox.stage = 1
              ∧ t.hubs.flash.list = list ∧ t.hubs.flash.count = count)
          ∧ (s.hubs.mbox.stage ≠ 0 → s.hubs.flash.issued = s.hubs.flash.count → s.hubs.flash.out = [] → s.hubs.flash.bad < 2 ^ 32 →
              s.happens .flashxfer fun t => t.mailEnds 0 s.hubs.flash.bad))
      ∧ (s.hubs.mbox.busy = true → s.hubs.mbox.op = 4 → ∀ k status data, k ∈ s.hubs.flash.out → status < 2 ^ 15 →
        let a := s.hubs.flash.list + 32 * k
        let b := s.homeBytes a 32
        let dst := leAt b 24 8
        let n := leAt b 16 4 * s.blockBytes b
        a + 4 ≤ hbmEnd → s.happens (.flashEntryComplete k status data) fun t => k ∉ t.hubs.flash.out
          ∧ leAt (t.homeBytes (a + 2) 2) 0 2 = (if status = 0 then 0 else 0x100 + status)
          ∧ (b.getD 0 0 = 0 → status = 0 → data.length = n → dst < hbmEnd → s.homes.l2.length + n / 128 + 8 < 65536 → a + 4 ≤ dst ∨ dst + n ≤ a + 2 →
              ∀ i x, data[i]? = some x → t.homeByte (dst + i) = x))
      ∧ (s.mboxRuns 5 = true → let d := s.cciDesc
        let keys := leAt d 40 2
        let bad : Prop := keys = 0 ∨ 256 < keys ∨ leAt d 32 8 % 8 ≠ 0 ∨ leAt d 42 22 ≠ 0
        (s.hubs.mbox.stage = 0 → bad → s.happens .cciload fun t => t.mailEnds 2 0)
          ∧ (s.hubs.mbox.stage = 0 → ¬ bad → s.happens .cciload fun t => t.hubs.flash.cci = 1 ∧ t.hubs.mbox.busy = true)
          ∧ (s.hubs.mbox.stage ≠ 0 → s.hubs.flash.cci = 3 → s.hubs.flash.out = [] → s.hubs.flash.bad = 0 → s.hubs.flash.failed = [] →
              s.happens .cciload fun t => t.mailEnds 0 0)
          ∧ (s.hubs.flash.cci = 1 → ∀ seg data,
              s.happens (.cciSegmentLoad seg false data) (fun t => t.mailEnds 3 5)
                ∧ (data.take 8 ≠ cciMagic → s.happens (.cciSegmentLoad seg true data) fun t => t.mailEnds 3 1))
          ∧ (s.hubs.flash.cci = 2 → ∀ seg data,
              s.happens (.cciSegmentLoad seg false data) (fun t => t.mailEnds 3 5)
                ∧ (∀ r, cciCheck data (s.cciKeys d) = some r → s.happens (.cciSegmentLoad seg true data) fun t => t.mailEnds 3 r)
                ∧ (cciCheck data (s.cciKeys d) = none → leAt d 16 8 < hbmEnd → s.happens (.cciSegmentLoad seg true data) fun t =>
                    t.hubs.flash.cci = 3 ∧ t.hubs.flash.head = data ∧ t.hubs.flash.out = List.range (leAt data 92 4)
                      ∧ ∀ i x, data[i]? = some x → t.homeByte (leAt d 16 8 + i) = x))
          ∧ (s.hubs.flash.cci = 3 → ∀ seg data, seg ∈ s.hubs.flash.out →
              let h := s.hubs.flash.head
              let at_ := leAt d 16 8 + leAt h 128 8 + seg * 4194304
              let map := leAt d 24 8 + seg / 8
              let good : Prop := data.length = segLen h seg ∧ sha512 data = segDigest h seg
              s.homes.l2.length + 32784 < 65536 → at_ < hbmEnd → map < hbmEnd → map < at_ ∨ at_ + segLen h seg ≤ map →
              s.happens (.cciSegmentLoad seg true data) fun t => seg ∉ t.hubs.flash.out
                ∧ (good → t.hubs.flash.failed = s.hubs.flash.failed ∧ (t.homeByte map).getLsbD (seg % 8) = true
                    ∧ ∀ i x, data[i]? = some x → t.homeByte (at_ + i) = x)
                ∧ (¬ good → t.hubs.flash.failed = s.hubs.flash.failed ++ [seg] ∧ ∀ i, i < segLen h seg → t.homeByte (at_ + i) = 0)))
      ∧ (s.mboxRuns 6 = true → let a := s.arg 8 8
        (hbmEnd < a + 192 → s.happens .attest fun t => t.mailEnds 2 0)
          ∧ (a + 192 ≤ hbmEnd → s.happens .attest fun t => t.mailEnds 0 192 ∧ t.homeBytes a 4 = [0x4B, 0x46, 0x41, 0x31]
              ∧ leAt (t.homeBytes (a + 4) 4) 0 4 = 1 ∧ (s.hubs.meas.length = 64 → t.homeBytes (a + 8) 64 = s.hubs.meas)
              ∧ leAt (t.homeBytes (a + 80) 4) 0 4 = s.hubs.svn % 2 ^ 32 ∧ leAt (t.homeBytes (a + 120) 8) 0 8 = s.time % 2 ^ 64))

/-! ## Frames, the step, encodings, invariants -/

/-- What the instructions leave as it was. Those that change registers alone: every register, predicate, counter and full bit but
their destinations in the lanes they act in, every special register, every other wave, and every byte of memory. The memory accesses
of Table 14.1 but the atomics: every register value and predicate, the empty bits but those of a load's destination, the handler,
transaction and barrier state, and every byte at every home (a store reaches its home later: HomeEvents says what it changes
there); a load also every byte of the banks. A store from a core with an empty L1 changes, of what any core sees of any byte, only the
bytes that it stores. -/
def Obligations.Frames : Prop :=
  (∀ (i : Instr) (s t : State) (g : Wave → LaneMask) (ps qs : List Nat), registerOnly i = some (g, ps, qs) → s.calm →
      exec i s = .next t →
      let dsts := (s.sigOf s.cur i).uses.filter (·.wr)
      s.keepsAllBut t (dsts.flatMap Use.vregs) (s.acts g) (dsts.flatMap Use.sregs) ps qs)
    ∧ ∀ (f : FmtM) (s t : State), s.sound →
      (∀ r, r ∈ (s.wx s.cur).returns → r.id ≠ s.nextId ∧ (r.id = s.entry.ret → r.ctr = ctrOf f)) →
      let n := 2 ^ f.size.toNat
      let regs := (List.range (memRegs f)).map (· + operandReg f.data)
      let keeps (i : Instr) (regs : List Nat) : Prop := exec i s = .next t → s.me.keepsRegs t.me [] 0 [] ∧ s.me.keepsPreds t.me [] 0 []
        ∧ t.me.valloc = s.me.valloc ∧ t.me.salloc = s.me.salloc ∧ t.me.live = s.me.live ∧ t.me.uid = s.me.uid
        ∧ (∀ r, r ∉ regs → t.me.vEmpty r = s.me.vEmpty r ∧ t.me.sEmpty r = s.me.sEmpty r)
        ∧ (∀ k, ctrOf f ≠ some k → t.me.dcGet k = s.me.dcGet k)
        ∧ (t.wx t.cur).handler = (s.wx s.cur).handler ∧ (t.wx t.cur).txretry = (s.wx s.cur).txretry
        ∧ (t.wx t.cur).arrived = (s.wx s.cur).arrived ∧ ∀ l, t.byteAt l = s.byteAt l
      let sees (i : Instr) (lanes : Nat → Prop) (addr : Nat → Nat) : Prop := exec i s = .next t → (s.core (coreOf s.cur)).l1 = [] →
        ∀ l, (∀ k p, lanes k → s.place s.cur k (addr k) n .store = .mem p → ¬ l.within p n) →
          ∀ c a al, t.seenByte c a al l = s.seenByte c a al l
      let banks (i : Instr) : Prop := exec i s = .next t → ∀ c b o, t.bankByte c b o = s.bankByte c b o
      let each (k : Nat) : Prop := k < 32 ∧ inMask (s.acts (byP f.guard f.neg)) k = true
      keeps (.ld f) regs ∧ keeps (.lds f) regs ∧ keeps (.ldb f) regs ∧ keeps (.sld f) regs ∧ keeps (.pref f) []
        ∧ keeps (.st f) [] ∧ keeps (.sts f) [] ∧ keeps (.stb f) [] ∧ keeps (.sst f) []
        ∧ banks (.ld f) ∧ banks (.lds f) ∧ banks (.ldb f) ∧ banks (.sld f) ∧ banks (.pref f)
        ∧ sees (.st f) each (effAddr s.me f) ∧ sees (.sts f) each (storageAddr s.me f) ∧ sees (.stb f) each (blockAddr s.me f)
        ∧ sees (.sst f) (· = lowestLane s.entry.mask) (effAddr s.me f)

/-- R30, R34, R224, R231: the step of a wave whose turn it is executes the instruction that the decoder reads from the next word of
its clause, with that wave as the current one and one nanosecond later (the time that an instruction takes is the model's
choice, notes/assumptions/21.md), but for a die whose relock has come to its end, which ends first (R16); the words are those that clauseFetch has read from memory at the program counter (FetchAndReturn). -/
def Obligations.StepRuns : Prop :=
  ∀ (s : State) (w t : Nat) (rest : List Item) (e : Entry) (k : SlotWord) (ks : List SlotWord),
    s.agenda = ⟨t, .pick w⟩ :: rest → t ≤ s.time → s.holds w = true → s.mayIssue w = true → s.hubs.fatal = none →
    (∀ d, s.relockDue = some d → step s = exec (.relockEnd d) s)
      ∧ (s.relockDue = none → (s.wave w).issuing = some e → e.fetched = true → e.todo = k :: ks → s.packedWait w = none →
          step s = exec (decode k.word) { s with agenda := rest, cur := w, time := s.time + 1 })

/-- R231, R232, R236, Table 11.8: the decoder reads from the encoder's word of a well-formed instruction that instruction, and
the encoder gives back every word that the decoder reads; what the decoder reads is well-formed. -/
def Obligations.DecodeEncode : Prop :=
  (∀ (i : Instr) (w : Dword), i.wf = true → encode i = some w → decode w = i)
    ∧ ∀ w : Dword, (decode w).wf = true ∧ encode (decode w) = some w

/-- Every step keeps the canonical form of memory: addresses rise, and no cell holds the byte that an unlisted address reads as. -/
def Obligations.MemoryKept : Prop := ∀ s t : State, s.memOk = true → step s = .next t → t.memOk = true

/-- Words of Tables 11.11, 12.5, 14.3 and 15.6 and of the examples of R291, R424 and R272 decode to the instructions that the spec
gives them for. -/
def Obligations.DecodedWords : Prop :=
  decode 0x00FFC00800009D80 = .fadd ⟨7, false, .vec 2, .vec 0, false, .vec 1, false, .zero, false, 0⟩
    ∧ decode 0x0B011FF80400AA01 = .st ⟨2, true, .vec 2, .vec 4, false, .zero, false, 4, 6, 2, 0, false⟩
    ∧ decode 0x00FFDFFBFFFFDC86 = .exit ⟨7, false, .zero, .zero, false, .zero, false, .zero, false, 0⟩
    ∧ decode 0x0000000908421C19 = .saddi ⟨7, false, .sca 8, .sca 8, false, 1, 0⟩
    ∧ decode 0x04FFD429080E5C18 = .scmp ⟨7, false, 1, 7, 0, 0, .sca 8, false, .con 5, false, .zero, false, 2, 0⟩
    ∧ decode 0x0000000000FFC480 = .bra ⟨1, false, .zero, 0, 0⟩
    ∧ decode 0x0000006BFFFFDE08 = .fence ⟨7, false, .zero, .zero, false, 13, 0⟩
    ∧ decode 0x0245C8B114FFDF01 = .cvset ⟨7, false, .zero, .sca 20, false, .sca 22, false, .sca 23, false, 1⟩
    ∧ decode 0x02FFD4800200DD20 = .shfl ⟨7, false, .vec 3, .vec 2, false, .con 16, false, .zero, false, 1⟩
    ∧ decode 0x00FFDFFA81FFC493 = .hret ⟨1, false, .zero, .con 1, false, .zero, false, .zero, false, 0⟩

/-- R14, R15, R20, Tables 1.5, 10.2 and 10.4: after a reset the timer reads 0, every die is at operating point 2 with its counters at
zero and STEPLOG 0x12, every BAR0 offset that the host can read is zero but MODID and IDPUB, every port is down, and no wave, unit,
context, card, record or message is there. That memory lists nothing is the model's choice (notes/assumptions/1.md). -/
def Obligations.ResetState : Prop :=
  let s := State.reset
  s.time = 0 ∧ (∀ d, let c := (s.die d).clk
      c.op = 2 ∧ c.relock = none ∧ c.cycle 0 = 0 ∧ c.scycle 0 = 0 ∧ c.steplog = 0x12 ∧ (s.die d).owner = none)
    ∧ (∀ off, off ≠ 0 → ¬ (0x0108 ≤ off ∧ off < 0x0128) → s.bar0Read off = 0) ∧ (∀ p, (s.port p).state = 0)
    ∧ (∀ w, (s.wave w).live = false) ∧ s.units = [] ∧ (∀ n, (s.ctx n).on = false) ∧ s.queues.cards = [] ∧ s.hubs.errQ = []
    ∧ s.hubs.faultQ = [] ∧ s.hubs.msix = [] ∧ s.homes.flight = [] ∧ (∀ a, s.homeByte a = 0) ∧ s.memOk = true

/-- R40, R267, R268: SLEEP waits until REFTIME has passed its count, and is then done; WAITDC is done where every counter that it
names is at or below its limit, and waits where one is above; WSYNC holds the entry until every entry of the wave is held there, all
are then one, and that one is done with it. -/
def Obligations.Waits : Prop :=
  ∀ (b : FmtB) (f : FmtA) (s : State), s.plain = true →
    let lims := ((List.range 6).map fun n => (n, b.imm24.toNat / 16 ^ n % 16)).filter fun p => p.2 ≠ 15
    let begun (guard : Wave → LaneMask) : Prop :=
      s.me.issuing.isSome = true ∧ s.entry.stage ≠ 0 ∧ s.entry.left = none ∧ s.active guard ≠ 0
    let held (e : Entry) : Bool := e.stat = .wsync && e.pc = s.entry.pc && e.slot = s.entry.slot
    s.gives (byQ b.guard b.neg) (sigPlainB b) (.sleep b)
        (fun t => t.awaited = some (.time (s.time + b.imm24.toNat)) ∧ s.becomes t)
      ∧ (begun (byQ b.guard b.neg) → s.entry.mark ≤ s.time → ∃ t, exec (.sleep b) s = .next t ∧ s.becomes t ∧ s.goesOn t)
      ∧ ((∀ p, p ∈ lims → s.me.dcGet p.1 ≤ p.2) → s.gives (byQ b.guard b.neg) (sigPlainB b) (.waitdc b) fun t =>
          s.goesOn t ∧ t.awaited = s.awaited ∧ ((s.wx s.cur).unseen = [] → s.becomes t))
      ∧ (¬ (∀ p, p ∈ lims → s.me.dcGet p.1 ≤ p.2) → s.gives (byQ b.guard b.neg) (sigPlainB b) (.waitdc b) fun t =>
          t.awaited = some (.counters lims) ∧ s.becomes t)
      ∧ s.gives (byQ f.guard f.neg) (sigPlainA f) (.wsync f) (fun t => s.becomes t ∧
          if s.me.frontier.all (fun e => e.stat = .ready || held e) && (s.me.frontier.filter fun e => e.stat = .ready) = [s.entry] then
            ∃ e, t.me.frontier = [e] ∧ t.me.issuing = some e ∧ e.stage = 1 ∧ e.pc = s.entry.pc ∧ e.slot = s.entry.slot
              ∧ ∀ l, l < 32 → inMask e.mask l = s.me.frontier.any fun x => inMask x.mask l
          else { s.entry with stat := .wsync } ∈ t.me.frontier)
      ∧ (begun (byQ f.guard f.neg) → ∃ t, exec (.wsync f) s = .next t ∧ s.becomes t ∧ s.goesOn t)
end

