-- ==== Sys2Proof/Laws/State.lean ====
section
/-! SUPPORT. What each update of the state leaves in each field, so that no proof unfolds a record update. -/

namespace Sys2Proof.Machine

section
variable (s : State)

/-! ### setWave -/
@[simp] theorem State.setWave_time (w : Nat) (x : Wave) : (s.setWave w x).time = s.time := rfl
@[simp] theorem State.setWave_waves (w : Nat) (x : Wave) : (s.setWave w x).waves = Tbl.set s.waves w x := rfl
@[simp] theorem State.setWave_wavex (w : Nat) (x : Wave) : (s.setWave w x).wavex = s.wavex := rfl
@[simp] theorem State.setWave_units (w : Nat) (x : Wave) : (s.setWave w x).units = s.units := rfl
@[simp] theorem State.setWave_cores (w : Nat) (x : Wave) : (s.setWave w x).cores = s.cores := rfl
@[simp] theorem State.setWave_dies (w : Nat) (x : Wave) : (s.setWave w x).dies = s.dies := rfl
@[simp] theorem State.setWave_ctxs (w : Nat) (x : Wave) : (s.setWave w x).ctxs = s.ctxs := rfl
@[simp] theorem State.setWave_homes (w : Nat) (x : Wave) : (s.setWave w x).homes = s.homes := rfl
@[simp] theorem State.setWave_queues (w : Nat) (x : Wave) : (s.setWave w x).queues = s.queues := rfl
@[simp] theorem State.setWave_hubs (w : Nat) (x : Wave) : (s.setWave w x).hubs = s.hubs := rfl
@[simp] theorem State.setWave_cur (w : Nat) (x : Wave) : (s.setWave w x).cur = s.cur := rfl
@[simp] theorem State.setWave_agenda (w : Nat) (x : Wave) : (s.setWave w x).agenda = s.agenda := rfl
@[simp] theorem State.setWave_nextId (w : Nat) (x : Wave) : (s.setWave w x).nextId = s.nextId := rfl
@[simp] theorem State.setWave_freeCtr (w : Nat) (x : Wave) : (s.setWave w x).freeCtr = s.freeCtr := rfl

/-! ### setWx -/
@[simp] theorem State.setWx_time (w : Nat) (x : WaveX) : (s.setWx w x).time = s.time := rfl
@[simp] theorem State.setWx_waves (w : Nat) (x : WaveX) : (s.setWx w x).waves = s.waves := rfl
@[simp] theorem State.setWx_wavex (w : Nat) (x : WaveX) : (s.setWx w x).wavex = Tbl.set s.wavex w x := rfl
@[simp] theorem State.setWx_units (w : Nat) (x : WaveX) : (s.setWx w x).units = s.units := rfl
@[simp] theorem State.setWx_cores (w : Nat) (x : WaveX) : (s.setWx w x).cores = s.cores := rfl
@[simp] theorem State.setWx_dies (w : Nat) (x : WaveX) : (s.setWx w x).dies = s.dies := rfl
@[simp] theorem State.setWx_ctxs (w : Nat) (x : WaveX) : (s.setWx w x).ctxs = s.ctxs := rfl
@[simp] theorem State.setWx_homes (w : Nat) (x : WaveX) : (s.setWx w x).homes = s.homes := rfl
@[simp] theorem State.setWx_queues (w : Nat) (x : WaveX) : (s.setWx w x).queues = s.queues := rfl
@[simp] theorem State.setWx_hubs (w : Nat) (x : WaveX) : (s.setWx w x).hubs = s.hubs := rfl
@[simp] theorem State.setWx_cur (w : Nat) (x : WaveX) : (s.setWx w x).cur = s.cur := rfl
@[simp] theorem State.setWx_agenda (w : Nat) (x : WaveX) : (s.setWx w x).agenda = s.agenda := rfl
@[simp] theorem State.setWx_nextId (w : Nat) (x : WaveX) : (s.setWx w x).nextId = s.nextId := rfl
@[simp] theorem State.setWx_freeCtr (w : Nat) (x : WaveX) : (s.setWx w x).freeCtr = s.freeCtr := rfl

/-! ### setUnit -/
@[simp] theorem State.setUnit_time (u : Nat) (x : WorkUnit) : (s.setUnit u x).time = s.time := rfl
@[simp] theorem State.setUnit_waves (u : Nat) (x : WorkUnit) : (s.setUnit u x).waves = s.waves := rfl
@[simp] theorem State.setUnit_wavex (u : Nat) (x : WorkUnit) : (s.setUnit u x).wavex = s.wavex := rfl
@[simp] theorem State.setUnit_units (u : Nat) (x : WorkUnit) : (s.setUnit u x).units = Tbl.set s.units u x := rfl
@[simp] theorem State.setUnit_cores (u : Nat) (x : WorkUnit) : (s.setUnit u x).cores = s.cores := rfl
@[simp] theorem State.setUnit_dies (u : Nat) (x : WorkUnit) : (s.setUnit u x).dies = s.dies := rfl
@[simp] theorem State.setUnit_ctxs (u : Nat) (x : WorkUnit) : (s.setUnit u x).ctxs = s.ctxs := rfl
@[simp] theorem State.setUnit_homes (u : Nat) (x : WorkUnit) : (s.setUnit u x).homes = s.homes := rfl
@[simp] theorem State.setUnit_queues (u : Nat) (x : WorkUnit) : (s.setUnit u x).queues = s.queues := rfl
@[simp] theorem State.setUnit_hubs (u : Nat) (x : WorkUnit) : (s.setUnit u x).hubs = s.hubs := rfl
@[simp] theorem State.setUnit_cur (u : Nat) (x : WorkUnit) : (s.setUnit u x).cur = s.cur := rfl
@[simp] theorem State.setUnit_agenda (u : Nat) (x : WorkUnit) : (s.setUnit u x).agenda = s.agenda := rfl
@[simp] theorem State.setUnit_nextId (u : Nat) (x : WorkUnit) : (s.setUnit u x).nextId = s.nextId := rfl
@[simp] theorem State.setUnit_freeCtr (u : Nat) (x : WorkUnit) : (s.setUnit u x).freeCtr = s.freeCtr := rfl

/-! ### setCore -/
@[simp] theorem State.setCore_time (c : Nat) (x : CoreSt) : (s.setCore c x).time = s.time := rfl
@[simp] theorem State.setCore_waves (c : Nat) (x : CoreSt) : (s.setCore c x).waves = s.waves := rfl
@[simp] theorem State.setCore_wavex (c : Nat) (x : CoreSt) : (s.setCore c x).wavex = s.wavex := rfl
@[simp] theorem State.setCore_units (c : Nat) (x : CoreSt) : (s.setCore c x).units = s.units := rfl
@[simp] theorem State.setCore_cores (c : Nat) (x : CoreSt) : (s.setCore c x).cores = Tbl.set s.cores c x := rfl
@[simp] theorem State.setCore_dies (c : Nat) (x : CoreSt) : (s.setCore c x).dies = s.dies := rfl
@[simp] theorem State.setCore_ctxs (c : Nat) (x : CoreSt) : (s.setCore c x).ctxs = s.ctxs := rfl
@[simp] theorem State.setCore_homes (c : Nat) (x : CoreSt) : (s.setCore c x).homes = s.homes := rfl
@[simp] theorem State.setCore_queues (c : Nat) (x : CoreSt) : (s.setCore c x).queues = s.queues := rfl
@[simp] theorem State.setCore_hubs (c : Nat) (x : CoreSt) : (s.setCore c x).hubs = s.hubs := rfl
@[simp] theorem State.setCore_cur (c : Nat) (x : CoreSt) : (s.setCore c x).cur = s.cur := rfl
@[simp] theorem State.setCore_agenda (c : Nat) (x : CoreSt) : (s.setCore c x).agenda = s.agenda := rfl
@[simp] theorem State.setCore_nextId (c : Nat) (x : CoreSt) : (s.setCore c x).nextId = s.nextId := rfl
@[simp] theorem State.setCore_freeCtr (c : Nat) (x : CoreSt) : (s.setCore c x).freeCtr = s.freeCtr := rfl

/-! ### setDie -/
@[simp] theorem State.setDie_time (d : Nat) (x : Die) : (s.setDie d x).time = s.time := rfl
@[simp] theorem State.setDie_waves (d : Nat) (x : Die) : (s.setDie d x).waves = s.waves := rfl
@[simp] theorem State.setDie_wavex (d : Nat) (x : Die) : (s.setDie d x).wavex = s.wavex := rfl
@[simp] theorem State.setDie_units (d : Nat) (x : Die) : (s.setDie d x).units = s.units := rfl
@[simp] theorem State.setDie_cores (d : Nat) (x : Die) : (s.setDie d x).cores = s.cores := rfl
@[simp] theorem State.setDie_dies (d : Nat) (x : Die) : (s.setDie d x).dies = Tbl.set s.dies d x := rfl
@[simp] theorem State.setDie_ctxs (d : Nat) (x : Die) : (s.setDie d x).ctxs = s.ctxs := rfl
@[simp] theorem State.setDie_homes (d : Nat) (x : Die) : (s.setDie d x).homes = s.homes := rfl
@[simp] theorem State.setDie_queues (d : Nat) (x : Die) : (s.setDie d x).queues = s.queues := rfl
@[simp] theorem State.setDie_hubs (d : Nat) (x : Die) : (s.setDie d x).hubs = s.hubs := rfl
@[simp] theorem State.setDie_cur (d : Nat) (x : Die) : (s.setDie d x).cur = s.cur := rfl
@[simp] theorem State.setDie_agenda (d : Nat) (x : Die) : (s.setDie d x).agenda = s.agenda := rfl
@[simp] theorem State.setDie_nextId (d : Nat) (x : Die) : (s.setDie d x).nextId = s.nextId := rfl
@[simp] theorem State.setDie_freeCtr (d : Nat) (x : Die) : (s.setDie d x).freeCtr = s.freeCtr := rfl

/-! ### setCtx -/
@[simp] theorem State.setCtx_time (n : Nat) (x : Ctx) : (s.setCtx n x).time = s.time := rfl
@[simp] theorem State.setCtx_waves (n : Nat) (x : Ctx) : (s.setCtx n x).waves = s.waves := rfl
@[simp] theorem State.setCtx_wavex (n : Nat) (x : Ctx) : (s.setCtx n x).wavex = s.wavex := rfl
@[simp] theorem State.setCtx_units (n : Nat) (x : Ctx) : (s.setCtx n x).units = s.units := rfl
@[simp] theorem State.setCtx_cores (n : Nat) (x : Ctx) : (s.setCtx n x).cores = s.cores := rfl
@[simp] theorem State.setCtx_dies (n : Nat) (x : Ctx) : (s.setCtx n x).dies = s.dies := rfl
@[simp] theorem State.setCtx_ctxs (n : Nat) (x : Ctx) : (s.setCtx n x).ctxs = Tbl.set s.ctxs n x := rfl
@[simp] theorem State.setCtx_homes (n : Nat) (x : Ctx) : (s.setCtx n x).homes = s.homes := rfl
@[simp] theorem State.setCtx_queues (n : Nat) (x : Ctx) : (s.setCtx n x).queues = s.queues := rfl
@[simp] theorem State.setCtx_hubs (n : Nat) (x : Ctx) : (s.setCtx n x).hubs = s.hubs := rfl
@[simp] theorem State.setCtx_cur (n : Nat) (x : Ctx) : (s.setCtx n x).cur = s.cur := rfl
@[simp] theorem State.setCtx_agenda (n : Nat) (x : Ctx) : (s.setCtx n x).agenda = s.agenda := rfl
@[simp] theorem State.setCtx_nextId (n : Nat) (x : Ctx) : (s.setCtx n x).nextId = s.nextId := rfl
@[simp] theorem State.setCtx_freeCtr (n : Nat) (x : Ctx) : (s.setCtx n x).freeCtr = s.freeCtr := rfl

/-! ### updHomes -/
@[simp] theorem State.updHomes_time (f : Homes → Homes) : (s.updHomes f).time = s.time := rfl
@[simp] theorem State.updHomes_waves (f : Homes → Homes) : (s.updHomes f).waves = s.waves := rfl
@[simp] theorem State.updHomes_wavex (f : Homes → Homes) : (s.updHomes f).wavex = s.wavex := rfl
@[simp] theorem State.updHomes_units (f : Homes → Homes) : (s.updHomes f).units = s.units := rfl
@[simp] theorem State.updHomes_cores (f : Homes → Homes) : (s.updHomes f).cores = s.cores := rfl
@[simp] theorem State.updHomes_dies (f : Homes → Homes) : (s.updHomes f).dies = s.dies := rfl
@[simp] theorem State.updHomes_ctxs (f : Homes → Homes) : (s.updHomes f).ctxs = s.ctxs := rfl
@[simp] theorem State.updHomes_homes (f : Homes → Homes) : (s.updHomes f).homes = f s.homes := rfl
@[simp] theorem State.updHomes_queues (f : Homes → Homes) : (s.updHomes f).queues = s.queues := rfl
@[simp] theorem State.updHomes_hubs (f : Homes → Homes) : (s.updHomes f).hubs = s.hubs := rfl
@[simp] theorem State.updHomes_cur (f : Homes → Homes) : (s.updHomes f).cur = s.cur := rfl
@[simp] theorem State.updHomes_agenda (f : Homes → Homes) : (s.updHomes f).agenda = s.agenda := rfl
@[simp] theorem State.updHomes_nextId (f : Homes → Homes) : (s.updHomes f).nextId = s.nextId := rfl
@[simp] theorem State.updHomes_freeCtr (f : Homes → Homes) : (s.updHomes f).freeCtr = s.freeCtr := rfl

/-! ### updQueues -/
@[simp] theorem State.updQueues_time (f : Queues → Queues) : (s.updQueues f).time = s.time := rfl
@[simp] theorem State.updQueues_waves (f : Queues → Queues) : (s.updQueues f).waves = s.waves := rfl
@[simp] theorem State.updQueues_wavex (f : Queues → Queues) : (s.updQueues f).wavex = s.wavex := rfl
@[simp] theorem State.updQueues_units (f : Queues → Queues) : (s.updQueues f).units = s.units := rfl
@[simp] theorem State.updQueues_cores (f : Queues → Queues) : (s.updQueues f).cores = s.cores := rfl
@[simp] theorem State.updQueues_dies (f : Queues → Queues) : (s.updQueues f).dies = s.dies := rfl
@[simp] theorem State.updQueues_ctxs (f : Queues → Queues) : (s.updQueues f).ctxs = s.ctxs := rfl
@[simp] theorem State.updQueues_homes (f : Queues → Queues) : (s.updQueues f).homes = s.homes := rfl
@[simp] theorem State.updQueues_queues (f : Queues → Queues) : (s.updQueues f).queues = f s.queues := rfl
@[simp] theorem State.updQueues_hubs (f : Queues → Queues) : (s.updQueues f).hubs = s.hubs := rfl
@[simp] theorem State.updQueues_cur (f : Queues → Queues) : (s.updQueues f).cur = s.cur := rfl
@[simp] theorem State.updQueues_agenda (f : Queues → Queues) : (s.updQueues f).agenda = s.agenda := rfl
@[simp] theorem State.updQueues_nextId (f : Queues → Queues) : (s.updQueues f).nextId = s.nextId := rfl
@[simp] theorem State.updQueues_freeCtr (f : Queues → Queues) : (s.updQueues f).freeCtr = s.freeCtr := rfl

/-! ### updHubs -/
@[simp] theorem State.updHubs_time (f : Hubs → Hubs) : (s.updHubs f).time = s.time := rfl
@[simp] theorem State.updHubs_waves (f : Hubs → Hubs) : (s.updHubs f).waves = s.waves := rfl
@[simp] theorem State.updHubs_wavex (f : Hubs → Hubs) : (s.updHubs f).wavex = s.wavex := rfl
@[simp] theorem State.updHubs_units (f : Hubs → Hubs) : (s.updHubs f).units = s.units := rfl
@[simp] theorem State.updHubs_cores (f : Hubs → Hubs) : (s.updHubs f).cores = s.cores := rfl
@[simp] theorem State.updHubs_dies (f : Hubs → Hubs) : (s.updHubs f).dies = s.dies := rfl
@[simp] theorem State.updHubs_ctxs (f : Hubs → Hubs) : (s.updHubs f).ctxs = s.ctxs := rfl
@[simp] theorem State.updHubs_homes (f : Hubs → Hubs) : (s.updHubs f).homes = s.homes := rfl
@[simp] theorem State.updHubs_queues (f : Hubs → Hubs) : (s.updHubs f).queues = s.queues := rfl
@[simp] theorem State.updHubs_hubs (f : Hubs → Hubs) : (s.updHubs f).hubs = f s.hubs := rfl
@[simp] theorem State.updHubs_cur (f : Hubs → Hubs) : (s.updHubs f).cur = s.cur := rfl
@[simp] theorem State.updHubs_agenda (f : Hubs → Hubs) : (s.updHubs f).agenda = s.agenda := rfl
@[simp] theorem State.updHubs_nextId (f : Hubs → Hubs) : (s.updHubs f).nextId = s.nextId := rfl
@[simp] theorem State.updHubs_freeCtr (f : Hubs → Hubs) : (s.updHubs f).freeCtr = s.freeCtr := rfl

/-! ### updWave -/
@[simp] theorem State.updWave_time (w : Nat) (f : Wave → Wave) : (s.updWave w f).time = s.time := rfl
@[simp] theorem State.updWave_waves (w : Nat) (f : Wave → Wave) : (s.updWave w f).waves = Tbl.set s.waves w (f (s.wave w)) := rfl
@[simp] theorem State.updWave_wavex (w : Nat) (f : Wave → Wave) : (s.updWave w f).wavex = s.wavex := rfl
@[simp] theorem State.updWave_units (w : Nat) (f : Wave → Wave) : (s.updWave w f).units = s.units := rfl
@[simp] theorem State.updWave_cores (w : Nat) (f : Wave → Wave) : (s.updWave w f).cores = s.cores := rfl
@[simp] theorem State.updWave_dies (w : Nat) (f : Wave → Wave) : (s.updWave w f).dies = s.dies := rfl
@[simp] theorem State.updWave_ctxs (w : Nat) (f : Wave → Wave) : (s.updWave w f).ctxs = s.ctxs := rfl
@[simp] theorem State.updWave_homes (w : Nat) (f : Wave → Wave) : (s.updWave w f).homes = s.homes := rfl
@[simp] theorem State.updWave_queues (w : Nat) (f : Wave → Wave) : (s.updWave w f).queues = s.queues := rfl
@[simp] theorem State.updWave_hubs (w : Nat) (f : Wave → Wave) : (s.updWave w f).hubs = s.hubs := rfl
@[simp] theorem State.updWave_cur (w : Nat) (f : Wave → Wave) : (s.updWave w f).cur = s.cur := rfl
@[simp] theorem State.updWave_agenda (w : Nat) (f : Wave → Wave) : (s.updWave w f).agenda = s.agenda := rfl
@[simp] theorem State.updWave_nextId (w : Nat) (f : Wave → Wave) : (s.updWave w f).nextId = s.nextId := rfl
@[simp] theorem State.updWave_freeCtr (w : Nat) (f : Wave → Wave) : (s.updWave w f).freeCtr = s.freeCtr := rfl

/-! ### updWx -/
@[simp] theorem State.updWx_time (w : Nat) (f : WaveX → WaveX) : (s.updWx w f).time = s.time := rfl
@[simp] theorem State.updWx_waves (w : Nat) (f : WaveX → WaveX) : (s.updWx w f).waves = s.waves := rfl
@[simp] theorem State.updWx_wavex (w : Nat) (f : WaveX → WaveX) : (s.updWx w f).wavex = Tbl.set s.wavex w (f (s.wx w)) := rfl
@[simp] theorem State.updWx_units (w : Nat) (f : WaveX → WaveX) : (s.updWx w f).units = s.units := rfl
@[simp] theorem State.updWx_cores (w : Nat) (f : WaveX → WaveX) : (s.updWx w f).cores = s.cores := rfl
@[simp] theorem State.updWx_dies (w : Nat) (f : WaveX → WaveX) : (s.updWx w f).dies = s.dies := rfl
@[simp] theorem State.updWx_ctxs (w : Nat) (f : WaveX → WaveX) : (s.updWx w f).ctxs = s.ctxs := rfl
@[simp] theorem State.updWx_homes (w : Nat) (f : WaveX → WaveX) : (s.updWx w f).homes = s.homes := rfl
@[simp] theorem State.updWx_queues (w : Nat) (f : WaveX → WaveX) : (s.updWx w f).queues = s.queues := rfl
@[simp] theorem State.updWx_hubs (w : Nat) (f : WaveX → WaveX) : (s.updWx w f).hubs = s.hubs := rfl
@[simp] theorem State.updWx_cur (w : Nat) (f : WaveX → WaveX) : (s.updWx w f).cur = s.cur := rfl
@[simp] theorem State.updWx_agenda (w : Nat) (f : WaveX → WaveX) : (s.updWx w f).agenda = s.agenda := rfl
@[simp] theorem State.updWx_nextId (w : Nat) (f : WaveX → WaveX) : (s.updWx w f).nextId = s.nextId := rfl
@[simp] theorem State.updWx_freeCtr (w : Nat) (f : WaveX → WaveX) : (s.updWx w f).freeCtr = s.freeCtr := rfl

/-! ### updCore -/
@[simp] theorem State.updCore_time (c : Nat) (f : CoreSt → CoreSt) : (s.updCore c f).time = s.time := rfl
@[simp] theorem State.updCore_waves (c : Nat) (f : CoreSt → CoreSt) : (s.updCore c f).waves = s.waves := rfl
@[simp] theorem State.updCore_wavex (c : Nat) (f : CoreSt → CoreSt) : (s.updCore c f).wavex = s.wavex := rfl
@[simp] theorem State.updCore_units (c : Nat) (f : CoreSt → CoreSt) : (s.updCore c f).units = s.units := rfl
@[simp] theorem State.updCore_cores (c : Nat) (f : CoreSt → CoreSt) : (s.updCore c f).cores = Tbl.set s.cores c (f (s.core c)) := rfl
@[simp] theorem State.updCore_dies (c : Nat) (f : CoreSt → CoreSt) : (s.updCore c f).dies = s.dies := rfl
@[simp] theorem State.updCore_ctxs (c : Nat) (f : CoreSt → CoreSt) : (s.updCore c f).ctxs = s.ctxs := rfl
@[simp] theorem State.updCore_homes (c : Nat) (f : CoreSt → CoreSt) : (s.updCore c f).homes = s.homes := rfl
@[simp] theorem State.updCore_queues (c : Nat) (f : CoreSt → CoreSt) : (s.updCore c f).queues = s.queues := rfl
@[simp] theorem State.updCore_hubs (c : Nat) (f : CoreSt → CoreSt) : (s.updCore c f).hubs = s.hubs := rfl
@[simp] theorem State.updCore_cur (c : Nat) (f : CoreSt → CoreSt) : (s.updCore c f).cur = s.cur := rfl
@[simp] theorem State.updCore_agenda (c : Nat) (f : CoreSt → CoreSt) : (s.updCore c f).agenda = s.agenda := rfl
@[simp] theorem State.updCore_nextId (c : Nat) (f : CoreSt → CoreSt) : (s.updCore c f).nextId = s.nextId := rfl
@[simp] theorem State.updCore_freeCtr (c : Nat) (f : CoreSt → CoreSt) : (s.updCore c f).freeCtr = s.freeCtr := rfl

/-! ### updDie -/
@[simp] theorem State.updDie_time (d : Nat) (f : Die → Die) : (s.updDie d f).time = s.time := rfl
@[simp] theorem State.updDie_waves (d : Nat) (f : Die → Die) : (s.updDie d f).waves = s.waves := rfl
@[simp] theorem State.updDie_wavex (d : Nat) (f : Die → Die) : (s.updDie d f).wavex = s.wavex := rfl
@[simp] theorem State.updDie_units (d : Nat) (f : Die → Die) : (s.updDie d f).units = s.units := rfl
@[simp] theorem State.updDie_cores (d : Nat) (f : Die → Die) : (s.updDie d f).cores = s.cores := rfl
@[simp] theorem State.updDie_dies (d : Nat) (f : Die → Die) : (s.updDie d f).dies = Tbl.set s.dies d (f (s.die d)) := rfl
@[simp] theorem State.updDie_ctxs (d : Nat) (f : Die → Die) : (s.updDie d f).ctxs = s.ctxs := rfl
@[simp] theorem State.updDie_homes (d : Nat) (f : Die → Die) : (s.updDie d f).homes = s.homes := rfl
@[simp] theorem State.updDie_queues (d : Nat) (f : Die → Die) : (s.updDie d f).queues = s.queues := rfl
@[simp] theorem State.updDie_hubs (d : Nat) (f : Die → Die) : (s.updDie d f).hubs = s.hubs := rfl
@[simp] theorem State.updDie_cur (d : Nat) (f : Die → Die) : (s.updDie d f).cur = s.cur := rfl
@[simp] theorem State.updDie_agenda (d : Nat) (f : Die → Die) : (s.updDie d f).agenda = s.agenda := rfl
@[simp] theorem State.updDie_nextId (d : Nat) (f : Die → Die) : (s.updDie d f).nextId = s.nextId := rfl
@[simp] theorem State.updDie_freeCtr (d : Nat) (f : Die → Die) : (s.updDie d f).freeCtr = s.freeCtr := rfl

/-! ### updCtx -/
@[simp] theorem State.updCtx_time (n : Nat) (f : Ctx → Ctx) : (s.updCtx n f).time = s.time := rfl
@[simp] theorem State.updCtx_waves (n : Nat) (f : Ctx → Ctx) : (s.updCtx n f).waves = s.waves := rfl
@[simp] theorem State.updCtx_wavex (n : Nat) (f : Ctx → Ctx) : (s.updCtx n f).wavex = s.wavex := rfl
@[simp] theorem State.updCtx_units (n : Nat) (f : Ctx → Ctx) : (s.updCtx n f).units = s.units := rfl
@[simp] theorem State.updCtx_cores (n : Nat) (f : Ctx → Ctx) : (s.updCtx n f).cores = s.cores := rfl
@[simp] theorem State.updCtx_dies (n : Nat) (f : Ctx → Ctx) : (s.updCtx n f).dies = s.dies := rfl
@[simp] theorem State.updCtx_ctxs (n : Nat) (f : Ctx → Ctx) : (s.updCtx n f).ctxs = Tbl.set s.ctxs n (f (s.ctx n)) := rfl
@[simp] theorem State.updCtx_homes (n : Nat) (f : Ctx → Ctx) : (s.updCtx n f).homes = s.homes := rfl
@[simp] theorem State.updCtx_queues (n : Nat) (f : Ctx → Ctx) : (s.updCtx n f).queues = s.queues := rfl
@[simp] theorem State.updCtx_hubs (n : Nat) (f : Ctx → Ctx) : (s.updCtx n f).hubs = s.hubs := rfl
@[simp] theorem State.updCtx_cur (n : Nat) (f : Ctx → Ctx) : (s.updCtx n f).cur = s.cur := rfl
@[simp] theorem State.updCtx_agenda (n : Nat) (f : Ctx → Ctx) : (s.updCtx n f).agenda = s.agenda := rfl
@[simp] theorem State.updCtx_nextId (n : Nat) (f : Ctx → Ctx) : (s.updCtx n f).nextId = s.nextId := rfl
@[simp] theorem State.updCtx_freeCtr (n : Nat) (f : Ctx → Ctx) : (s.updCtx n f).freeCtr = s.freeCtr := rfl

/-! ### updQuad -/
@[simp] theorem State.updQuad_time (c q : Nat) (f : Quad → Quad) : (s.updQuad c q f).time = s.time := rfl
@[simp] theorem State.updQuad_waves (c q : Nat) (f : Quad → Quad) : (s.updQuad c q f).waves = s.waves := rfl
@[simp] theorem State.updQuad_wavex (c q : Nat) (f : Quad → Quad) : (s.updQuad c q f).wavex = s.wavex := rfl
@[simp] theorem State.updQuad_units (c q : Nat) (f : Quad → Quad) : (s.updQuad c q f).units = s.units := rfl
@[simp] theorem State.updQuad_dies (c q : Nat) (f : Quad → Quad) : (s.updQuad c q f).dies = s.dies := rfl
@[simp] theorem State.updQuad_ctxs (c q : Nat) (f : Quad → Quad) : (s.updQuad c q f).ctxs = s.ctxs := rfl
@[simp] theorem State.updQuad_homes (c q : Nat) (f : Quad → Quad) : (s.updQuad c q f).homes = s.homes := rfl
@[simp] theorem State.updQuad_queues (c q : Nat) (f : Quad → Quad) : (s.updQuad c q f).queues = s.queues := rfl
@[simp] theorem State.updQuad_hubs (c q : Nat) (f : Quad → Quad) : (s.updQuad c q f).hubs = s.hubs := rfl
@[simp] theorem State.updQuad_cur (c q : Nat) (f : Quad → Quad) : (s.updQuad c q f).cur = s.cur := rfl
@[simp] theorem State.updQuad_agenda (c q : Nat) (f : Quad → Quad) : (s.updQuad c q f).agenda = s.agenda := rfl
@[simp] theorem State.updQuad_nextId (c q : Nat) (f : Quad → Quad) : (s.updQuad c q f).nextId = s.nextId := rfl
@[simp] theorem State.updQuad_freeCtr (c q : Nat) (f : Quad → Quad) : (s.updQuad c q f).freeCtr = s.freeCtr := rfl

/-! ### updBank -/
@[simp] theorem State.updBank_time (c k : Nat) (f : Bank → Bank) : (s.updBank c k f).time = s.time := rfl
@[simp] theorem State.updBank_waves (c k : Nat) (f : Bank → Bank) : (s.updBank c k f).waves = s.waves := rfl
@[simp] theorem State.updBank_wavex (c k : Nat) (f : Bank → Bank) : (s.updBank c k f).wavex = s.wavex := rfl
@[simp] theorem State.updBank_units (c k : Nat) (f : Bank → Bank) : (s.updBank c k f).units = s.units := rfl
@[simp] theorem State.updBank_dies (c k : Nat) (f : Bank → Bank) : (s.updBank c k f).dies = s.dies := rfl
@[simp] theorem State.updBank_ctxs (c k : Nat) (f : Bank → Bank) : (s.updBank c k f).ctxs = s.ctxs := rfl
@[simp] theorem State.updBank_homes (c k : Nat) (f : Bank → Bank) : (s.updBank c k f).homes = s.homes := rfl
@[simp] theorem State.updBank_queues (c k : Nat) (f : Bank → Bank) : (s.updBank c k f).queues = s.queues := rfl
@[simp] theorem State.updBank_hubs (c k : Nat) (f : Bank → Bank) : (s.updBank c k f).hubs = s.hubs := rfl
@[simp] theorem State.updBank_cur (c k : Nat) (f : Bank → Bank) : (s.updBank c k f).cur = s.cur := rfl
@[simp] theorem State.updBank_agenda (c k : Nat) (f : Bank → Bank) : (s.updBank c k f).agenda = s.agenda := rfl
@[simp] theorem State.updBank_nextId (c k : Nat) (f : Bank → Bank) : (s.updBank c k f).nextId = s.nextId := rfl
@[simp] theorem State.updBank_freeCtr (c k : Nat) (f : Bank → Bank) : (s.updBank c k f).freeCtr = s.freeCtr := rfl

/-! ### updUnit -/
@[simp] theorem State.updUnit_time (u : Nat) (f : WorkUnit → WorkUnit) : (s.updUnit u f).time = s.time := by unfold State.updUnit; split <;> rfl
@[simp] theorem State.updUnit_waves (u : Nat) (f : WorkUnit → WorkUnit) : (s.updUnit u f).waves = s.waves := by unfold State.updUnit; split <;> rfl
@[simp] theorem State.updUnit_wavex (u : Nat) (f : WorkUnit → WorkUnit) : (s.updUnit u f).wavex = s.wavex := by unfold State.updUnit; split <;> rfl
@[simp] theorem State.updUnit_cores (u : Nat) (f : WorkUnit → WorkUnit) : (s.updUnit u f).cores = s.cores := by unfold State.updUnit; split <;> rfl
@[simp] theorem State.updUnit_dies (u : Nat) (f : WorkUnit → WorkUnit) : (s.updUnit u f).dies = s.dies := by unfold State.updUnit; split <;> rfl
@[simp] theorem State.updUnit_ctxs (u : Nat) (f : WorkUnit → WorkUnit) : (s.updUnit u f).ctxs = s.ctxs := by unfold State.updUnit; split <;> rfl
@[simp] theorem State.updUnit_homes (u : Nat) (f : WorkUnit → WorkUnit) : (s.updUnit u f).homes = s.homes := by unfold State.updUnit; split <;> rfl
@[simp] theorem State.updUnit_queues (u : Nat) (f : WorkUnit → WorkUnit) : (s.updUnit u f).queues = s.queues := by unfold State.updUnit; split <;> rfl
@[simp] theorem State.updUnit_hubs (u : Nat) (f : WorkUnit → WorkUnit) : (s.updUnit u f).hubs = s.hubs := by unfold State.updUnit; split <;> rfl
@[simp] theorem State.updUnit_cur (u : Nat) (f : WorkUnit → WorkUnit) : (s.updUnit u f).cur = s.cur := by unfold State.updUnit; split <;> rfl
@[simp] theorem State.updUnit_agenda (u : Nat) (f : WorkUnit → WorkUnit) : (s.updUnit u f).agenda = s.agenda := by unfold State.updUnit; split <;> rfl
@[simp] theorem State.updUnit_nextId (u : Nat) (f : WorkUnit → WorkUnit) : (s.updUnit u f).nextId = s.nextId := by unfold State.updUnit; split <;> rfl
@[simp] theorem State.updUnit_freeCtr (u : Nat) (f : WorkUnit → WorkUnit) : (s.updUnit u f).freeCtr = s.freeCtr := by unfold State.updUnit; split <;> rfl

/-! ### updLaunch -/
@[simp] theorem State.updLaunch_time (u : Nat) (f : Launch → Launch) : (s.updLaunch u f).time = s.time := by unfold State.updLaunch; split <;> rfl
@[simp] theorem State.updLaunch_waves (u : Nat) (f : Launch → Launch) : (s.updLaunch u f).waves = s.waves := by unfold State.updLaunch; split <;> rfl
@[simp] theorem State.updLaunch_wavex (u : Nat) (f : Launch → Launch) : (s.updLaunch u f).wavex = s.wavex := by unfold State.updLaunch; split <;> rfl
@[simp] theorem State.updLaunch_units (u : Nat) (f : Launch → Launch) : (s.updLaunch u f).units = s.units := by unfold State.updLaunch; split <;> rfl
@[simp] theorem State.updLaunch_cores (u : Nat) (f : Launch → Launch) : (s.updLaunch u f).cores = s.cores := by unfold State.updLaunch; split <;> rfl
@[simp] theorem State.updLaunch_dies (u : Nat) (f : Launch → Launch) : (s.updLaunch u f).dies = s.dies := by unfold State.updLaunch; split <;> rfl
@[simp] theorem State.updLaunch_ctxs (u : Nat) (f : Launch → Launch) : (s.updLaunch u f).ctxs = s.ctxs := by unfold State.updLaunch; split <;> rfl
@[simp] theorem State.updLaunch_homes (u : Nat) (f : Launch → Launch) : (s.updLaunch u f).homes = s.homes := by unfold State.updLaunch; split <;> rfl
@[simp] theorem State.updLaunch_hubs (u : Nat) (f : Launch → Launch) : (s.updLaunch u f).hubs = s.hubs := by unfold State.updLaunch; split <;> rfl
@[simp] theorem State.updLaunch_cur (u : Nat) (f : Launch → Launch) : (s.updLaunch u f).cur = s.cur := by unfold State.updLaunch; split <;> rfl
@[simp] theorem State.updLaunch_agenda (u : Nat) (f : Launch → Launch) : (s.updLaunch u f).agenda = s.agenda := by unfold State.updLaunch; split <;> rfl
@[simp] theorem State.updLaunch_nextId (u : Nat) (f : Launch → Launch) : (s.updLaunch u f).nextId = s.nextId := by unfold State.updLaunch; split <;> rfl
@[simp] theorem State.updLaunch_freeCtr (u : Nat) (f : Launch → Launch) : (s.updLaunch u f).freeCtr = s.freeCtr := by unfold State.updLaunch; split <;> rfl

/-! ### fresh, drawFree -/
@[simp] theorem State.fresh_time : s.fresh.2.time = s.time := rfl
@[simp] theorem State.drawFree_time : s.drawFree.2.time = s.time := rfl
@[simp] theorem State.fresh_waves : s.fresh.2.waves = s.waves := rfl
@[simp] theorem State.drawFree_waves : s.drawFree.2.waves = s.waves := rfl
@[simp] theorem State.fresh_wavex : s.fresh.2.wavex = s.wavex := rfl
@[simp] theorem State.drawFree_wavex : s.drawFree.2.wavex = s.wavex := rfl
@[simp] theorem State.fresh_units : s.fresh.2.units = s.units := rfl
@[simp] theorem State.drawFree_units : s.drawFree.2.units = s.units := rfl
@[simp] theorem State.fresh_cores : s.fresh.2.cores = s.cores := rfl
@[simp] theorem State.drawFree_cores : s.drawFree.2.cores = s.cores := rfl
@[simp] theorem State.fresh_dies : s.fresh.2.dies = s.dies := rfl
@[simp] theorem State.drawFree_dies : s.drawFree.2.dies = s.dies := rfl
@[simp] theorem State.fresh_ctxs : s.fresh.2.ctxs = s.ctxs := rfl
@[simp] theorem State.drawFree_ctxs : s.drawFree.2.ctxs = s.ctxs := rfl
@[simp] theorem State.fresh_homes : s.fresh.2.homes = s.homes := rfl
@[simp] theorem State.drawFree_homes : s.drawFree.2.homes = s.homes := rfl
@[simp] theorem State.fresh_queues : s.fresh.2.queues = s.queues := rfl
@[simp] theorem State.drawFree_queues : s.drawFree.2.queues = s.queues := rfl
@[simp] theorem State.fresh_hubs : s.fresh.2.hubs = s.hubs := rfl
@[simp] theorem State.drawFree_hubs : s.drawFree.2.hubs = s.hubs := rfl
@[simp] theorem State.fresh_cur : s.fresh.2.cur = s.cur := rfl
@[simp] theorem State.drawFree_cur : s.drawFree.2.cur = s.cur := rfl
@[simp] theorem State.fresh_agenda : s.fresh.2.agenda = s.agenda := rfl
@[simp] theorem State.drawFree_agenda : s.drawFree.2.agenda = s.agenda := rfl
@[simp] theorem State.drawFree_nextId : s.drawFree.2.nextId = s.nextId := rfl
@[simp] theorem State.fresh_freeCtr : s.fresh.2.freeCtr = s.freeCtr := rfl
@[simp] theorem State.fresh_nextId : s.fresh.2.nextId = s.nextId + 1 := rfl
@[simp] theorem State.drawFree_freeCtr : s.drawFree.2.freeCtr = s.freeCtr + 1 := rfl

end

/-! ### Tables -/

/-- What a table reads after a set: the value set at its key, and what it read before elsewhere. -/
@[simp] theorem Tbl.find_set {α : Type} (t : Tbl α) (k j : Nat) (a : α) :
    Tbl.find (Tbl.set t k a) j = if k = j then some a else Tbl.find t j := by
  induction t with
  | nil => simp [Tbl.set, Tbl.find]
  | cons p t ih =>
    obtain ⟨i, b⟩ := p
    simp only [Tbl.set]
    split
    · subst_vars; simp only [Tbl.find]; split <;> simp_all
    · split
      · simp only [Tbl.find]
      · simp only [Tbl.find, ih]; split <;> split <;> simp_all

@[simp] theorem Tbl.get_set {α : Type} (d : α) (t : Tbl α) (k j : Nat) (a : α) :
    Tbl.get d (Tbl.set t k a) j = if k = j then a else Tbl.get d t j := by
  simp only [Tbl.get, Tbl.find_set]; split <;> rfl

/-! ### The parts of the state after an update -/

section
variable (s : State)

theorem State.wave_setWave (w u : Nat) (x : Wave) : (s.setWave w x).wave u = if w = u then x else s.wave u := by
  simp [State.wave]
theorem State.wx_setWx (w u : Nat) (x : WaveX) : (s.setWx w x).wx u = if w = u then x else s.wx u := by
  simp [State.wx]
@[simp] theorem State.wave_updWave (w u : Nat) (f : Wave → Wave) :
    (s.updWave w f).wave u = if w = u then f (s.wave w) else s.wave u := by simp [State.wave]
@[simp] theorem State.wx_updWx (w u : Nat) (f : WaveX → WaveX) :
    (s.updWx w f).wx u = if w = u then f (s.wx w) else s.wx u := by simp [State.wx]
@[simp] theorem State.core_updCore (c d : Nat) (f : CoreSt → CoreSt) :
    (s.updCore c f).core d = if c = d then f (s.core c) else s.core d := by simp [State.core]
@[simp] theorem State.die_updDie (c d : Nat) (f : Die → Die) :
    (s.updDie c f).die d = if c = d then f (s.die c) else s.die d := by simp [State.die]
@[simp] theorem State.ctx_updCtx (c d : Nat) (f : Ctx → Ctx) :
    (s.updCtx c f).ctx d = if c = d then f (s.ctx c) else s.ctx d := by simp [State.ctx]
@[simp] theorem State.wave_updWx (w u : Nat) (f : WaveX → WaveX) : (s.updWx w f).wave u = s.wave u := rfl
@[simp] theorem State.wx_updWave (w u : Nat) (f : Wave → Wave) : (s.updWave w f).wx u = s.wx u := rfl
@[simp] theorem State.wave_updCore (c u : Nat) (f : CoreSt → CoreSt) : (s.updCore c f).wave u = s.wave u := rfl
@[simp] theorem State.wx_updCore (c u : Nat) (f : CoreSt → CoreSt) : (s.updCore c f).wx u = s.wx u := rfl
@[simp] theorem State.wave_updQuad (c q u : Nat) (f : Quad → Quad) : (s.updQuad c q f).wave u = s.wave u := rfl
@[simp] theorem State.wx_updQuad (c q u : Nat) (f : Quad → Quad) : (s.updQuad c q f).wx u = s.wx u := rfl
@[simp] theorem State.wave_updHomes (u : Nat) (f : Homes → Homes) : (s.updHomes f).wave u = s.wave u := rfl
@[simp] theorem State.wave_updHubs (u : Nat) (f : Hubs → Hubs) : (s.updHubs f).wave u = s.wave u := rfl
@[simp] theorem State.core_updWave (c u : Nat) (f : Wave → Wave) : (s.updWave u f).core c = s.core c := rfl
@[simp] theorem State.core_updWx (c u : Nat) (f : WaveX → WaveX) : (s.updWx u f).core c = s.core c := rfl
@[simp] theorem State.ctxOf_updWx (w u : Nat) (f : WaveX → WaveX) : (s.updWx u f).ctxOf w = s.ctxOf w := rfl
end

end Sys2Proof.Machine
end

