-- ==== Sys2Proof/Laws/Ending.lean ====
section
/-! SUPPORT. What the end of an instruction can do: it moves the frontier of the current wave and may give up its issue slot, and
changes no register, no memory and nothing of the rest of the module. -/

namespace Sys2Proof.Machine

/-- From `s` to `t` the wave `w` keeps every register, and nothing else of the module differs. -/
structure State.Moves (s t : State) (w : Nat) : Prop where
  regs : { t.wave w with frontier := (s.wave w).frontier } = s.wave w
  others : ∀ u, u ≠ w → t.wave u = s.wave u ∧ t.wx u = s.wx u
  ctrl : (s.wx w).keeps (t.wx w)
  cores : ∀ c, (s.core c).keeps (t.core c)
  units : t.units = s.units
  dies : t.dies = s.dies
  ctxs : t.ctxs = s.ctxs
  homes : t.homes = s.homes
  queues : t.queues = s.queues
  hubs : t.hubs = s.hubs
  time : t.time = s.time
  cur : t.cur = s.cur
  agenda : t.agenda = s.agenda

theorem WaveX.keeps_refl (y : WaveX) : y.keeps y := by simp [WaveX.keeps]
theorem WaveX.keeps_trans {a b c : WaveX} (h : a.keeps b) (k : b.keeps c) : a.keeps c := by
  simp only [WaveX.keeps] at *
  obtain ⟨h1, h2, h3, h4, h5, h6, h7, h8, h9⟩ := h
  obtain ⟨k1, k2, k3, k4, k5, k6, k7, k8, k9⟩ := k
  refine ⟨k1.trans h1, k2.trans h2, k3.trans h3, k4.trans h4, k5.trans h5, k6.trans h6, k7.trans h7, k8.trans h8, fun r => ?_⟩
  obtain ⟨r1, r2⟩ := h9 r
  obtain ⟨q1, q2⟩ := k9 r1
  exact ⟨q1, q2.trans r2⟩
theorem CoreSt.keeps_refl (c : CoreSt) : c.keeps c := by simp [CoreSt.keeps]
theorem CoreSt.keeps_trans {a b c : CoreSt} (h : a.keeps b) (k : b.keeps c) : a.keeps c := by
  simp only [CoreSt.keeps] at *
  obtain ⟨h1, h2, h3, h4, h5, h6, h7, h8, h9, h10, h11⟩ := h
  obtain ⟨k1, k2, k3, k4, k5, k6, k7, k8, k9, k10, k11⟩ := k
  exact ⟨k1.trans h1, k2.trans h2, k3.trans h3, k4.trans h4, k5.trans h5, k6.trans h6, k7.trans h7, k8.trans h8,
    k9.trans h9, k10.trans h10, fun q => (k11 q).trans (h11 q)⟩

theorem State.Moves.refl (s : State) (w : Nat) : s.Moves s w :=
  ⟨rfl, fun _ _ => ⟨rfl, rfl⟩, WaveX.keeps_refl _, fun _ => CoreSt.keeps_refl _, rfl, rfl, rfl, rfl, rfl, rfl, rfl, rfl, rfl⟩

theorem State.Moves.trans {s t r : State} {w : Nat} (h : s.Moves t w) (k : t.Moves r w) : s.Moves r w := by
  refine ⟨?_, fun u hu => ⟨((k.others u hu).1).trans (h.others u hu).1, ((k.others u hu).2).trans (h.others u hu).2⟩,
    WaveX.keeps_trans h.ctrl k.ctrl, fun c => CoreSt.keeps_trans (h.cores c) (k.cores c), k.units.trans h.units,
    k.dies.trans h.dies, k.ctxs.trans h.ctxs, k.homes.trans h.homes, k.queues.trans h.queues, k.hubs.trans h.hubs,
    k.time.trans h.time, k.cur.trans h.cur, k.agenda.trans h.agenda⟩
  have h1 := h.regs
  have k1 := k.regs
  have a : r.wave w = { t.wave w with frontier := (r.wave w).frontier } := by rw [← k1]
  have b : t.wave w = { s.wave w with frontier := (t.wave w).frontier } := by rw [← h1]
  rw [a, b]

/-- A change of the frontier of `w`. -/
theorem State.Moves.frontier (s : State) (w : Nat) (f : Wave → Wave)
    (h : ∀ x : Wave, { f x with frontier := x.frontier } = x) : s.Moves (s.updWave w f) w := by
  refine ⟨by simp [h], fun u hu => by simp [Ne.symm hu], by simp [WaveX.keeps_refl],
    fun c => by simp [CoreSt.keeps_refl], rfl, rfl, rfl, rfl, rfl, rfl, rfl, rfl, rfl⟩

/-- A change of the control state of `w` that the claims do not look at. -/
theorem State.Moves.control (s : State) (w : Nat) (f : WaveX → WaveX) (h : ∀ y : WaveX, y.keeps (f y)) :
    s.Moves (s.updWx w f) w := by
  refine ⟨rfl, fun u hu => by simp [Ne.symm hu], by simpa using h _,
    fun c => by simp [CoreSt.keeps_refl], rfl, rfl, rfl, rfl, rfl, rfl, rfl, rfl, rfl⟩

theorem State.freeSlot_moves (s : State) (w : Nat) : s.Moves (s.freeSlot w) w := by
  refine ⟨rfl, fun u _ => ⟨rfl, rfl⟩, WaveX.keeps_refl _, fun c => ?_, rfl, rfl, rfl, rfl, rfl, rfl, rfl, rfl, rfl⟩
  simp only [State.freeSlot, State.updQuad, State.core_updCore]
  split
  · subst_vars
    simp only [CoreSt.keeps, true_and]
    intro q
    simp only [CoreSt.quad, Tbl.get_set]
    split
    · subst_vars
      by_cases h : (Tbl.get ({} : Quad) (s.core (coreOf w)).quads (quadOf w)).holder = some w <;> simp [h]
    · rfl
  · exact CoreSt.keeps_refl _

theorem State.updIssuing_moves (s : State) (w : Nat) (f : Entry → Entry) : s.Moves (s.updIssuing w f) w := by
  apply State.Moves.frontier
  intro x
  split <;> rfl

theorem State.settle_moves (s : State) (w : Nat) : s.Moves (s.settle w) w := by
  unfold State.settle
  split
  · split
    · refine State.Moves.trans ?_ (State.freeSlot_moves _ _)
      exact State.Moves.frontier s w _ fun _ => rfl
    · exact State.Moves.refl s w
  · exact State.Moves.refl s w

theorem State.syncUp_moves (s : State) (w : Nat) : s.Moves (s.syncUp w) w := by
  unfold State.syncUp
  split
  · exact State.Moves.refl s w
  · split
    · exact State.Moves.frontier s w _ fun _ => rfl
    · exact State.Moves.refl s w

theorem State.block_moves (s : State) (w : Nat) (x : Wait) : s.Moves (s.block w x) w := by
  have k (s : State) : s.Moves ((s.updWx w fun y => { y with wait := some x }).freeSlot w) w :=
    (State.Moves.control s w _ fun y => by simp [WaveX.keeps]).trans (State.freeSlot_moves _ _)
  unfold State.block
  cases x <;> first | exact (State.updIssuing_moves s w _).trans (k _) | exact k _

theorem State.endClause_moves (s : State) (w : Nat) (ts : List (LaneMask × Dword)) (exit : LaneMask) (yielded : Bool) :
    s.Moves (s.endClause w ts exit yielded) w := by
  unfold State.endClause
  split
  · exact State.Moves.refl s w
  · refine State.Moves.trans ?_ (State.freeSlot_moves _ _)
    refine State.Moves.trans ?_ (State.Moves.control _ w _ fun y => by simp [WaveX.keeps])
    exact State.Moves.frontier s w _ fun _ => rfl

theorem State.clearProg_moves (s : State) (w : Nat) : s.Moves (s.clearProg w) w := by
  unfold State.clearProg
  split
  · rename_i hr
    exact ⟨rfl, fun u hu => by simp [Ne.symm hu], by simp [WaveX.keeps, hr],
      fun c => by simp [CoreSt.keeps_refl], rfl, rfl, rfl, rfl, rfl, rfl, rfl, rfl, rfl⟩
  · exact State.Moves.refl s w

theorem State.noteWrites_moves (s : State) (w : Nat) (regs : List Nat) : s.Moves (s.noteWrites w regs) w := by
  unfold State.noteWrites
  split
  · exact State.Moves.refl s w
  · exact State.Moves.control s w _ fun y => by simp [WaveX.keeps]

theorem State.advance_moves (s : State) (w : Nat) (yielded : Bool) : s.Moves (s.advance w yielded) w := by
  unfold State.advance
  split
  · exact State.Moves.refl s w
  · simp only
    split
    · exact (State.clearProg_moves s w).trans (State.updIssuing_moves _ _ _)
    · exact (State.clearProg_moves s w).trans (State.endClause_moves _ _ _ _ _)

/-- WHAT THE END OF AN INSTRUCTION CAN DO, whatever it was: from the state the effect leaves, the frontier moves. -/
theorem State.ended_moves (s : State) : s.Moves s.ended s.cur := by
  unfold State.ended Eff.finish
  exact (State.advance_moves s s.cur false).trans ((State.settle_moves _ _).trans (State.syncUp_moves _ _))

theorem Eff.finish_next (s : State) (w : Nat) : s.Moves ((Eff.next s).finish w) w := by
  unfold Eff.finish
  exact (State.advance_moves s w false).trans ((State.settle_moves _ _).trans (State.syncUp_moves _ _))

theorem Eff.finish_wait (x : Wait) (s : State) (w : Nat) : s.Moves ((Eff.wait x s).finish w) w := by
  unfold Eff.finish
  exact (State.block_moves s w x).trans ((State.settle_moves _ _).trans (State.syncUp_moves _ _))

theorem Eff.finish_jump (s : State) (ts : List (LaneMask × Dword)) (exit : LaneMask) (w : Nat) :
    s.Moves ((Eff.jump s ts exit).finish w) w := by
  unfold Eff.finish
  exact ((State.clearProg_moves s w).trans (State.endClause_moves _ w ts exit false)).trans ((State.settle_moves _ _).trans (State.syncUp_moves _ _))

theorem Eff.finish_demote (s : State) (w : Nat) : s.Moves ((Eff.demote s).finish w) w := by
  unfold Eff.finish
  exact (State.advance_moves s w true).trans ((State.settle_moves _ _).trans (State.syncUp_moves _ _))

theorem Eff.finish_stay (s : State) (w : Nat) : s.Moves ((Eff.stay s).finish w) w := by
  unfold Eff.finish
  exact (State.freeSlot_moves s w).trans ((State.settle_moves _ _).trans (State.syncUp_moves _ _))

theorem Eff.finish_gone (s : State) (w : Nat) : s.Moves ((Eff.gone s).finish w) w := by
  unfold Eff.finish
  exact (State.freeSlot_moves s w).trans (State.syncUp_moves _ _)

end Sys2Proof.Machine
end

