-- ==== Sys2Proof/Laws/Registers.lean ====
section
/-! SUPPORT. A register reads as it was last written: scalars, pairs, lanes of vector registers, predicates, and operands at the
width of a TYPE. -/

namespace Sys2Proof.Machine

theorem Lanes.at_of (f : Nat → Word) {l : Nat} (h : l < 32) : (Lanes.of f).at l = f l := by
  simp [Lanes.at, Lanes.of, List.getD, h]

@[simp] theorem Wave.sGet_sSet (x : Wave) (n k : Nat) (v : Word) : (x.sSet n v).sGet k = if n = k then v else x.sGet k := by
  simp [Wave.sSet, Wave.sGet]

theorem Wave.vGet_vSet (x : Wave) (r k l : Nat) (m : LaneMask) (f : Nat → Word) (h : l < 32) :
    (x.vSet r m f).vGet k l = if r = k then (if inMask m l then f l else x.vGet r l) else x.vGet k l := by
  simp only [Wave.vSet, Wave.vGet, Wave.vl, Tbl.get_set]
  split
  · rw [Lanes.at_of _ h]
  · rfl

@[simp] theorem Wave.vGet_sSet (x : Wave) (n r l : Nat) (v : Word) : (x.sSet n v).vGet r l = x.vGet r l := rfl
@[simp] theorem Wave.sGet_vSet (x : Wave) (n r : Nat) (m : LaneMask) (f : Nat → Word) : (x.vSet r m f).sGet n = x.sGet n := rfl
@[simp] theorem Wave.pGet_sSet (x : Wave) (n r : Nat) (v : Word) : (x.sSet n v).pGet r = x.pGet r := rfl
@[simp] theorem Wave.qGet_sSet (x : Wave) (n r : Nat) (v : Word) : (x.sSet n v).qGet r = x.qGet r := rfl
@[simp] theorem Wave.pGet_vSet (x : Wave) (n r : Nat) (m : LaneMask) (f : Nat → Word) : (x.vSet r m f).pGet n = x.pGet n := rfl
@[simp] theorem Wave.qGet_vSet (x : Wave) (n r : Nat) (m : LaneMask) (f : Nat → Word) : (x.vSet r m f).qGet n = x.qGet n := rfl
@[simp] theorem Wave.vGet_pSet (x : Wave) (i r l : Nat) (m v : LaneMask) : (x.pSet i m v).vGet r l = x.vGet r l := by
  unfold Wave.pSet; split <;> rfl
@[simp] theorem Wave.sGet_pSet (x : Wave) (i r : Nat) (m v : LaneMask) : (x.pSet i m v).sGet r = x.sGet r := by
  unfold Wave.pSet; split <;> rfl
@[simp] theorem Wave.vGet_qSet (x : Wave) (i r l : Nat) (v : Bool) : (x.qSet i v).vGet r l = x.vGet r l := by
  unfold Wave.qSet; split <;> rfl
@[simp] theorem Wave.sGet_qSet (x : Wave) (i r : Nat) (v : Bool) : (x.qSet i v).sGet r = x.sGet r := by
  unfold Wave.qSet; split <;> rfl

/-- A p predicate after a write: the lanes of the mask take the value; p7 stays true. -/
theorem Wave.pGet_pSet (x : Wave) (i k : Nat) (m v : LaneMask) :
    (x.pSet i m v).pGet k = if i = k ∧ i ≠ 7 then (x.pGet k &&& ~~~ m) ||| (v &&& m) else x.pGet k := by
  by_cases h : i = 7
  · simp [Wave.pSet, h]
  · by_cases e : i = k
    · subst e; simp [Wave.pSet, Wave.pGet, h]
    · simp [Wave.pSet, Wave.pGet, h, e]

@[simp] theorem Wave.qGet_qSet (x : Wave) (i k : Nat) (v : Bool) :
    (x.qSet i v).qGet k = if i = k ∧ i ≠ 7 then v else x.qGet k := by
  by_cases h : i = 7
  · simp [Wave.qSet, h]
  · by_cases e : i = k
    · subst e; simp [Wave.qSet, Wave.qGet, h]
    · simp [Wave.qSet, Wave.qGet, h, e]

/-! ## Halves of a pair -/

@[simp] theorem loHalf_pairOf (a b : Word) : loHalf (pairOf a b) = a := by
  apply BitVec.eq_of_getLsbD_eq; intro i hi
  simp only [loHalf, pairOf, BitVec.getLsbD_setWidth, BitVec.getLsbD_append]
  simp [hi]
@[simp] theorem hiHalf_pairOf (a b : Word) : hiHalf (pairOf a b) = b := by
  apply BitVec.eq_of_getLsbD_eq; intro i hi
  simp only [hiHalf, pairOf, BitVec.getLsbD_setWidth, BitVec.getLsbD_ushiftRight, BitVec.getLsbD_append]
  simp [hi]
@[simp] theorem pairOf_halves (v : Dword) : pairOf (loHalf v) (hiHalf v) = v := by
  apply BitVec.eq_of_getLsbD_eq; intro i hi
  simp only [hiHalf, loHalf, pairOf, BitVec.getLsbD_setWidth, BitVec.getLsbD_ushiftRight, BitVec.getLsbD_append]
  split
  · simp [*]
  · rename_i h
    have : i - 32 < 32 := by omega
    have e : 32 + (i - 32) = i := by omega
    simp [this, e]

/-! ## Results -/

/-- A scalar destination that decode lets through: a scalar, or 0x3FF. -/
theorem Use.dstS_legal {o : Operand} {n : Nat} (h : (uDstS o n).legal = true) : (∃ k, o = .sca k) ∨ o = .zero := by
  cases o <;> simp_all [Use.legal, uDstS]

/-- A vector destination that decode lets through. -/
theorem Use.dstV_legal {o : Operand} {n : Nat} (h : (uDstV o n).legal = true) : (∃ k, o = .vec k) ∨ o = .zero := by
  cases o <;> simp_all [Use.legal, uDstV]

/-- A scalar result reads back at the width of its TYPE. -/
theorem Wave.srcT_putST (x : Wave) (ty n l : Nat) (v : Dword) :
    (x.putST ty (.sca n) v).srcT ty (.sca n) l = if wide ty then v else (loHalf v).setWidth 64 := by
  simp only [Wave.putST, Wave.srcT]
  split
  · simp [Wave.putS64, Wave.sPairSet, Wave.src64, Wave.sPair]
  · simp [Wave.putS, Wave.src]

/-- A vector result reads back in the lanes it was written in. -/
theorem Wave.srcT_putVT (x : Wave) (ty : Nat) (n : BitVec 8) (l : Nat) (m : LaneMask) (f : Nat → Dword) (h : l < 32)
    (hm : inMask m l = true) :
    (x.putVT ty (.vec n) m f).srcT ty (.vec n) l = if wide ty then f l else (loHalf (f l)).setWidth 64 := by
  simp only [Wave.putVT, Wave.srcT]
  split
  · simp [Wave.putV64, Wave.src64, Wave.vPair, Wave.vGet_vSet _ _ _ _ _ _ h, hm]
  · simp [Wave.putV, Wave.src, Wave.vGet_vSet _ _ _ _ _ _ h, hm]

end Sys2Proof.Machine
end

