-- ==== Sys2Proof/Laws/Integer.lean ====
section
/-! SUPPORT. Elements of packed words: what was packed is read back, wrapped or clamped. -/

namespace Sys2Proof.Machine

theorem packBits_cons (w x : Nat) (l : List Nat) : packBits w (x :: l) = packBits w l * 2 ^ w + x % 2 ^ w := rfl

theorem packBits_lt (w : Nat) (l : List Nat) : packBits w l < 2 ^ (w * l.length) := by
  induction l with
  | nil => simp [packBits]
  | cons x t ih =>
    rw [packBits_cons, List.length_cons, Nat.mul_succ, Nat.pow_add]
    have h : x % 2 ^ w < 2 ^ w := Nat.mod_lt _ (Nat.two_pow_pos w)
    calc packBits w t * 2 ^ w + x % 2 ^ w < packBits w t * 2 ^ w + 2 ^ w := by omega
      _ = (packBits w t + 1) * 2 ^ w := by rw [Nat.add_mul, Nat.one_mul]
      _ ≤ 2 ^ (w * t.length) * 2 ^ w := Nat.mul_le_mul_right _ ih

/-- Field `i` of packed fields is the value packed there. -/
theorem bitsOf_packBits (w : Nat) (l : List Nat) (i : Nat) (h : i < l.length) :
    bitsOf (packBits w l) (w * i) w = l[i] % 2 ^ w := by
  induction l generalizing i with
  | nil => simp at h
  | cons x t ih =>
    rw [packBits_cons]
    cases i with
    | zero => simp [bitsOf, Nat.add_mod]
    | succ j =>
      have h' : j < t.length := by simpa using h
      rw [List.getElem_cons_succ, ← ih j h']
      simp only [bitsOf, Nat.shiftRight_eq_div_pow, Nat.mul_succ, Nat.add_comm (w * j) w, Nat.pow_add]
      rw [← Nat.div_div_eq_div_mul]
      congr 2
      rw [Nat.add_comm, Nat.add_mul_div_right _ _ (Nat.two_pow_pos w), Nat.div_eq_of_lt (Nat.mod_lt _ (Nat.two_pow_pos w)),
        Nat.zero_add]

/-- The value of w bits that an integer leaves, as a signed number. -/
theorem sext_wrapN {w : Nat} (h : 0 < w) (v : Int) : sext w (wrapN w v) = Int.bmod v (2 ^ w) := by
  obtain ⟨k, rfl⟩ : ∃ k, w = k + 1 := ⟨w - 1, by omega⟩
  have p2 : (2 : Int) ^ (k + 1) = 2 * 2 ^ k := by rw [Int.pow_succ]; omega
  have q2 : (2 : Nat) ^ (k + 1) = 2 * 2 ^ k := by rw [Nat.pow_succ]; omega
  have e : ((2 ^ k : Nat) : Int) = 2 ^ k := by norm_cast
  have hk : (0 : Int) < 2 ^ k := by positivity
  have h1 : 0 ≤ v % 2 ^ (k + 1) := Int.emod_nonneg _ (by omega)
  have h2 : v % 2 ^ (k + 1) < 2 ^ (k + 1) := Int.emod_lt_of_pos _ (by omega)
  simp only [sext, wrapN, Int.bmod, Nat.cast_pow, Nat.cast_ofNat, Nat.add_sub_cancel]
  rw [if_neg (by omega)]
  have h3 : (v % 2 ^ (k + 1)).toNat % 2 ^ (k + 1) = (v % 2 ^ (k + 1)).toNat := Nat.mod_eq_of_lt (by zify; omega)
  rw [h3]
  generalize v % 2 ^ (k + 1) = r at *
  have h4 : (r.toNat : Int) = r := Int.toNat_of_nonneg h1
  split <;> split <;> omega

theorem wrapN_lt (w : Nat) (v : Int) : wrapN w v < 2 ^ w := by
  have h : (0 : Int) < 2 ^ w := by positivity
  have h1 : 0 ≤ v % 2 ^ w := Int.emod_nonneg _ (by omega)
  have h2 : v % 2 ^ w < 2 ^ w := Int.emod_lt_of_pos _ h
  simp only [wrapN]; zify; omega

theorem elemW_mul (ty : Nat) : elemW ty * elemN ty = if wide ty then 64 else 32 := by
  simp only [elemW, elemN, wide]
  by_cases h1 : ty ≤ 1 <;> by_cases h2 : ty ≤ 3 <;> by_cases h3 : ty ≤ 5 <;> simp [h1, h2, h3] <;> omega

theorem elemW_pos (ty : Nat) : 0 < elemW ty := by
  simp only [elemW]; repeat' split
  all_goals omega

theorem fitI_lt (ty : Nat) (sat : Bool) (v : Int) : fitI ty sat v < 2 ^ elemW ty := wrapN_lt _ _

/-- AN ELEMENT OF A PACKED RESULT is the exact value, clamped or wrapped. -/
theorem elemI_packI (ty : Nat) (sat : Bool) (g : Nat → Int) {k : Nat} (h : k < elemN ty) :
    elemI ty (packI ty sat g) k = fitted ty sat (g k) := by
  have hw := elemW_pos ty
  set w := elemW ty with hwd
  have hlen : packBits w ((List.range (elemN ty)).map fun i => fitI ty sat (g i)) < 2 ^ 64 := by
    refine lt_of_lt_of_le (packBits_lt _ _) ?_
    apply Nat.pow_le_pow_right (by omega)
    simp only [List.length_map, List.length_range, hwd, elemW_mul]; split <;> omega
  have hn : (packI ty sat g).toNat = packBits w ((List.range (elemN ty)).map fun i => fitI ty sat (g i)) := by
    simp only [packI, BitVec.toNat_ofNat, ← hwd]; exact Nat.mod_eq_of_lt hlen
  have hf : bitsOf (packI ty sat g).toNat (w * k) w = fitI ty sat (g k) := by
    rw [hn, bitsOf_packBits _ _ _ (by simpa using h)]
    simp only [List.getElem_map, List.getElem_range]
    exact Nat.mod_eq_of_lt (fitI_lt _ _ _)
  have hs : sext w ((packI ty sat g).toNat >>> (w * k)) = sext w (fitI ty sat (g k)) := by
    rw [← hf]; simp only [sext, bitsOf, Nat.mod_mod]
  obtain ⟨m, hm⟩ : ∃ m, w = m + 1 := ⟨w - 1, by omega⟩
  have hp : (0 : Int) < 2 ^ m := by positivity
  have p2 : (2 : Int) ^ w = 2 * 2 ^ m := by rw [hm, Int.pow_succ]; omega
  have hb : ∀ z : Int, -(2 ^ m) ≤ z → z < 2 ^ m → Int.bmod z (2 ^ w) = z := by
    intro z h1 h2
    apply Int.bmod_eq_of_le <;> · push_cast; omega
  simp only [elemI, ← hwd, fitted]
  cases hsg : isSigned ty
  · simp only [Bool.false_eq_true, if_false, hf, fitI, satI, hsg, clampI, ← hwd]
    cases sat
    · simp only [Bool.false_eq_true, if_false, wrapN]
      rw [Int.toNat_of_nonneg (Int.emod_nonneg _ (by omega))]
    · simp only [if_true]
      have : ∀ z : Int, 0 ≤ z → z < 2 ^ w → (wrapN w z : Int) = z := by
        intro z h1 h2
        rw [wrapN, Int.emod_eq_of_lt h1 h2, Int.toNat_of_nonneg h1]
      split
      · rw [this 0 (by omega) (by omega)]; omega
      · split
        · rw [this _ (by omega) (by omega)]; omega
        · rw [this _ (by omega) (by omega)]; omega
  · simp only [if_true, hs, fitI, sext_wrapN hw, satI, hsg, clampI, ← hwd]
    cases sat
    · simp
    · simp only [if_true, hm, Nat.add_sub_cancel] at *
      split
      · rw [hb _ (by omega) (by omega)]; omega
      · split
        · rw [hb _ (by omega) (by omega)]; omega
        · rw [hb _ (by omega) (by omega)]; omega

/-- The low half of a word holds every element of a TYPE that is no pair. -/
theorem elemI_low {ty : Nat} (h : wide ty = false) (v : Dword) {k : Nat} (hk : k < elemN ty) :
    elemI ty ((loHalf v).setWidth 64) k = elemI ty v k := by
  have hm := elemW_mul ty
  rw [h] at hm; simp only [Bool.false_eq_true, if_false] at hm
  have hn : ((loHalf v).setWidth 64).toNat = v.toNat % 2 ^ 32 := by
    simp [loHalf]; omega
  have hle : elemW ty * k + elemW ty ≤ 32 := by
    rw [← Nat.mul_succ, ← hm]; exact Nat.mul_le_mul_left _ hk
  have key : (v.toNat % 2 ^ 32) >>> (elemW ty * k) % 2 ^ elemW ty = v.toNat >>> (elemW ty * k) % 2 ^ elemW ty := by
    apply Nat.eq_of_testBit_eq; intro i
    simp only [Nat.testBit_mod_two_pow, Nat.testBit_shiftRight]
    by_cases hi : i < elemW ty
    · simp [hi, show elemW ty * k + i < 32 by omega]
    · simp [hi]
  simp only [elemI, hn, bitsOf, sext, key]

end Sys2Proof.Machine
end

