-- ==== Sys2Proof/Laws/Issue.lean ====
section
/-! SUPPORT. The course of one instruction: what `issue` answers when an instruction performs, and what its end leaves of the
registers, of memory and of the rest of the module. -/

namespace Sys2Proof.Machine

/-- An instruction that performs does what its body does in its ACTIVE lanes, and then ends as the body says. -/
theorem issue_performs {s : State} {guard : Wave → LaneMask} {g : Sig} (once : Bool) (body : At → State → Eff)
    (h : s.performs guard g = true) :
    issue guard g once s body = .next (((body (s.sees guard) s).finish s.cur).noteWrites s.cur g.dests) := by
  simp only [State.performs, Bool.and_eq_true, decide_eq_true_eq, Bool.or_eq_true, Bool.not_eq_true'] at h
  obtain ⟨⟨⟨⟨⟨⟨⟨⟨⟨hi, h0⟩, hl⟩, hd⟩, hm⟩, ht⟩, hf⟩, hx⟩, he⟩, hs⟩ := h
  obtain ⟨e, hi⟩ := Option.isSome_iff_exists.mp hi
  have hen : s.entry = e := by simp [State.entry, hi]
  rw [hen] at h0 hl hd
  have hl' : e.left = none := by simpa using hl
  simp only [State.active, hen] at hm hf hx he hs
  simp only [issue, hi, hl', State.sees, State.active, hen]
  generalize e.mask &&& guard (s.wave s.cur) &&& ~~~ e.cut = m at *
  have hg : g.trap (s.wave s.cur) (s.wx s.cur).handler.isSome = none := by simpa using ht
  have all : m &&& ~~~(0 : LaneMask) = m := BitVec.and_allOnes
  have none' : (if g.noTx then s.txLanes s.cur m else 0) = 0 := by
    cases hn : g.noTx <;> simp_all
  simp only [hm, if_false, issueChecked, h0, hl', hd, hg, hf, none', all, he, hs, ne_eq, not_true_eq_false, and_false,
    if_true, decide_false, Option.isSome_none, Bool.or_false, Bool.not_true, Bool.false_eq_true]

theorem issueQ_performs {s : State} {f : BitVec 3} {neg : Bool} {g : Sig} (body : At → State → Eff)
    (h : s.performs (byQ f neg) g = true) :
    issueQ f neg g s body = .next (((body (s.sees (byQ f neg)) s).finish s.cur).noteWrites s.cur g.dests) := issue_performs true body h

theorem issueP_performs {s : State} {f : BitVec 3} {neg : Bool} {g : Sig} (body : At → State → Eff)
    (h : s.performs (byP f neg) g = true) :
    issueP f neg g s body = .next (((body (s.sees (byP f neg)) s).finish s.cur).noteWrites s.cur g.dests) := issue_performs false body h

theorem issueP1_performs {s : State} {f : BitVec 3} {neg : Bool} {g : Sig} (body : At → State → Eff)
    (h : s.performs (byP f neg) g = true) :
    issueP1 f neg g s body = .next (((body (s.sees (byP f neg)) s).finish s.cur).noteWrites s.cur g.dests) := issue_performs true body h

end Sys2Proof.Machine
end

