-- ==== Sys2Proof/Laws/Memory.lean ====
section
/-! SUPPORT. Memory as a list of cells: every write keeps the canonical form, and a byte reads as it was last written. -/

namespace Sys2Proof.Machine

theorem Mem.wfFrom_mono {m : List Host.Cell} {a b : Nat} (h : a ≤ b) (w : Mem.wfFrom b m = true) :
    Mem.wfFrom a m = true := by
  cases m with
  | nil => rfl
  | cons p t =>
    simp only [Mem.wfFrom, Bool.and_eq_true, decide_eq_true_eq] at *
    exact ⟨⟨Nat.le_trans h w.1.1, w.1.2⟩, w.2⟩

/-- A write at or above a bound keeps the form above it. -/
theorem Mem.wfFrom_write {m : List Host.Cell} {lo a : Nat} (b : Byte) (h : lo ≤ a) (w : Mem.wfFrom lo m = true) :
    Mem.wfFrom lo (Mem.write m a b) = true := by
  induction m generalizing lo with
  | nil => simp only [Mem.write]; split <;> simp_all [Mem.wfFrom]
  | cons p t ih =>
    obtain ⟨k, c⟩ := p
    simp only [Mem.wfFrom, Bool.and_eq_true, decide_eq_true_eq] at w
    obtain ⟨⟨h1, h2⟩, h3⟩ := w
    simp only [Mem.write]
    split
    · subst_vars
      split
      · exact Mem.wfFrom_mono (by omega) h3
      · simp_all [Mem.wfFrom]
    · split
      · split
        · simp_all [Mem.wfFrom]
        · (simp_all [Mem.wfFrom]; try omega)
      · simp_all [Mem.wfFrom]; exact ih (by omega) h3

theorem Mem.wf_write {m : List Host.Cell} (a : Nat) (b : Byte) (w : Mem.wf m = true) :
    Mem.wf (Mem.write m a b) = true := Mem.wfFrom_write b (Nat.zero_le a) w

theorem Mem.wf_writeN {m : List Host.Cell} (a : Nat) (l : List Byte) (w : Mem.wf m = true) :
    Mem.wf (Mem.writeN m a l) = true := by
  induction l generalizing m a with
  | nil => exact w
  | cons b t ih => exact ih _ (Mem.wf_write a b w)

theorem Mem.wf_writeMasked {m : List Host.Cell} (a : Nat) (l : List Byte) (k : List Bool) (w : Mem.wf m = true) :
    Mem.wf (Mem.writeMasked m a l k) = true := by
  induction l generalizing m a k with
  | nil => cases k <;> exact w
  | cons b t ih =>
    cases k with
    | nil => exact w
    | cons c r => simp only [Mem.writeMasked]; apply ih; split <;> simp_all [Mem.wf_write]

theorem Mem.read_below {m : List Host.Cell} {lo a : Nat} (h : a < lo) (w : Mem.wfFrom lo m = true) :
    Mem.read m a = 0 := by
  cases m with
  | nil => rfl
  | cons p t =>
    simp only [Mem.wfFrom, Bool.and_eq_true, decide_eq_true_eq] at w
    simp only [Mem.read]; split
    · omega
    · split
      · rfl
      · omega

/-- A byte reads as it was written, and every other byte as before. -/
theorem Mem.read_write {m : List Host.Cell} {lo : Nat} (a x : Nat) (b : Byte) (w : Mem.wfFrom lo m = true) :
    Mem.read (Mem.write m a b) x = if x = a then b else Mem.read m x := by
  induction m generalizing lo with
  | nil =>
    by_cases hb : b = 0#8 <;> by_cases e : x = a <;> simp [Mem.write, Mem.read, hb, e]
    omega
  | cons p t ih =>
    obtain ⟨k, c⟩ := p
    simp only [Mem.wfFrom, Bool.and_eq_true, decide_eq_true_eq] at w
    obtain ⟨⟨h1, h2⟩, h3⟩ := w
    by_cases hk : k = a
    · subst hk
      by_cases hb : b = 0#8 <;> by_cases e : x = k
      · subst e; simp [Mem.write, hb, Mem.read_below (Nat.lt_succ_self x) h3]
      · simp only [Mem.write, hb, if_true, Mem.read, e, if_false, if_neg (Ne.symm e)]
        split
        · rename_i lt; exact Mem.read_below (Nat.lt_succ_of_lt lt) h3
        · rfl
      · subst e; simp [Mem.write, hb, Mem.read]
      · simp [Mem.write, hb, Mem.read, e, Ne.symm e]
    · by_cases hl : a < k
      · by_cases hb : b = 0#8 <;> by_cases e : x = a
        · subst e; simp [Mem.write, hk, hl, hb, Mem.read]
        · simp [Mem.write, hk, hl, hb, e]
        · subst e; simp [Mem.write, hk, hl, hb, Mem.read]
        · simp only [Mem.write, hk, hl, hb, if_true, if_false, Mem.read, e, if_neg (Ne.symm e)]
          by_cases lt : x < a
          · simp only [lt, if_true]
            have : ¬ k = x := by omega
            have h : x < k := by omega
            simp [this, h]
          · simp [lt]
      · by_cases e : x = a
        · subst e
          have : ¬ x < k := hl
          simp [Mem.write, hk, hl, Mem.read, ih h3]
        · simp [Mem.write, hk, hl, Mem.read, ih h3, e]

end Sys2Proof.Machine
end

