-- ==== Sys2Proof/Laws/Performs.lean ====
section
/-! SUPPORT. What an instruction that changes registers alone leaves: the registers as its function gives them, and nothing else
but the frontier and the issue slot. -/

namespace Sys2Proof.Machine

/-- Two waves whose registers agree: everything but the frontier. -/
def Wave.alike (x y : Wave) : Prop := { x with frontier := y.frontier } = y

theorem Wave.alike_srcT {x y : Wave} (h : x.alike y) (ty : Nat) (o : Operand) (l : Nat) : x.srcT ty o l = y.srcT ty o l := by
  rw [← h]; rfl
theorem Wave.alike_elem {x y : Wave} (h : x.alike y) (ty : Nat) (o : Operand) (l k : Nat) : x.elem ty o l k = y.elem ty o l k := by
  rw [← h]; rfl
theorem Wave.alike_src {x y : Wave} (h : x.alike y) (c : CK) (o : Operand) (l : Nat) : x.src c o l = y.src c o l := by
  rw [← h]; rfl
theorem Wave.alike_src64 {x y : Wave} (h : x.alike y) (o : Operand) (l : Nat) : x.src64 o l = y.src64 o l := by
  rw [← h]; rfl
theorem Wave.alike_sGet {x y : Wave} (h : x.alike y) (n : Nat) : x.sGet n = y.sGet n := by rw [← h]; rfl
theorem Wave.alike_vGet {x y : Wave} (h : x.alike y) (r l : Nat) : x.vGet r l = y.vGet r l := by rw [← h]; rfl
theorem Wave.alike_pGet {x y : Wave} (h : x.alike y) (n : Nat) : x.pGet n = y.pGet n := by rw [← h]; rfl
theorem Wave.alike_qGet {x y : Wave} (h : x.alike y) (n : Nat) : x.qGet n = y.qGet n := by rw [← h]; rfl

theorem State.Moves.alike {s t : State} {w : Nat} (h : s.Moves t w) : (t.wave w).alike (s.wave w) := h.regs

/-- The state after an instruction whose body ends with `next`. -/
theorem next_moves (s : State) (f : Wave → Wave) (ds : List Nat) :
    (s.updWave s.cur f).Moves (((Eff.next (s.updWave s.cur f)).finish s.cur).noteWrites s.cur ds) s.cur :=
  (Eff.finish_next _ _).trans (State.noteWrites_moves _ _ _)

theorem next_me (s : State) (f : Wave → Wave) (ds : List Nat) :
    ((((Eff.next (s.updWave s.cur f)).finish s.cur).noteWrites s.cur ds).me).alike (f s.me) := by
  have h := next_moves s f ds
  have c : (((Eff.next (s.updWave s.cur f)).finish s.cur).noteWrites s.cur ds).cur = s.cur := h.cur
  simp only [State.me, c]
  have := h.alike
  simpa using this

theorem scalarOp_performs {s : State} {guard : BitVec 3} {neg : Bool} {g : Sig} {f : Wave → Wave}
    (h : s.performs (byQ guard neg) g = true) :
    ∃ t, scalarOp guard neg g f s = .next t ∧ t.me.alike (f s.me) ∧ (s.updWave s.cur f).Moves t s.cur :=
  ⟨_, issueQ_performs _ h, next_me s f _, next_moves s f _⟩

theorem vectorOp_performs {s : State} {guard : BitVec 3} {neg : Bool} {g : Sig} {f : Wave → LaneMask → Wave}
    (h : s.performs (byP guard neg) g = true) :
    ∃ t, vectorOp guard neg g f s = .next t ∧ t.me.alike (f s.me (s.active (byP guard neg)))
      ∧ (s.updWave s.cur fun x => f x (s.active (byP guard neg))).Moves t s.cur :=
  ⟨_, issueP_performs _ h, next_me s _ _, next_moves s _ _⟩

/-! ## What decode has checked -/

/-- An instruction that performs has passed the checks of decode. -/
theorem State.performs_trap {s : State} {guard : Wave → LaneMask} {g : Sig} (h : s.performs guard g = true) :
    g.trap (s.wave s.cur) (s.wx s.cur).handler.isSome = none := by
  simp only [State.performs, Bool.and_eq_true] at h
  simpa using h.1.1.1.1.2

theorem State.performs_legal {s : State} {guard : Wave → LaneMask} {g : Sig} (h : s.performs guard g = true) :
    g.bad = false ∧ ∀ u ∈ g.uses, u.legal = true := by
  have h' := State.performs_trap h
  simp only [Sig.trap] at h'
  split at h'
  · simp at h'
  · rename_i hb
    simp only [Bool.or_eq_true, not_or, Bool.not_eq_true, List.any_eq_false] at hb
    exact ⟨hb.1, fun u hu => by simpa using hb.2 u hu⟩

/-- The ACTIVE lanes of an instruction that performs are some. -/
theorem State.performs_active {s : State} {guard : Wave → LaneMask} {g : Sig} (h : s.performs guard g = true) :
    s.active guard ≠ 0 := by
  simp only [State.performs, Bool.and_eq_true, decide_eq_true_eq] at h
  exact h.1.1.1.1.1.2

end Sys2Proof.Machine
end

