-- ==== Sys2Proof/Tests/Slice0.lean ====
section
/-! SUPPORT. Tests: what WellFormed refuses, words of the spec decoded, single steps, and a witness of the hypotheses of every
statement. Expected values stand in the spec, or follow from its rules by hand. -/

namespace Sys2Proof.Tests
open Sys2Proof Sys2Proof.Machine
set_option Elab.async false

/-! ## Operands and states to test with -/

def aS : FmtA := ⟨7, false, .sca 8, .sca 10, false, .sca 12, false, .sca 14, false, 0⟩
def aV : FmtA := ⟨7, false, .vec 8, .vec 10, false, .vec 12, false, .vec 14, false, 0⟩
def aZ : FmtA := ⟨7, false, .zero, .zero, false, .zero, false, .zero, false, 0⟩
def bS : FmtB := ⟨7, false, .sca 8, .sca 10, false, 0, 0⟩
def bV : FmtB := ⟨7, false, .vec 8, .vec 10, false, 0, 0⟩
def bZ : FmtB := ⟨7, false, .zero, .zero, false, 0, 0⟩
def cS : FmtC := ⟨7, false, .sca 8, 0, 0⟩
def cV : FmtC := ⟨7, false, .vec 8, 0, 0⟩
def pS : FmtP := ⟨7, false, 1, 2, 0, 0, .sca 8, false, .sca 10, false, .zero, false, 0, 0⟩
def pV : FmtP := ⟨7, false, 1, 2, 0, 0, .vec 4, false, .vec 10, false, .zero, false, 0, 0⟩
def mS : FmtM := ⟨7, false, .sca 8, .sca 10, false, .zero, false, 0, 6, 2, 0, false⟩
def mV : FmtM := ⟨7, false, .vec 8, .vec 10, false, .vec 12, false, 0, 6, 2, 0, false⟩
def xZ : FmtX := ⟨7, false, .zero, 0, 0⟩
def xS : FmtX := ⟨7, false, .sca 8, 0, 0⟩

/-- One wave of 256 vector and 384 scalar registers, which stands at a clause of one instruction at 0x1000. -/
def lone : State := State.reset.loaded 0

/-- The state that an instruction leads to. -/
def after (s : State) (i : Instr) : State := match exec i s with | .next t => t | _ => s
def answers (s : State) (i : Instr) : Bool := match exec i s with | .next _ => true | _ => false

/-- The instruction performs in a state, under the signature that its statement names, and answers a next state. -/
def runs (s : State) (g : Wave → LaneMask) (i : Instr) : Bool := s.performs g (s.sigOf s.cur i) && answers s i
def q7 : Wave → LaneMask := byQ 7 false
def p7 : Wave → LaneMask := byP 7 false

def withS (s : State) (vs : List (Nat × Nat)) : State :=
  s.updWave s.cur fun x => { x with s := vs.foldl (fun t p => Tbl.set t p.1 (BitVec.ofNat 32 p.2)) x.s }
def withV (s : State) (vs : List (Nat × List Nat)) : State :=
  s.updWave s.cur fun x => vs.foldl (fun x p => x.vSet p.1 allLanes fun l => BitVec.ofNat 32 (p.2.getD l 0)) x
def allV (n : Nat) : List Nat := List.replicate 32 n

/-! ## WellFormed refuses -/

theorem test_wf_scalar : (Instr.sadd { aS with srcA := .sca 384 }).wf = false
      ∧ (Instr.sadd { aS with srcA := .sca 383 }).wf = true := by decide
theorem test_wf_constant : (Instr.fadd { aV with srcB := .con 0x70 }).wf = false
      ∧ (Instr.fadd { aV with srcB := .con 0x6F }).wf = true := by decide
theorem test_wf_reserved : (Instr.smov { aS with srcA := .resv 0x2EF }).wf = false ∧ (Instr.smov { aS with srcA := .resv 0x3FF }).wf = false
    ∧ (Instr.smov { aS with srcA := .resv 0x2F0 }).wf = true := by decide
theorem test_wf_formats : [Instr.vadd { aV with dst := .sca 384 }, .vadd { aV with srcC := .sca 384 }, .saddi { bS with dst := .sca 384 },
    .saddi { bS with srcA := .sca 384 }, .smovi { cS with dst := .sca 384 }, .scmp { pS with srcA := .sca 384 },
          .vcmp { pV with srcB := .sca 384 },
    .plog { pV with srcC := .sca 384 }, .ld { mV with data := .sca 384 }, .st { mV with addr := .sca 384 },
    .cas { mV with data2 := .sca 384 }, .call { xZ with link := .sca 384 }].all (fun i => i.wf = false) = true := by decide
theorem test_wf_cwr : [Instr.cwr { bS with imm24 := 0x006 }, .progidxWrite { bS with imm24 := 0x010 },
      .dcCounterWrite { bS with imm24 := 0x016 },
    .btdWrite { bS with imm24 := 0x180 }, .cvcfgWrite { bS with imm24 := 0x040 }, .mapspillWrite { bS with imm24 := 0x01B },
    .xringWrite { bS with imm24 := 0x01A }, .txlogWrite { bS with imm24 := 0x019 }, .txretryWrite { bS with imm24 := 0x018 }].all
      (fun i => i.wf = false) = true
    ∧ [Instr.cwr { bS with imm24 := 0x040 }, .progidxWrite { bS with imm24 := 0x006 }, .dcCounterWrite { bS with imm24 := 0x015 },
    .btdWrite { bS with imm24 := 0x17F }, .cvcfgWrite { bS with imm24 := 0x05F }, .mapspillWrite { bS with imm24 := 0x01A },
    .xringWrite { bS with imm24 := 0x01B }, .txlogWrite { bS with imm24 := 0x018 }, .txretryWrite { bS with imm24 := 0x019 }].all
      (fun i => i.wf) = true := by decide
theorem test_wf_events : [Instr.shareStart 84 0, .shareStart 0 4, .clusterPlace 0 64, .ownerChange 84, .stepRequest 0 5,
      .strikeReportSlice 0 8 0 0,
    .strikeReportRouter 0 8 0 0 true, .strikeReportHub 2 0 0 0 0, .xformRequestStart 0 2, .unitPopStart 1344, .coreScrubEnd 1344 true,
    .issueChoice 5376, .waveComplete 129024, .mirrorCopyDone 0 256, .doorbellWrite 64 0, .migrationMove 0 0 1024 true,
    .peerRequestArrive 1024 0 0 [], .linkFlowStop 16 0, .linkTrainingComplete 0 1024 true, .cciSegmentLoad (2 ^ 32) true [],
          .roundComplete 0 16].all
      (fun i => i.wf = false) = true := by decide
theorem test_wf_unassigned : (Instr.unassignedOpcode 0x02B).wf = false ∧ (Instr.unassignedOpcode 0x02C).wf = true := by decide

/-! ## Words of the spec -/

/-- Table 11.11, 12.5 and the words of chapters 12 to 15, one to each family. -/
theorem test_decode_scalar : decode 0x0000000908421C19 = .saddi ⟨7, false, .sca 8, .sca 8, false, 1, 0⟩
    ∧ decode 0x04FFD429080E5C18 = .scmp ⟨7, false, 1, 7, 0, 0, .sca 8, false, .con 5, false, .zero, false, 2, 0⟩ := by decide
theorem test_decode_control : decode 0x0000000000FFC480 = .bra ⟨1, false, .zero, 0, 0⟩
    ∧ decode 0x00FFDFFBFFFFDC86 = .exit ⟨7, false, .zero, .zero, false, .zero, false, .zero, false, 0⟩
    ∧ decode 0x00FFDFFA81FFC493 = .hret ⟨1, false, .zero, .con 1, false, .zero, false, .zero, false, 0⟩ := by decide
theorem test_decode_vector : decode 0x02FFD4800200DD20 = .shfl ⟨7, false, .vec 3, .vec 2, false, .con 16, false, .zero, false,
      1⟩ := by decide
theorem test_decode_float : decode 0x00FFC00800009D80 = .fadd ⟨7, false, .vec 2, .vec 0, false, .vec 1, false, .zero, false, 0⟩
    ∧ decode 0x10FFDFF805018D89 = .frsq ⟨3, false, .vec 6, .vec 5, false, .zero, false, .zero, false, 8⟩ := by decide
theorem test_decode_memory : decode 0x0B011FF80400AA01 = .st ⟨2, true, .vec 2, .vec 4, false, .zero, false, 4, 6, 2, 0, false⟩
    ∧ decode 0x0000006BFFFFDE08 = .fence ⟨7, false, .zero, .zero, false, 13, 0⟩ := by decide
theorem test_decode_atomic : decode 0x090C006004029E80 = .atom ⟨7, false, .vec 10, .vec 4, false, .vec 12, false, 0x30, 2, 2, 0,
      false⟩ := by decide
theorem test_decode_bank : decode 0x0245C8B114FFDF01 = .cvset ⟨7, false, .zero, .sca 20, false, .sca 22, false, .sca 23, false, 1⟩
    ∧ decode 0x46FFC0A010FFDF02 = .bmac ⟨7, false, .zero, .vec 16, false, .vec 20, false, .zero, false, 0x23⟩ := by decide
theorem test_decode_accumulator : decode 0x06FFD402820A1F03 = .brdacc ⟨7, false, .vec 40, .con 2, false, .con 0, false, .zero, false, 3⟩
    ∧ decode 0x00FFDFFA83FFDF05 = .baccz ⟨7, false, .zero, .con 3, false, .zero, false, .zero, false, 0⟩ := by decide
/-- A row of CWR's own and its neighbour, by the index of Table 11.9; an opcode that Table 11.8 does not assign. -/
theorem test_decode_rows : (encode (.progidxWrite { bS with imm24 := 6 })).map decode = some (.progidxWrite { bS with imm24 := 6 })
    ∧ (encode (.cwr { bS with imm24 := 0x40 })).map decode = some (.cwr { bS with imm24 := 0x40 })
    ∧ decode 0x02C = .unassignedOpcode 0x02C
          ∧ decodeTableWord 64 0x0000000908421C19 = some (.saddi ⟨7, false, .sca 8, .sca 8, false, 1, 0⟩) := by decide

/-! ## Single steps (expected values from the spec's examples, or its rules by hand) -/

/-- A fact about the state that an instruction leads to. -/
def leads (s : State) (i : Instr) (f : State → Bool) : Bool := match exec i s with | .next t => f t | _ => false
def sAt (t : State) (n : Nat) : Nat := (t.me.sGet n).toNat
def vAt (t : State) (r l : Nat) : Nat := (t.me.vGet r l).toNat

/-- Table 12.5: SADD, SADDI and SCMP in the first pass of the loop, and the branch back to its own header. -/
theorem test_loop_pass : leads (withS lone [(8, 4), (9, 6)]) (.sadd ⟨7, false, .sca 9, .sca 9, false, .sca 8, false, .zero, false,
      0⟩) (fun t => sAt t 9 = 10)
    ∧ leads (withS lone [(8, 4)]) (decode 0x0000000908421C19) (fun t => sAt t 8 = 5)
    ∧ leads (withS lone [(8, 4)]) (decode 0x04FFD429080E5C18) (fun t => t.me.qGet 1)
    ∧ leads (withS lone [(8, 5)]) (decode 0x04FFD429080E5C18) (fun t => !t.me.qGet 1) := by decide +kernel
theorem test_sat : leads (withS lone [(10, 0x7FFFFFFF), (12, 1)]) (.sadd { aS with mod7 := 0 }) (fun t => sAt t 8 = 0x80000000)
    ∧ leads (withS lone [(10, 0x7FFFFFFF), (12, 1)]) (.sadd { aS with mod7 := 32 }) (fun t => sAt t 8 = 0x7FFFFFFF) := by decide +kernel
theorem test_divide_by_zero : leads (withS lone [(10, 7)]) (.sdiv aS) (fun t => sAt t 8 = 0xFFFFFFFF)
    ∧ leads (withS lone [(10, 7)]) (.srem aS) (fun t => sAt t 8 = 7) := by decide +kernel
theorem test_shift_beyond : leads (withS lone [(10, 0x80000001), (12, 32)]) (.sshl { aS with mod7 := 1 }) (fun t => sAt t 8 = 0)
    ∧ leads (withS lone [(10, 0x80000001), (12, 40)]) (.ssra aS) (fun t => sAt t 8 = 0xFFFFFFFF) := by decide +kernel
/-- The example of R287: VPRMT. -/
theorem test_vprmt : leads (withS (withV lone [(5, allV 0x11223344), (6, allV 0x55667788)]) [(9, 0x7654)])
      (.vprmt ⟨7, false, .vec 4, .vec 5, false, .vec 6, false, .sca 9, false, 0⟩) (fun t => vAt t 4 31 = 0x55667788)
    ∧ leads (withV lone [(5, allV 0x11223344)]) (.vprmt ⟨7, false, .vec 4, .vec 5, false, .vec 6, false, .sca 9, false, 0⟩)
      (fun t => vAt t 4 0 = 0x44444444) := by decide +kernel
/-- The example of R291: SHFL in an entry of lanes 0 to 15. -/
def half : State := lone.updWave 0 fun x => { x with frontier := x.frontier.map fun e => { e with mask := 0xFFFF } }
theorem test_shfl : leads (withV half [(2, List.range 32)]) (.shfl ⟨7, false, .vec 3, .vec 2, false, .con 1, false, .zero, false, 2⟩)
      (fun t => vAt t 3 0 = 0 && vAt t 3 1 = 0 && vAt t 3 15 = 14 && vAt t 3 16 = 0)
    ∧ leads (withV half [(2, List.range 32)]) (decode 0x02FFD4800200DD20) (fun t => vAt t 3 0 = 16) := by decide +kernel
/-- The example of R294: sums of 16,777,216, 1, 1 and 1. -/
def sums : State := withV lone [(7, [0x4B800000, 0x3F800000, 0x3F800000, 0x3F800000])]
theorem test_vred_vscan : leads sums (.vred ⟨7, false, .vec 8, .vec 7, false, .zero, false, .con 0, false,
      64⟩) (fun t => vAt t 8 5 = 0x4B800001)
    ∧ leads sums (.vscan ⟨7, false, .vec 8, .vec 7, false, .zero, false, .con 0, false, 64⟩)
      (fun t => [0, 1, 2, 3, 4, 5, 31].map (vAt t 8) = [0x4B800000, 0x4B800000, 0x4B800001, 0x4B800001, 0x4B800002, 0x4B800001,
            0x4B800001]) := by
  decide +kernel
/-- The example of R304: FPACK and FUNPACK of MXFP4. -/
def block : State := withS (withV lone [(8, [0x40E00000]), (9, [0x40A00000]), (10, [0xBF400000]), (11, [0x3E4CCCCD])]) [(30, 0x7F)]
theorem test_fpack : leads block (.fpack ⟨7, false, .vec 20, .vec 8, false, .sca 30, false, .zero, false, 2⟩) (fun t => vAt t 20 0 = 0xA67)
    ∧ leads (withV block [(20, [0xA67])]) (.funpack ⟨7, false, .vec 8, .vec 20, false, .sca 30, false, .zero, false, 2⟩)
      (fun t => [8, 9, 10, 11].map (vAt t · 0) = [0x40C00000, 0x40800000, 0xBF800000, 0]) := by decide +kernel
/-- The example of R151: FSINPI(1.5) and FCOSPI(3.0). -/
theorem test_sinpi : leads (withV lone [(10, allV 0x3FC00000)]) (.fsinpi aV) (fun t => vAt t 8 0 = 0xBF800000)
    ∧ leads (withV lone [(10, allV 0x40400000)]) (.fcospi aV) (fun t => vAt t 8 0 = 0xBF800000) := by decide +kernel

/-! ## Witnesses: instructions of waves

Every hypothesis of a statement that an instruction `performs` is met in the states below; `runs` says so and that the instruction
answers a next state there. Where a statement has further hypotheses, its witness meets them in the same state. -/

def mA (f : FmtA) (m : Nat) : FmtA := { f with mod7 := BitVec.ofNat 7 m }
def iB (f : FmtB) (n : Nat) : FmtB := { f with imm24 := BitVec.ofNat 24 n }
/-- Every instruction of the lists performs under a guard and answers a next state. -/
def allRun (s : State) (g : Wave → LaneMask) (ls : List (List Instr)) : Bool := ls.all fun l => l.all (runs s g)
def types (ok : List Nat) (i : FmtA → Instr) (f : FmtA) : List Instr := ok.map fun n => i (mA f n)

theorem witness_ScalarArithmetic : allRun lone q7 [types [0, 7, 32, 39] .sadd aS,
    types [0, 7, 32, 39] .ssub aS,
    types [0, 7, 32, 39] .smul aS,
    [.smulh aS, .smad aS, .sdiv aS, .srem aS, .smin aS, .smax aS]] = true := by decide +kernel
theorem witness_ScalarBits : allRun lone q7 [[.sand aS, .sor aS, .sxor aS, .sandn aS, .sshl aS, .sshr aS, .ssra aS, .sbfe aS, .sbfi aS,
      .spopc aS, .sclz aS, .sshl (mA aS 7), .sbfi (mA aS 6)]] = true := by decide +kernel
/-- A wave whose v10 is empty in lane 0. -/
def holed : State := lone.updWave 0 fun x => { x with vE := [(10, 1)] }
theorem witness_ScalarMoves : allRun lone q7 [[.nop aZ, .smov aS, .smov (mA aS 7), .ssel aS, .ssel (mA aS 31)]] = true
    ∧ allRun lone q7 [(List.range 4).map fun m => Instr.smovi { cS with mod8 := BitVec.ofNat 8 m }] = true := by decide +kernel
theorem witness_ScalarMoves_vtos :
    allRun lone q7 [[.vtos ⟨7, false, .sca 8, .vec 10, false, 0, 0⟩, .vtos ⟨7, false, .sca 8, .vec 10, false, 32, 1⟩]] = true
    ∧ lone.me.upsets = [] ∧ allRun holed q7 [[.vtos ⟨7, false, .sca 8, .vec 10, false, 0, 0⟩, .vtos ⟨7, false, .sca 8, .vec 10, true, 0,
          0⟩]] = true ∧ inMask (holed.me.vEmpty 10) 0 = true := by decide +kernel
theorem witness_ScalarImmediates : allRun lone q7 [[.saddi bS, .smuli bS, .sandi bS, .sori bS, .sxori bS, .sshli (iB bS 63),
      .sshri (iB bS 31), .saddi { bS with mod5 := 3 }, .sshri { bS with mod5 := 5 }]] = true := by decide +kernel
theorem witness_ScalarFloat : allRun lone q7 [types [0, 8, 16, 24] .sfadd aS,
    [.sfmul aS, .sffma aS],
    types [0, 1, 2, 3, 4, 5, 6, 7] .sfcvt aS] = true := by decide +kernel
theorem witness_ScalarCompares : allRun lone q7 [((List.range 6).map fun c => Instr.scmp { pS with cond := BitVec.ofNat 4 c }),
    ((List.range 8).map fun c => Instr.sfcmp { pS with cond := BitVec.ofNat 4 c }),
    ((List.range 3).map fun c => Instr.qlog { pV with cond := BitVec.ofNat 4 c }),
    ((List.range 3).map fun c => Instr.scmp { pS with combine := BitVec.ofNat 2 c }),
    [.scmp { pS with pT := 1, pF := 1 }, .scmp { pS with pT := 7, pF := 7 }]] = true := by decide +kernel
theorem witness_VectorArithmetic : allRun lone p7 [types [0, 7, 32] .vadd aV,
    [.vsub aV, .vmul aV, .vmulh aV, .vmad aV, .vmin aV, .vmax aV, .vabs aV],
    types [4, 5, 36, 37] .vdot4 aV] = true := by decide +kernel
theorem witness_VectorBits : allRun lone p7 [[.vand aV, .vor aV, .vxor aV, .vandn aV, .vshl aV, .vshr aV, .vsra aV, .vbfe aV, .vbfi aV,
      .vpopc aV, .vclz aV, .vshl (mA aV 4), .vsra (mA aV 6)]] = true := by decide +kernel
theorem witness_VectorMoves : allRun lone p7 [[.vmov aV, .vmov (mA aV 7), .vsel aV, .vsel (mA aV 31), .vidx aV, .vprmt aV, .vaddi bV,
      .vandi bV, .vshli (iB bV 31), .vshri bV],
    (List.range 4).map fun m => Instr.vmovi { cV with mod8 := BitVec.ofNat 8 m }] = true := by
  decide +kernel
theorem witness_VectorPredicates : allRun lone p7 [((List.range 6).map fun c => Instr.vcmp { pV with cond := BitVec.ofNat 4 c }),
    ((List.range 8).map fun c => Instr.fcmp { pV with cond := BitVec.ofNat 4 c }),
    ((List.range 3).map fun c => Instr.plog { pV with cond := BitVec.ofNat 4 c }),
    [.vcmp { pV with pT := 2, pF := 2 }, .vcmp { pV with pT := 7, pF := 0 }],
    types [0, 1] .pmov { aV with srcA := .vec 1, dst := .vec 2 },
    types [0, 1, 2] .vote { aV with srcA := .vec 9 },
    types [0, 1, 2] .vote { aS with srcA := .vec 9, srcB := .zero, srcC := .zero }] = true := by decide +kernel
/-- SHFL's `ready` holds of every mode, for no register is empty. -/
theorem witness_CrossLane : allRun lone p7 [types [0, 1, 2, 3, 4, 7] .shfl aV,
    types [0, 1, 6, 7, 32, 39, 64, 72, 80, 88] .vred { aV with srcC := .con 0 },
    [.vred { aV with srcC := .con 1 }, .vred { aV with srcC := .con 2 }, .vscan { aV with srcC := .con 2 }],
    types [0, 1, 6, 7, 32, 39, 64, 72, 80, 88] .vscan { aV with srcC := .con 0 }] = true
    ∧ lone.me.vE = [] ∧ lone.me.sE = [] := by decide +kernel
theorem witness_VectorFloat : allRun lone p7 [types [0, 1, 2, 8] .fadd aV,
    types [0, 2] .fsub aV,
    [.fmul aV, .ffma aV, .fmin aV, .fmax aV, .fmov aV],
    types [1, 2, 25, 26] .fdot2 aV] = true := by decide +kernel
/-- An operand of a special value, and no destination but v8: the clauses of VectorFunctions over one input. -/
def fed (x y : Nat) : State := withV lone [(10, allV x), (12, allV y)]
theorem witness_VectorFunctions : ([0, 0x80000000, 0x7F800000, 0xFF800000, 0x7FC00000, 0x40000000, 0x40800000, 0x3F000000,
      0x3F800000].all fun x =>
    allRun (fed x 0) p7 [[.frcp aV, .frsq aV, .fsqrt aV, .fexp2 aV, .flog2 aV, .fsinpi aV, .fcospi aV, .frnd aV, .fldexp aV,
          .fclass aV]]) = true
    ∧ ([(0, 0), (0x7F800000, 0x7F800000), (0x3F800000, 0), (0x3F800000, 0x80000000), (0x7FC00000, 0)].all fun p =>
      runs (fed p.1 p.2) p7 (.fdiv aV)) = true := by decide +kernel
theorem witness_VectorConversions : allRun lone p7 [types (List.range 16) .fcvt aV,
    types [0, 2, 4, 8, 12, 18] .fpack { aV with srcA := .vec 16 },
    types [0, 2, 4, 8, 12, 18] .funpack aV,
    types [0, 4, 16] .fbscale aV,
    [.fbscale { aS with srcB := .zero, srcC := .zero }]] = true := by decide +kernel

/-- Decidable forms of what statements say of a next state. -/
def stands (t : State) (l : Nat) (pc : Dword) : Bool :=
  (t.me.frontier.any fun e => inMask e.mask l && e.pc = pc && !e.isTrapped)
    && t.me.frontier.all fun e => !(inMask e.mask l) || e.pc = pc
def trappedBy (t : State) (l code addr : Nat) : Bool := t.me.frontier.any fun e => inMask e.mask l && e.stat = .trapped code addr

def jumpy : State := withS lone [(10, 0x2000)]
/-- BRA and the like to their own header, JMPI and the like to the address in s10; every lane's target is aligned and below 2^56. -/
theorem witness_ControlTransfers : jumpy.plain = true ∧ allRun jumpy q7 [[.bra xZ, .jmpi aS, .call xS, .calli aS, .ret aS]] = true
    ∧ runs jumpy p7 (.brx xZ) = true ∧ (jumpy.me.src64 (.sca 10) 0).toNat < 2 ^ 56
          ∧ (jumpy.me.src64 (.sca 10) 31).toNat % 8 = 0 := by decide +kernel
theorem test_calli : leads jumpy (.calli aS) (fun t => stands t 0 0x2000 && sAt t 8 = 0x1010)
    ∧ leads (jumpy.updWave 0 fun x => { x with p := [(1, 1)] }) (.brx ⟨1, false, .zero, 2, 0⟩)
      (fun t => stands t 0 0x1010 && stands t 1 0x1010) := by decide +kernel

/-- A wave whose second entry holds lanes 16 to 31; a wave with a counter above zero. -/
def split : State := half.updWave 0 fun x => { x with frontier := x.frontier ++ [{ pc := 0x2000, mask := 0xFFFF0000 }] }
/-- The same wave at the first of two slots of its clause. -/
def inner : State := lone.updWave 0 fun x => { x with frontier := x.frontier.map fun e => { e with todo := [⟨0, 0, 0, false⟩, ⟨1, 0, 0, false⟩] } }
def counting : State := lone.updWave 0 fun x => x.dcSet 0 3
theorem witness_ExitsAndYields : lone.plain = true ∧ (lone.ctx (lone.ctxOf 0)).fifo = [] ∧ ((lone.unitOf 0).map (·.cvs)) = some []
    ∧ allRun lone q7 [[.exit aZ, .yield aZ]] = true ∧ lone.entry.todo.length ≤ 1
    ∧ split.plain = true ∧ allRun split q7 [[.exit aZ, .yield aZ]] = true ∧ (split.wx 0).lateTraps = [] ∧ lone.me.frontier = [lone.entry]
    ∧ inner.plain = true ∧ 1 < inner.entry.todo.length ∧ runs inner q7 (.yield aZ) = true := by decide +kernel
/-- The other entry is held at the WSYNC; and all that were held are one, which has begun. -/
def joined : State := half.updWave 0 fun x => { x with frontier := x.frontier ++ [{ pc := 0x1000, mask := 0xFFFF0000, stat := .wsync }] }
def begun1 : State := inner.setStage 0 1 0
theorem witness_Waits : allRun lone q7 [[.sleep (iB bZ 100), .waitdc (iB bZ 0xFFFFF0), .wsync aZ]] = true ∧ (lone.wx 0).unseen = []
    ∧ runs counting q7 (.waitdc (iB bZ 0xFFFFF3)) = true ∧ runs counting q7 (.waitdc (iB bZ 0xFFFFF2)) = true ∧ counting.me.dcGet 0 = 3
    ∧ runs split q7 (.wsync aZ) = true ∧ joined.plain = true ∧ runs joined q7 (.wsync aZ) = true
    ∧ (joined.me.frontier.all fun e => e.stat = .ready || (e.stat = .wsync && e.pc = joined.entry.pc && e.slot = joined.entry.slot)) = true
    ∧ (joined.me.frontier.filter fun e => e.stat = .ready) = [joined.entry] := by decide +kernel
theorem witness_Waits_begun : begun1.plain = true ∧ begun1.me.issuing.isSome = true ∧ begun1.entry.stage ≠ 0 ∧ begun1.entry.left = none
    ∧ begun1.active q7 ≠ 0 ∧ begun1.entry.mark ≤ begun1.time ∧ answers begun1 (.sleep bZ) = true ∧ answers begun1 (.wsync aZ) = true := by
  decide +kernel
theorem test_wsync : leads joined (.wsync aZ) (fun t => t.me.frontier.map (·.mask) = [allLanes])
    ∧ leads split (.wsync aZ) (fun t => (t.me.frontier.map fun e => (e.mask, decide (e.stat = .wsync))) = [(0xFFFF, true), (0xFFFF0000, false)]) := by
  decide +kernel
theorem test_waitdc : leads counting (.waitdc (iB bZ 0xFFFFF2)) (fun t => t.awaited = some (.counters [(0, 2)]))
    ∧ leads counting (.waitdc (iB bZ 0xFFFFF3)) (fun t => t.awaited = none)
    ∧ leads lone (.sleep (iB bZ 100)) (fun t => t.awaited = some (.time 100)) := by decide +kernel

/-- A unit of two waves. -/
def pair : State := lone.updUnit lone.me.uid fun u => { u with slots := [0, 1], alive := [0, 1] }
/-- The wave has arrived at barrier 2 in phase 0, which runs. -/
def arrived : State := pair.updWx 0 fun y => { y with arrived := [(2, 0)] }
/-- The phase in which it arrived is past. -/
def past : State := arrived.updUnit lone.me.uid fun u => { u with bars := [⟨2, [], 1⟩] }
theorem witness_BlockBarriers : ([lone, pair, arrived, past].all fun s => (s.unitOf s.cur).isSome && (s.wx 0).barHeld = none
    && s.storesHeld 0 = false && (s.wx 0).returns = []
          && allRun s q7 [[.bar (iB bZ 2), .bar (iB bZ (64 + 2)), .bar (iB bZ (128 + 2)), .bar (iB bZ 15)]]) = true := by
  decide +kernel
theorem test_bar : leads pair (.bar (iB bZ 2)) (fun t => t.awaited = some (.barrier 2 0))
      ∧ leads lone (.bar (iB bZ 2)) (fun t => t.awaited = none)
    ∧ leads arrived (.bar (iB bZ 2)) (fun t => trappedBy t 0 0x0A 0)
          ∧ leads arrived (.bar (iB bZ 130)) (fun t => t.awaited = some (.barrier 2 0))
    ∧ leads past (.bar (iB bZ 130)) (fun t => t.awaited = none) := by decide +kernel

/-- The wave is in a handler for a trap; its unit has two storage banks and a compute bank. -/
def banked : State := (lone.updUnit lone.me.uid fun u => { u with sbanks := 2, cbanks := 1, bankMap := [0, 1, 2] }).updCore 0 fun c =>
  { c with banks := [(0, { mode := .storage }), (1, { mode := .storage }), (2, { mode := .compute })] }
def handling : State := banked.updWx 0 fun y =>
  { y with handler := some { system := false, intr := [(0, { pc := 0x5000, mask := 0xFFFFFFFA })], trapped := some { pc := 0x3000, mask := 5, stat := .trapped 6 8 }, trapCode := 6,
                             trapMask := 5, trapPc := 0x3000, trapAddr := 8 } }
theorem witness_ControlRegisterReads : (lone.unitOf lone.cur).isSome = true
    ∧ ([1, 2, 3, 4, 5, 6, 7, 0x10, 0x15, 0x18, 0x19].all fun n => runs lone q7 (.crd (iB bS n))) = true
    ∧ ([8, 9, 10, 11, 12, 0x1A, 0x1B].all fun n => runs lone q7 (.crd (iB bS n))) = true ∧ runs lone q7 (.crd bV) = true
    ∧ ([0x20, 0x21, 0x22, 0x23, 0x100, 0x101, 0x10A, 0x10B,
          0x10C].all fun n => runs handling q7 (.crd (iB bS n))) = true := by decide +kernel
/-- An index of each range, at its ends: narrow and wide registers, and banks that the unit has and has not. -/
theorem witness_ControlRegisterReads_ranges : ([0, 1, 7, 0x10, 0x15].all fun n => runs handling q7 (.crd (iB bV n))) = true
    ∧ ([8, 12, 0x22, 0x23, 0x40, 0x5F, 0x100, 0x10B].all fun n => runs handling q7 (.crd (iB bS n))) = true
    ∧ ([0x10C, 0x17F].all fun n => leads handling (.crd (iB bS n)) fun t => trappedBy t 31 0x07 0) = true
    ∧ ((handling.unitOf 0).map fun u => u.sbanks + u.cbanks) = some 3 := by decide +kernel
theorem test_crd : leads handling (.crd (iB bS 0x20)) (fun t => sAt t 8 = 6)
      ∧ leads handling (.crd (iB bS 0x22)) (fun t => sAt t 8 = 0x3000)
    ∧ leads handling (.crd (iB bS 0x10C)) (fun t => trappedBy t 31 0x07 0)
          ∧ leads lone (.crd bV) (fun t => vAt t 8 31 = 31) := by decide +kernel

/-- Values on the two sides of each bound: SIZE of MAPSPILL 15, 16, 22 and 23; the log of XRING 5, 6, 12 and 13; TXRETRY 255 and 256. -/
theorem witness_ControlRegisterWrites : (banked.unitOf banked.cur).isSome = true
    ∧ allRun banked q7 [[.progidxWrite (iB bS 6), .dcCounterWrite (iB bS 0x15), .txlogWrite (iB bS 0x18),
          .txretryWrite (iB bS 0x19)]] = true
    ∧ ([15, 16, 22, 23].all fun n => runs (withS banked [(10, 1), (11, n * 2 ^ 24)]) q7 (.mapspillWrite (iB bS 0x1A))) = true
    ∧ ([5, 6, 12, 13].all fun n => runs (withS banked [(10, 1 + 64 * n)]) q7 (.xringWrite (iB bS 0x1B))) = true
    ∧ ([255, 256].all fun n => runs (withS banked [(10, n)]) q7 (.txretryWrite (iB bS 0x19))) = true := by decide +kernel
theorem test_writes : leads (withS banked [(10, 1), (11, 23 * 2 ^ 24)]) (.mapspillWrite (iB bS 0x1A)) (fun t => trappedBy t 0 0x02 0)
    ∧ leads (withS banked [(10, 1 + 64 * 12)]) (.xringWrite (iB bS 0x1B)) (fun t => (t.ctx 0).xring = 1 + 64 * 12)
    ∧ leads (withS banked [(10, 256)]) (.txretryWrite (iB bS 0x19)) (fun t => trappedBy t 0 0x02 0)
    ∧ leads (withS banked [(10, 255)]) (.txretryWrite (iB bS 0x19)) (fun t => (t.wx 0).txretry = 255) := by decide +kernel

/-- Formats and slot counts on the two sides of each bound of the descriptor's word 0; a bank the unit has not. -/
theorem witness_BankRegisterWrites : ([0x400000 + 60 * 16, 0x400000 + 61 * 16, 0x400004 + 15 * 16, 0x400005, 0x010000,
      0x410000].all fun n =>
      allRun (withS banked [(10, n)]) q7 [[.btdWrite (iB bS 0x100), .btdWrite (iB bS 0x10B), .btdWrite (iB bS 0x10C)]]) = true
    ∧ allRun (withS handling [(11, 0x8000)]) q7 [[.cvcfgWrite (iB bS 0x41), .cvcfgWrite (iB bS 0x5F), .cwr (iB bS 0x40),
          .cwr (iB bS 0x5E)]] = true
    ∧ runs (withS handling [(11, 0)]) q7 (.cvcfgWrite (iB bS 0x41)) = true := by decide +kernel
theorem test_btd : leads (withS banked [(10, 0x400000 + 60 * 16)]) (.btdWrite (iB bS 0x100)) (fun t => ((t.core 0).bank 0).btd0 = 0x4003C0)
    ∧ leads (withS banked [(10, 0x400000 + 61 * 16)]) (.btdWrite (iB bS 0x100)) (fun t => trappedBy t 0 0x02 0)
    ∧ leads (withS banked [(10, 0x400000)]) (.btdWrite (iB bS 0x10C)) (fun t => trappedBy t 0 0x07 0) := by decide +kernel

/-- Page 0 of context 0 lies at real address 0x10000 page 1 at 0x20000 and page 5 at 0x30000, with every permission: a page table at 0x2000
says so, and of the first two the core's TLB. -/
def mapped : State :=
  let at_ (a v : Nat) (m : List Host.Cell) : List Host.Cell := Mem.writeN m a (toBytes 8 v)
  let s := { banked with ctxs := [(0, { on := true, ptroot := 0x2000, handler := 0x9000 })] }
  { s with homes := { s.homes with dram := at_ 0x2000 0x4001 <| at_ 0x4000 0x6001 <| at_ 0x6000 0x8001 <| at_ 0x8000 0x2001F
                                             <| at_ 0x8008 0x4001F <| at_ 0x8028 0x6001F [] } }.updCore 0 fun c =>
    { c with tlb := [⟨0, 0, 1, 0x2001F, 0⟩, ⟨0, 1, 1, 0x4001F, 0⟩] }
def Place.isMem (p : Place) : Bool := match p with | .mem _ => true | _ => false
def Place.isBank (p : Place) : Bool := match p with | .bank _ _ => true | _ => false
/-- Lane l addresses word l of the page, and the scalar its byte 0x200; the block forms take their base from s10. -/
def inPage : State := withS (withV mapped [(10, (List.range 32).map (8 * ·)), (8, List.range 32), (9, allV 7), (12, allV 3)]) [(10,
      0x200), (8, 99), (9, 100)]
/-- The same in storage bank 1: its offsets, and its addresses from the start of the storage aperture. -/
def inBank : State := withS (withV mapped [(10, (List.range 32).map (65536 + 8 * ·)), (11, allV (globalEnd / 2 ^ 32)), (8, List.range 32),
      (12, allV 3)])
  [(10, 65536), (11, globalEnd / 2 ^ 32), (8, 99)]
/-- A load, and a store, of 4 bytes and of 8 under dc0 and under no counter. -/
def forms (i : FmtM → Instr) (f : FmtM) : List Instr := [i f, i { f with size := 3 }, i { f with ctr := 0 }]
def mB : FmtM := { mV with addr := .sca 10 }
def mL : FmtM := { mS with data := .sca 8 }
def allAt (s : State) (addr : Nat → Nat) (n : Nat) (k : AccKind) (ok : Place → Bool) : Bool :=
  (List.range 32).all fun l => ok (s.place s.cur l (addr l) n k)

/-- An access may open under any counter where every counter is 0; and a release finds room. -/
theorem opens_of (s : State) (h : s.me.dc = [] ∧ (s.wx s.cur).returns = [] ∧ s.modeBusy s.me.uid allLanes = false
    ∧ (s.core (coreOf s.cur)).room 64 = true ∧ s.outstanding (coreOf s.cur) + 32 ≤ 512
    ∧ (s.unitOf s.cur).map (·.hads) = some []) (ctr : Option Nat) : s.opens ctr :=
  ⟨fun r hr => by simp [h.2.1] at hr, h.2.2.1, fun k _ => by simp [Wave.dcGet, h.1, Tbl.get, Tbl.find], h.2.2.2.1, h.2.2.2.2.1,
    fun u hu g hg => by simp_all⟩
theorem witness_opens : (∀ ctr, inBank.opens ctr) ∧ (∀ ctr, inPage.opens ctr) :=
  ⟨opens_of inBank (by decide +kernel), opens_of inPage (by decide +kernel)⟩
theorem witness_outsideTx : inPage.outsideTx := by unfold State.outsideTx; decide +kernel
theorem witness_releasable : inPage.releasable := by unfold State.releasable; decide +kernel
theorem witness_settled : inPage.settled := ⟨witness_releasable, by decide +kernel, by decide +kernel, by decide +kernel⟩

theorem witness_BankLoads : (inBank.unitOf inBank.cur).isSome = true ∧ (inBank.wx 0).tx = []
    ∧ allRun inBank p7 [forms .ld mV, forms .lds mV, forms .ldb mB] = true ∧ allRun inBank q7 [forms .sld mL] = true
    ∧ allAt inBank (effAddr inBank.me mV) 8 .load Place.isBank = true ∧ allAt inBank (storageAddr inBank.me mV) 4 .load Place.isBank = true
    ∧ allAt inBank (blockAddr inBank.me { mB with size := 3 }) 8 .load Place.isBank = true
    ∧ Place.isBank (inBank.place 0 0 (effAddr inBank.me mL 0) 4 .load) = true ∧ ((inBank.core 0).bank 1).bad = [] := by decide +kernel

def holdFree (s : State) (lane : Nat) (p : Place) (n : Nat) : Bool := match p with
  | .mem p => s.hold s.cur lane .plain true p n 0 = none && s.locPoisoned p.loc p.mxf n = false && s.meet p.loc n = s && s.wayOf p.loc ≠ .none
  | _ => false
theorem witness_MemoryLoads : (inPage.unitOf inPage.cur).isSome = true
    ∧ allRun inPage p7 [forms .ld mV, forms .ldb mB] = true ∧ allRun inPage q7 [forms .sld mL] = true
    ∧ ((List.range 32).all fun l => holdFree inPage l (inPage.place 0 l (effAddr inPage.me mV l) 4 .load) 4) = true
    ∧ ((List.range 32).all fun l => holdFree inPage l (inPage.place 0 l (blockAddr inPage.me mB l) 4 .load) 4) = true
    ∧ holdFree inPage 0 (inPage.place 0 0 (effAddr inPage.me mL 0) 4 .load) 4 = true
    ∧ allRun inPage q7 [[.sldk bS, .sldk { bS with mod5 := 1 }]] = true ∧ ((inPage.me.src64 (.sca 10) 0).toNat + 8) % 8 = 0
    ∧ (match inPage.xlate 0 0x200 8 .load with
      | .ok p => p.loc.tgt = 0 && !inPage.lockedBy 0 32 p.loc && !inPage.homeStops p.loc
          && !inPage.locPoisoned p.loc p.mxf 8 && inPage.meet p.loc 8 = inPage && inPage.wayOf p.loc ≠ .none
      | _ => false) = true := by decide +kernel

/-- A commit of another wave holds every line of the page: a load waits at its home. -/
def lockedPage : State := inPage.updHomes fun h => { h with locks := (List.range 8).map fun k => ⟨0x10000 / 128 + k, 7, 0, false⟩ }
theorem witness_MemoryLoads_held : allRun lockedPage p7 [forms .ld mV, forms .ldb mB] = true
    ∧ ((List.range 32).all fun l => match lockedPage.place 0 l (effAddr lockedPage.me mV l) 4 .load, lockedPage.place 0 l (blockAddr lockedPage.me mB l) 4 .load with
        | .mem p, .mem q => (lockedPage.hold 0 l .plain true p 4 0).isSome && (lockedPage.hold 0 l .plain true q 4 0).isSome
        | _, _ => false) = true
    ∧ leads lockedPage (.ld mV) (fun t => (t.wx 0).returns.map (·.held.length) = [32] && t.me.vEmpty 8 = allLanes) := by decide +kernel
theorem witness_Stores : (inBank.wx 0).tx = []
    ∧ allRun inBank p7 [forms .st mV, forms .sts mV, forms .stb mB] = true ∧ allRun inPage p7 [forms .st mV, forms .stb mB] = true
    ∧ allRun inBank q7 [forms .sst mL] = true ∧ allRun inPage q7 [forms .sst mL] = true
    ∧ allAt inBank (effAddr inBank.me mV) 8 .store Place.isBank = true
          ∧ allAt inBank (storageAddr inBank.me mV) 4 .store Place.isBank = true
    ∧ allAt inBank (blockAddr inBank.me mB) 4 .store Place.isBank = true
    ∧ allAt inPage (effAddr inPage.me mV) 8 .store Place.isMem = true
          ∧ allAt inPage (blockAddr inPage.me mB) 4 .store Place.isMem = true := by
  decide +kernel
/-- SST where its lane's address traps, lies on a page that no TLB holds, and on one that faults. -/
def badly (a : Nat) : State := withS mapped [(10, a), (11, 0), (8, 1)]
/-- The walk that the store asked for has failed. -/
def faulting : State := ((badly 0x50000).updDie 0 fun d => { d with neg := [⟨0, 5, 1, 9⟩] }).updIssuing 0 fun e => { e with asked := some 9 }
theorem witness_Stores_sst : runs (badly 0x201) q7 (.sst mL) = true ∧ leads (badly 0x201) (.sst mL) (fun t => trappedBy t 0 0x06 0x201)
    ∧ runs (badly 0x50000) q7 (.sst mL) = true ∧ leads (badly 0x50000) (.sst mL) (fun t => t.awaited = some (.walk 0 5))
    ∧ runs faulting q7 (.sst mL) = true ∧ leads faulting (.sst mL) (fun t => t.me.frontier.any fun e =>
          e.stat = .fault) := by decide +kernel
theorem test_store_then_load : leads inPage (.st mV) (fun t => t.seenByte 0 0 true ⟨0, 0, 0, 0x10000 + 8 * 31⟩ = 31
      && t.byteAt ⟨0, 0, 0, 0x10000 + 8 * 31⟩ = 0)
    ∧ leads inBank (.st mV) (fun t => t.storageByte 0 0 1 (8 * 31) = 31) := by decide +kernel

def atomic (off : Nat) (i : FmtM → Instr) (f : FmtM) : Instr := i { f with off9 := BitVec.ofNat 9 off }
/-- Every operation at 4 bytes, at a scope that leaves the L1 (CLUSTER, 2); in a bank, and in memory. -/
theorem witness_Atomics : ([inBank, inPage].all fun s => allRun s p7 [(List.range 14).map fun o => atomic (32 + o) .atom mV,
      (List.range 14).map fun o => atomic (32 + o) .red { mV with data := .zero }, [atomic 32 .cas mV]]) = true
    ∧ allAt inBank (fun l => (inBank.me.src64 (.vec 10) l).toNat) 4 .atomic Place.isBank = true
    ∧ allAt inPage (fun l => (inPage.me.src64 (.vec 10) l).toNat) 4 .atomic Place.isMem = true
          ∧ ((inBank.core 0).bank 1).bad = [] := by decide +kernel
theorem test_atom : leads inBank (atomic 32 .atom mV) (fun t => t.bankByte 0 1 (8 * 31) = 3)
    ∧ leads inPage (atomic 32 .atom mV) (fun t => (t.core 0).cellar.length = 32) := by decide +kernel

def dirty : State := after inPage (.st mV)
theorem witness_releasable_dirty : dirty.releasable := by unfold State.releasable; decide +kernel
theorem witness_Fences : (dirty.wx 0).returns.length = 0 ∧ (inPage.wx 0).returns = []
    ∧ ([0, 4, 5, 6, 8, 9, 10, 12, 13, 14].all fun n => runs inPage p7 (.fence (iB bZ n))) = true := by decide +kernel

/-- CINV and CWB of no bytes, of a range at the end of the global window and one beyond it, and of lines of the page. -/
def ranged (a n : Nat) : State := withS dirty [(10, a % 2 ^ 32), (11, a / 2 ^ 32), (12, n)]
theorem witness_CacheMaintenance : ([(0x200, 0), (2 ^ 56 - 16, 16), (2 ^ 56 - 16, 17), (0, 0x200)].all fun p =>
      allRun (ranged p.1 p.2) p7 [[.cwb aS, .cinv aS]]) = true
    ∧ ([(0, 0x200), (0x200, 0), (2 ^ 64 - 4, 0)].all fun p => runs (ranged p.1 p.2) p7 (.pref mB)) = true := by decide +kernel
theorem witness_CacheMaintenance_free : (ranged 0 0x200).releasable := by unfold State.releasable; decide +kernel
theorem test_cwb_cinv : leads (ranged 0 0x200) (.cwb aS) (fun t => (t.core 0).l1.all (fun x => !x.isDirty) && !((t.core 0).cellar.isEmpty))
    ∧ leads (ranged 0 0x200) (.cinv aS) (fun t => (t.core 0).l1 = [])
    ∧ leads (ranged (2 ^ 56 - 16) 17) (.cwb aS) (fun t => trappedBy t 0 0x07 (2 ^ 56 - 16)) := by decide +kernel

/-- A card, a continuation record and a join record at 0x200, and a launch that runs in slot 3 of die 0. -/
def aLaunch : Launch :=
  { id := 40, ctx := 0, card := 0x400, home := 0, slot := some 3, code := 0x1000, args := 0, units := 2, cluster := 1, wpu := 1, vregs := 8,
    sregs := 8, sbanks := 0, cbanks := 0, txlog := 0, flags := 0, prio := 0, job := 0, shares := 0, left := 2, running := true }
def aCard : Card := { ctx := 0, addr := 0x400, stat := .running, kind := 1, flags := 0, prio := 0, graph := 5, phase := 6, job := 7, succ := 0,
                      home := 0, pkg := true, counted := true, lid := 40 }
def working : State :=
  let s := inPage.updQueues fun q => { q with launches := [(40, aLaunch)], cards := [aCard], counters := [⟨0, 2, 5, 1, 0, false, 0, true⟩] }
  let s := s.updDie 0 fun d => { d with slots := [(3, { lid := 40, ctx := 0, prio := 0, next := 0, last := 2, left := 2, home := true })] }
  s.updHomes fun h => { h with dram := Mem.writeN h.dram 0x1021C [3#8, 0#8] }
/-- The request has been taken. -/
def sent : State := working.setStage 0 2 0
theorem witness_WorkCreation : (working.unitOf 0).isSome = true
      ∧ allRun working q7 [[.spawn aS, .spawn (mA aS 1), .spawn (mA aS 4), .carddec aS, .cont aS, .jcdec aS]] = true
    ∧ (match working.xlate 0 0x200 64 .load, working.xlate 0 0x200 64 .atomic with | .ok _, .ok _ => true | _, _ => false) = true
    ∧ sent.me.issuing.isSome = true ∧ sent.entry.stage = 2 ∧ sent.entry.left = none ∧ sent.active q7 ≠ 0
          ∧ sent.applied 0 sent.entry.mark = true
    ∧ ([.spawn aS, .carddec aS, .cont aS, .jcdec aS] : List Instr).all (answers sent) = true := by decide +kernel
theorem witness_WorkCreation_free : working.releasable := by unfold State.releasable; decide +kernel
/-- CANCEL of a graph with members, of one with none, of the launch in slot 3 and of an empty slot; a CONT whose slot is empty. -/
theorem witness_WorkCreation_cancel : runs (withS working [(10, 5)]) q7 (.cancel (iB bS 2)) = true ∧ (working.counter 0 2 5).isSome = true
    ∧ runs (withS working [(10, 6)]) q7 (.cancel (iB bS 2)) = true ∧ working.counter 0 2 6 = none
    ∧ runs (withS working [(10, 3)]) q7 (.cancel (iB bS 1)) = true ∧ (working.card 0 0x400).isSome = true
    ∧ runs (withS working [(10, 4)]) q7 (.cancel (iB bS 1)) = true ∧ runs inPage q7 (.cont aS) = true
    ∧ leads (withS working [(10, 3)]) (.cancel (iB bS 1)) (fun t => (t.card 0 0x400).map (·.cancelled) = some true)
    ∧ leads inPage (.cont aS) (fun t => trappedBy t 0 0x02 0) := by decide +kernel
theorem test_spawn : leads working (.spawn aS) (fun t => (t.core 0).cellar.any fun e => e.req = .spawn 0x200 (some 0))
    ∧ leads working (.spawn (mA aS 1)) (fun t => (t.core 0).cellar.any fun e => e.req = .spawn 0x200 none) := by decide +kernel

/-- A word of each check of decode: an operand that is no register, a register outside the allotment, and a privileged word. -/
theorem witness_TrapsRaised : allRun lone q7 [[.trap (iB bZ 77), .bkpt (iB bZ 78)]] = true ∧ lone.performs unguarded {} = true
    ∧ runs lone q7 (.bra { xZ with off32 := 0 }) = true
    ∧ (lone.me.issuing.isSome = true ∧ lone.entry.stage = 0 ∧ lone.entry.left = none ∧ lone.entry.done = 0 ∧ lone.active q7 ≠ 0
          ∧ lone.active p7 ≠ 0)
    ∧ (sigSInt { aS with dst := .con 1 } tyAll true 2).trap lone.me false = some 0x02
    ∧ (sigVInt { aV with dst := .sca 1 } tyAll true 2).trap lone.me false = some 0x02
    ∧ (sigSInt { aS with dst := .sca 8 } tyAll true 2).trap { lone.me with salloc := 8 } false = some 0x03
    ∧ (sigFrset { bS with srcA := .sca 12 }).trap lone.me false = some 0x09 ∧ (sigFeset bS).trap lone.me false = some 0x09
          ∧ (sigHret { aZ with srcA := .con 0 }).trap lone.me false = some 0x09
    ∧ ([Instr.sadd { aS with dst := .con 1 }, .vadd { aV with dst := .sca 1 }, .frset { bS with srcA := .sca 12 }, .feset bS,
          .hret { aZ with srcA := .con 0 }].all (answers lone)) = true := by
  decide +kernel
/-- The two sides of the target's bound: 0x1000 less 0x1000 is below it, and 0x1000 less 0x1008 wraps beyond it. -/
def odd : State := lone.updIssuing 0 fun e => { e with pc := 0x1004 }
theorem test_trap : leads lone (.trap (iB bZ 77)) (fun t => trappedBy t 31 0x11 77)
      ∧ leads lone (.unassignedOpcode 0x2C) (fun t => trappedBy t 0 0x01 0)
    ∧ leads lone (.bra { xZ with off32 := -513 }) (fun t => trappedBy t 0 0x07 (2 ^ 64 - 8))
          ∧ leads odd (.bra xZ) (fun t => trappedBy t 0 0x06 0x1004)
    ∧ leads lone (.bra { xZ with off32 := -512 }) (fun t => stands t 0 0)
          ∧ leads lone (.hret { aZ with srcA := .con 0 }) (fun t => trappedBy t 0 0x09 0) := by decide +kernel

/-! The handler: HRET in each of its modes, over a frontier in which no lane stands twice, over one in which lane 0 does and one in
which lane 1 stands nowhere; the trapped entry at a clause boundary and inside a clause. -/
def hretAt (m : Nat) : Instr := .hret { aZ with srcA := .con m }
def inside : State := handling.updWx 0 fun y => { y with handler := y.handler.map fun h =>
  { h with trapped := some { pc := 0x3000, mask := 5, stat := .trapped 6 8, fetched := true, hdr := 3, slot := 1, todo := [⟨1, 0, 0, false⟩, ⟨2, 0, 0, false⟩] },
           intr := [(0, { pc := 0x4000, mask := 0xFF00 }), (1, { pc := 0x5000, mask := 0xFFFF00FA })] } }
/-- Lane 1, which has not exited, stands in no entry. -/
def missing : State := handling.updWx 0 fun y => { y with handler := y.handler.map fun h =>
      { h with intr := [(0, { pc := 0x5000, mask := 0xFFFFFFF8 })] } }
def twice : State := handling.updWx 0 fun y => { y with handler := y.handler.map fun h =>
      { h with intr := [(0, { pc := 0x4000, mask := 0xFFFFFFFB })] } }
theorem witness_HandlerReturn : ([handling, inside, twice, missing].all fun s => runs s q7 (hretAt 0) && runs s q7 (hretAt 1) && runs s q7 (hretAt 2)
      && (s.wx 0).txGone = [] && ((s.unitOf 0).map (·.cvs)) = some []
      && ((s.wx 0).handler.map fun h => !h.system && !h.save && h.trapped.isSome) = some true) = true := by decide +kernel
theorem test_hret : leads handling (hretAt 0) (fun t => stands t 0 0x3000 && (t.wx 0).handler.isNone)
      ∧ leads handling (hretAt 1) (fun t => stands t 0 0x3010)
    ∧ leads inside (hretAt 1) (fun t => stands t 0 0x3000 && stands t 8 0x4000) ∧ leads handling (hretAt 2) (fun t => (t.wx 0).exited = 5)
    ∧ leads twice (hretAt 0) (fun t => trappedBy t 31 0x02 0) ∧ leads missing (hretAt 0) (fun t => trappedBy t 31 0x02 0) := by decide +kernel

/-- A wave of 240 registers, alone in its quadrant and beside one of 800. -/
def small : State := lone.updWave 0 fun x => { x with valloc := 240 }
def tight : State := (small.setWave 1 { live := true, uid := 0, idx := 1, valloc := 784 }).updUnit lone.me.uid fun u =>
      { u with slots := [0, 1], alive := [0, 1] }
/-- One whose highest register is empty. -/
def emptied : State := small.updWave 0 fun x => { x with vE := [(239, 1)] }
theorem witness_HandlerAccesses : allRun lone q7 [[.frget bS, .frget (iB bS 31), .feget bS, .feget { bS with srcA := .vec 3 }]] = true
    ∧ allRun handling q7 [[.frget bS, .frset { bS with srcA := .sca 12 }, .feset bS, .feset { bS with dst := .vec 3 }]] = true
    ∧ allRun inside q7 [[.frget bS, .frset (iB { bS with srcA := .sca 12 } 0), .frset (iB { bS with srcA := .sca 12 } 31)]] = true
    ∧ allRun small q7 [[.reggrow (iB bS 16), .reggrow (iB bS 24), .regshrink (iB bS 232), .regshrink (iB bS 240),
          .regshrink (iB bS 8)]] = true
    ∧ runs tight q7 (.reggrow (iB bS 8)) = true ∧ runs emptied q7 (.regshrink (iB bS 8)) = true := by decide +kernel
theorem test_reggrow : leads small (.reggrow (iB bS 16)) (fun t => t.me.valloc = 256 && sAt t 8 = 256)
      ∧ leads small (.reggrow (iB bS 24)) (fun t => trappedBy t 0 0x02 0)
    ∧ leads tight (.reggrow (iB bS 8)) (fun t => t.awaited = some .grow) ∧ leads small (.regshrink (iB bS 232)) (fun t => t.me.valloc = 8)
    ∧ leads small (.regshrink (iB bS 240)) (fun t => trappedBy t 0 0x02 0)
          ∧ leads emptied (.regshrink (iB bS 8)) (fun t => t.me.valloc = 240) := by decide +kernel
/-- The example of R374: TRAPCODE and TRAPMASK of a trap from slot 2. -/
def misaligned : State := (mapped.updQuad 0 0 fun q => { q with holder := none }).updWave 0 fun x =>
      { x with frontier := [{ pc := 0x4000, mask := 0x210, slot := 2, stat := .trapped 0x06 2, seq := 1 }] }
theorem test_trap_taken : leads misaligned (.programTrapTaken 0) (fun t => match (t.wx 0).handler with
    | some h => h.trapCode = 0x206 && h.trapMask = 0x210 && h.trapPc = 0x4000 && h.trapAddr = 2 && t.me.frontier.map (·.pc) = [0x9000]
    | none => false) := by decide +kernel

/-- A unit whose waves have logs of 1,024 bytes in bank 1; p1 names lane 3. -/
def logged : State := (inPage.updUnit lone.me.uid fun u => { u with txlog := 4 }).updWave 0 fun x => { x with p := [(1, 8)] }
def p1 : Wave → LaneMask := byP 1 false
def again (s : State) : State := s.updWave 0 fun x => { x with frontier := lone.me.frontier }
/-- Lane 3 in a transaction that has written a word of the page. -/
def begun : State := again (after logged (.txbegin { xZ with guard := 1 }))
def wrote : State := again (after begun (.st { mV with guard := 1 }))
theorem witness_TransactionStates : (logged.unitOf 0).map (·.txlog) = some 4 ∧ (logged.wx 0).tx = [] ∧ logged.plain = true
    ∧ ((List.range 32).all fun l => logged.logIn 0 l 32) = true ∧ runs logged p1 (.txbegin { xZ with guard := 1 }) = true
          ∧ runs logged p7 (.txbegin xZ) = true
    ∧ runs wrote p1 (.txabort { iB bZ 9 with guard := 1 }) = true ∧ runs wrote p1 (.txserial { aZ with guard := 1 }) = true
    ∧ allRun wrote p7 [[.txstat { aZ with dst := .vec 8 }, .txstat (mA { aZ with dst := .sca 8 } 1)]] = true := by decide +kernel
theorem witness_TransactionStates_settled : logged.settled :=
  ⟨by unfold State.releasable; decide +kernel, by decide +kernel, by decide +kernel, by decide +kernel⟩
theorem test_txabort : leads wrote (.txabort { iB bZ 9 with guard := 1 }) (fun t => (t.wx 0).tx = [] && t.logRead 0 3 10 1 = 5
      && t.logRead 0 3 11 1 = 9) := by
  decide +kernel
/-- 640 ns later; and the same where another agent has written the word that the lane read. -/
def ripe : State := { wrote with time := wrote.time + 1000 }
def read3 : State := let s := again (after begun (.ld { mV with guard := 1 })); { s with time := s.time + 1000 }
def raced : State := read3.updHomes fun h => { h with dram := Mem.write h.dram 0x10018 9#8 }
theorem witness_TransactionEnds : ([ripe, read3, raced].all fun s => runs s p1 (.txend { aZ with guard := 1 }) && s.active p1 = laneBit 3
    && !(s.logBad 0 3) && (match Tbl.find (s.wx 0).tx 3 with | some y => decide (y.young + 640 ≤ s.time) | none => false)
    && s.homes.locks = [] && (s.core 0).room 1 && (s.txEnts 0 3).length = 1
    && (s.txEnts 0 3).all fun e => let p := s.wordPhys 0 e.word (if e.write then .store else .load)
      p.isSome && !(s.homeStops ⟨0, 0, 0, (p.map (·.loc.ra)).getD 0⟩)) = true := by decide +kernel
theorem test_txend : leads ripe (.txend { aZ with guard := 1 }) (fun t => t.logRead 0 3 10 1 = 0 && !((t.core 0).cellar.isEmpty))
    ∧ leads read3 (.txend { aZ with guard := 1 }) (fun t => t.logRead 0 3 10 1 = 0)
          ∧ leads raced (.txend { aZ with guard := 1 }) (fun t => t.logRead 0 3 10 1 = 1) := by
  decide +kernel

/-! ## Witnesses: banks and engines -/

/-- BANKMODE: a bank that the unit has not, banks that are there, banks that are not; and the completion of the last. -/
def masked (m : Nat) : State := withS banked [(10, m)]
def changing : State := after (masked 4) (.bankmode { aS with mod7 := 0 })
theorem witness_BankModes : runs (masked 8) p7 (.bankmode { aZ with srcA := .sca 10 }) = true
      ∧ runs (masked 3) p7 (.bankmode (mA { aZ with srcA := .sca 10 } 1)) = true
    ∧ (masked 3).modeBusy lone.me.uid 3 = false ∧ runs (masked 4) p7 (.bankmode { aZ with srcA := .sca 10 }) = true ∧ (banked.wx 0).tx = []
    ∧ (match (changing.unitOf 0) with
      | some u => (match u.modeCh with
        | [c] => c.mode < 3 && u.cvs = [] && !(changing.banksBusy lone.me.uid c.mask c.id) && !(changing.copiesName lone.me.uid c.mask c.id)
            && (changing.core 0).room 512 && ([0, 1, 2, 3].all fun q => ((changing.core 0).quad q).fwd = [])
                  && answers changing (.bankmodeComplete lone.me.uid c.id)
        | _ => false)
      | none => false) = true := by decide +kernel
theorem test_bankmode : leads (masked 8) (.bankmode { aZ with srcA := .sca 10 }) (fun t => trappedBy t 0 0x02 0)
    ∧ leads changing (.bankmodeComplete lone.me.uid ((changing.unitOf 0).elim 0 fun u => (u.modeCh.headD ⟨0, 0, 0, 0⟩).id)) (fun t =>
      ((t.core 0).bank 2).mode = .cache) := by decide +kernel

/-- CVSET of the name 1 as Table 15.6 gives it for a unit of one wave; then BMAC of some lanes, of all, and of a name not declared. -/
def cvsetOp : FmtA := ⟨7, false, .zero, .sca 20, false, .sca 22, false, .sca 23, false, 1⟩
def naming : State := (withS banked [(20, 0), (22, 4), (23, 0)]).updBank 0 2 fun k => { k with btd0 := 0x400010 }
def named : State := again (after naming (.cvset cvsetOp))
def bmacOp (n : Nat) : FmtA := mA { aZ with srcA := .vec 16, srcB := .vec 20 } n
theorem witness_Convergence : runs naming p7 (.cvset cvsetOp) = true ∧ runs (withS naming [(23, 0xF000)]) p7 (.cvset cvsetOp) = true
    ∧ runs (withS naming [(22, 0)]) p7 (.cvset cvsetOp) = true ∧ (banked.wx 0).resumed = false ∧ banked.me.dcGet 2 ≤ 62
    ∧ runs banked p7 (.bmac (bmacOp 0x21)) = true
    ∧ (match named.unitOf 0 with
      | some u => (u.cv 1).declared && (u.cv 1).rounds = [] && (u.cv 1).waves = [named.me.idx] && u.widAt named.me.idx = 0 && u.cvs = [(1, u.cv 1)]
          && (formTrap u named.me (signOf (named.sees p7) (bmacOp 0x21)) (cfgAfmt (u.cv 1).cfg)).isNone
                && u.alive.contains (u.slots.getD named.me.idx 0)
          && (named.jointTrap u (u.cv 1) { id := 0, ops := [{ (signOf (named.sees p7) (bmacOp 0x21)) with signed := allLanes }] }).isNone
      | none => false) = true
    ∧ runs named p7 (.bmac (bmacOp 0x21)) = true ∧ named.modeBusy lone.me.uid allLanes = false
    ∧ (named.updWave 0 fun x => { x with p := [(1, 8)] }).active p1 ||| (named.wx 0).exited ≠ allLanes
    ∧ runs (named.updWave 0 fun x => { x with p := [(1, 8)] }) p1 (.bmac { bmacOp 0x21 with guard := 1 }) = true
    ∧ runs banked p7 (.oprdy { aZ with srcA := .vec 16, srcB := .sca 8 }) = true := by decide +kernel
/-- A quadrant that holds a store. -/
def held : State := banked.updQuad 0 0 fun q => { q with fwd := [⟨0, 0, 0, 64, [1#8, 2#8], 0, 0⟩] }
theorem test_bmac : leads banked (.bmac (bmacOp 0x21)) (fun t => trappedBy t 0 0x10 0)
    ∧ leads named (.bmac (bmacOp 0x21)) (fun t => t.me.dcGet 2 = 1
          && (t.unitOf 0).elim false fun u => (u.cv 1).rounds.map (·.issued) = [true])
    ∧ runs held p7 (.oprdy { aZ with srcA := .vec 16, srcB := .sca 8 }) = true
    ∧ leads held (.oprdy { aZ with srcA := .vec 16, srcB := .sca 8 }) (fun t => t.bankByte 0 0 65 = 2) := by decide +kernel

/-- Columns 0 and 63 of bank 2, which holds an accumulator of 12 at exponent 0 in lane 3. -/
def full12 : State := (withS banked [(10, 2), (12, 0), (14, 63)]).updBank 0 2 fun k => { k with acc := [(192, 12)] }
def accA : FmtA := { aZ with dst := .vec 8, srcA := .sca 10, srcB := .sca 12 }
theorem witness_Accumulators : (full12.unitOf 0).isSome = true ∧ ((full12.core 0).bank 2).mode = .compute
      ∧ ((full12.core 0).bank 2).poisf = 0
    ∧ (full12.wx 0).unseen = [] ∧ full12.modeBusy lone.me.uid (laneBit 2) = false
          ∧ full12.banksBusy lone.me.uid (laneBit 2) full12.nextId = false
    ∧ allRun full12 p7 [types [0, 16, 32, 3, 64] .brdacc accA, [.brdacc { accA with srcB := .sca 14 }],
        types [0, 32] .bwracc { accA with dst := .zero, srcC := .vec 8 }] = true
    ∧ runs (withS full12 [(10, 7)]) p7 (.baccz { aZ with srcA := .sca 10 }) = true ∧ full12.modeBusy lone.me.uid 7 = false
    ∧ full12.banksBusy lone.me.uid 7 full12.nextId = false := by decide +kernel
theorem test_brdacc : leads full12 (.brdacc (mA accA 32)) (fun t => vAt t 8 0 = 0 && vAt t 8 3 = 12)
    ∧ leads (withV full12 [(8, allV 0x40A00000)]) (.bwracc { accA with dst := .zero, srcC := .vec 8 }) (fun t =>
          ((t.core 0).bank 2).accAt 31 0 = 5)
    ∧ leads (withS full12 [(10, 4)]) (.baccz { aZ with srcA := .sca 10 }) (fun t => ((t.core 0).bank 2).accAt 3 0 = 0) := by decide +kernel

/-- BFILL of planes (rows 31 to 31 and 0 to 31 of slot 0) and of scales, and BHAD of the example of R349: 1.0 at index 0. -/
def filling : State := withS (withV banked [(8, allV 0x01)]) [(10, 0), (12, 31 * 64), (14, 0)]
def fillA (m : Nat) : Instr := .bfill (mA { aZ with srcA := .sca 10, srcB := .sca 12, srcC := .vec 8 } m)
def rowed (first : Nat) : State := (withS banked [(10, 0), (12, 0), (14,
      1)]).updBank 0 0 fun k => { k with bytes := Mem.writeN [] first [0x80#8, 0x3F#8] }
def hadA : FmtA := mA { aZ with srcA := .sca 10, srcB := .sca 12, srcC := .sca 14 } 16
theorem witness_SlotRows : ([filling, rowed 2].all fun s => (s.unitOf 0).isSome && ([0, 1, 2, 3].all fun q => ((s.core 0).quad q).fwd = [])
      && !(s.modeBusy lone.me.uid (laneBit 0)) && !(s.banksBusy lone.me.uid (laneBit 0) s.nextId)
            && ((s.core 0).bank 0).mode = .storage) = true
    ∧ runs filling p7 (fillA 0) = true ∧ runs (withS filling [(12, 0)]) p7 (fillA 31) = true
          ∧ runs (withS filling [(12, 59)]) p7 (fillA 32) = true
    ∧ runs (rowed 2) p7 (.bhad hadA) = true ∧ runs (withS (rowed 2) [(12, 65536 - 64)]) p7 (.bhad hadA) = true := by decide +kernel
theorem test_bhad : leads (rowed 2) (.bhad hadA) (fun t => (List.range 16).all fun i =>
    ofBytes ((List.range 4).map fun j => t.bankByte 0 0 (4 * i + j)) = 0x3E800000) := by decide +kernel

/-- Bytes of a structure from its fields: offset, width and value. -/
def bytesOf (n : Nat) (fs : List (Nat × Nat × Nat)) : List Byte := Mem.readN (fs.foldl (fun m f =>
      Mem.writeN m f.1 (toBytes f.2.1 f.2.2)) []) 0 n
/-- Bytes at an address of page 0. -/
def withMem (s : State) (a : Nat) (b : List Byte) : State := s.updHomes fun h => { h with dram := Mem.writeN h.dram (0x10000 + a) b }
def readMem (s : State) (a n : Nat) : List Byte := s.homeBytes (0x10000 + a) n
def words (l : List Nat) : List Byte := l.flatMap (toBytes 4)

/-- The example of chapter 8: eight tokens, of which two are merged away. -/
def mergeDesc : List (Nat × Nat × Nat) := [(0, 2, 8), (2, 2, 2), (4, 2, 1), (6, 2, 2), (10, 2, 0xFFFF), (12, 1, 0x19), (16, 8, 0x1000),
      (24, 8, 0x1100),
  (32, 8, 0x1200), (40, 8, 0x1300), (48, 8, 0x1400), (56, 8, 0x1500)]
def tokens (s : State) : State :=
  withMem (withMem (withMem (withMem s 0x1000 ([0x3F80, 0, 0x3F80, 0, 0, 0x3F80, 0, 0x4000, 0x3F80, 0x3F80, 0xBF80, 0, 0x3F00, 0, 0,
        0].flatMap (toBytes 2)))
    0x1100 (words [0x41200000, 0x41A00000, 0x41F00000, 0x42200000, 0x42480000, 0x42700000, 0x428C0000, 0x42A00000]))
    0x1200 (words [0x3F800000, 0x3F800000, 0x3F800000, 0x40000000, 0x3F800000, 0x3F800000, 0x3F800000, 0x3F800000])) 0x1300 [1#8]
def cmd (kind : Nat) (d : List Byte) : EngCmd :=
  { id := 50, kind := kind, die := if 3 ≤ kind then 84 else 0, ctx := 0, job := 0, uid := lone.me.uid, wid := 0, desc := d, dst := some 20, ctr := some 1 }
/-- The command is at the head of its engine, issued by the wave, which counts it. -/
def queued (c : EngCmd) (s : State) : State :=
  let s := (tokens s).updWave 0 fun x => x.dcSet 1 1
  if 3 ≤ c.kind then s.updQueues fun q => { q with nmQ := [c] } else s.updDie 0 fun d => { d with merge := [c] }
/-- What a command that has been performed is to write, at an address of page 0. -/
def outAt (t : State) (a n : Nat) : List Byte := match t.cmdHeld 50 with
  | some c => Mem.readN (c.outs.foldl (fun m p => Mem.writeN m p.loc.ra p.bytes) []) (0x10000 + a) n
  | none => []
/-- A command that has been performed, with writes still to be sent. -/
def stood (kind : Nat) (outs : List Piece) : State := queued { cmd kind (bytesOf 64 []) with result := some (0, 7), outs := outs } mapped
def aPiece : Piece := { vp := 0, loc := ⟨0, 0, 0, 0x11500⟩, mxf := 0, past := false, bytes := [1#8, 2#8], mask := [true, true] }
/-- One has a write that it can send, and one has none. -/
def finishing (kind : Nat) (i : Instr) : Bool :=
  let s := stood kind [aPiece]
  let z := stood kind []
  s.wayOf aPiece.loc ≠ .none && s.emitRoom 0 && answers s i && z.applied 0 0 && answers z i && z.issuer lone.me.uid 0
    && leads s i (fun t => (t.core 0).cellar.any fun e => e.req = .write aPiece.loc aPiece.bytes aPiece.mask)
    && leads z i (fun t => sAt t 20 = 7 && !(t.me.sEmpty 20) && t.me.dcGet 1 = 0 && (t.cmdHeld 50).isNone)
def merging : State := queued (cmd 0 (bytesOf 64 mergeDesc)) mapped
/-- With a field out of range. -/
def mergingBad : State := queued (cmd 0 (bytesOf 64 (mergeDesc ++ [(0, 2, 1)]))) mapped
def theMap : LoftMap := { handle := 7, ctx := 0, job := 0, n0 := 8, nout := 6, entries := [0, 2, 3, 3, 3, 4, 1, 5], lost := false, spilled := false }
def unmergeDesc (h : Nat) : List (Nat × Nat × Nat) := [(4, 2, 1), (10, 2, h), (12, 1, 0x19), (16, 8, 0x1100), (24, 8, 0x1600), (56, 8,
      0x1500)]
def withMap (s : State) : State := s.updDie 0 fun d => { d with loft := [theMap] }
def unmerging (h : Nat) : State := queued (cmd 1 (bytesOf 64 (unmergeDesc h))) (withMap mapped)
def releasing (h : Nat) : State := queued { cmd 2 [] with handle := h, status := 0x1500 } (withMap mapped)

/-- The turn of a command has come, and its status word has a place. -/
def turn (s : State) (c : EngCmd) : Bool :=
  c.role = 0 && !c.waiting && c.result.isNone && c.outs.isEmpty && (c.kind = 2 || c.desc.length = 64) && c.card.isNone && c.scope ≤ 3
        && s.cmdHeld c.id = some c
    && (s.engPlaceAll c.ctx [(0x1500, List.replicate 8 0#8, 8)]).toBool
theorem witness_MergeCompletions : (([merging, mergingBad].all fun s => match (s.die 0).merge with | c :: _ => c.die = 0 && c.kind = 0 && turn s c && answers s (.mergeComplete 0) | [] => false)
      && ([unmerging 7, unmerging 8].all fun s => match (s.die 0).merge with | c :: _ => c.kind = 1 && turn s c && answers s (.unmergeComplete 0) | [] => false)
      && ([releasing 7, releasing 8].all fun s => match (s.die 0).merge with | c :: _ => c.kind = 2 && turn s c && answers s (.maprelComplete 0) | [] => false)) = true
    ∧ mergeBad (bytesOf 64 mergeDesc) = false ∧ mergeBad (bytesOf 64 (mergeDesc ++ [(0, 2, 1)])) = true ∧ (merging.die 0).mapIndex = some 0
    ∧ 1 ≤ (merging.die 0).loftFree ∧ (merging.mergeReads (cmd 0 []) (bytesOf 64 mergeDesc)).toBool = true
    ∧ (merging.engPlaceAll 0 [(0x1400, List.replicate 72 0#8, 4), (0x1500, List.replicate 8 0#8, 8)]).toBool = true
    ∧ unmergeBad (bytesOf 64 (unmergeDesc 7)) = false ∧ unmergeBad (bytesOf 64 (unmergeDesc 7 ++ [(4, 2, 0)])) = true
    ∧ (unmerging 7).heldMap 0 0 7 = some theMap ∧ (unmerging 7).heldMap 0 0 8 = none
          ∧ ((unmerging 7).engRead 0 0x1100 24 6).toBool = true := by decide +kernel
theorem witness_MergeCompletions_end : finishing 0 (.mergeComplete 0) = true ∧ finishing 1 (.unmergeComplete 0) = true
    ∧ finishing 2 (.maprelComplete 0) = true ∧ (merging.cancelIn 0 4 0) = false := by decide +kernel
/-- The example's output: N' = 6, the values, sizes and biases, the map and the status word. -/
theorem test_merge : leads merging (.mergeComplete 0) (fun t =>
    outAt t 0x1400 72 = words [0x41200000, 0x428C0000, 0x41A00000, 0x42200000, 0x42700000, 0x42A00000, 0x3F800000, 0x3F800000,
          0x3F800000, 0x40800000,
      0x3F800000, 0x3F800000, 0, 0, 0, 0x40000000, 0, 0]
    && (t.die 0).loft.map (·.entries) = [[0, 2, 3, 3, 3, 4, 1, 5]] && outAt t 0x1500 8 = [0#8, 0#8, 0#8, 0#8, 6#8, 0#8, 0#8, 0#8]) := by decide +kernel
theorem test_unmerge : leads (unmerging 7) (.unmergeComplete 0) (fun t =>
    outAt t 0x1600 32 = words [0x41200000, 0x41F00000, 0x42200000, 0x42200000, 0x42200000, 0x42480000, 0x41A00000, 0x42700000])
    ∧ leads (unmerging 8) (.unmergeComplete 0) (fun t => outAt t 0x1500 8 = [8#8, 0#8, 4#8, 0#8, 0#8, 0#8, 0#8, 0#8])
    ∧ leads (releasing 7) (.maprelComplete 0) (fun t => (t.die 0).loft = []) := by decide +kernel

/-- The terms 3, 1, 0 and -2 of the example of R188, as a row of four for SEXP and as elements for a scan. -/
def nmredDesc (op len rows fl : Nat) : List (Nat × Nat × Nat) :=
  [(0, 1, op), (1, 1, fl), (2, 1, 84), (3, 1, 0x19), (4, 4, len), (8, 4, rows), (16, 8, 0x2000), (24, 8, 0), (32, 8, 0x2100), (40, 8,
        0x1500)]
def nmscanDesc (pred cap : Nat) : List (Nat × Nat × Nat) :=
  [(0, 1, pred), (1, 1, 0), (2, 1, 84), (3, 1, 0x19), (4, 4, 4), (8, 4, cap), (16, 8, 0x2000), (24, 4, 0x3F800000), (28, 4, 0x40400000),
        (32, 8, 0x2100), (40, 8, 0x1500)]
def terms : State := withMem mapped 0x2000 (words [0x40400000, 0x3F800000, 0, 0xC0000000])
def nm (kind : Nat) (fs : List (Nat × Nat × Nat)) : State := queued (cmd kind (bytesOf 64 fs)) terms
theorem witness_NearMemoryCompletions :
    ([nm 3 (nmredDesc 1 4 1 1), nm 3 (nmredDesc 1 4 1 0), nm 3 (nmredDesc 0 4 1 5), nm 3 (nmredDesc 5 4 1 0)].all fun s =>
      match s.queues.nmQ.find? fun x => x.id = 50 && x.kind = 3 with | some c => turn s c && answers s (.nmredComplete 50) | none => false) = true
    ∧ ([nm 4 (nmscanDesc 6 4), nm 4 (nmscanDesc 6 2), nm 4 (nmscanDesc 9 4)].all fun s =>
      match s.queues.nmQ.find? fun x => x.id = 50 && x.kind = 4 with | some c => turn s c && answers s (.nmscanComplete 50) | none => false) = true
    ∧ nmredBad (cmd 3 []) (bytesOf 64 (nmredDesc 1 4 1 1)) = false ∧ nmredBad (cmd 3 []) (bytesOf 64 (nmredDesc 5 4 1 0)) = true
    ∧ nmscanBad (cmd 4 []) (bytesOf 64 (nmscanDesc 6 2)) = false ∧ nmscanBad (cmd 4 []) (bytesOf 64 (nmscanDesc 9 4)) = true
    ∧ (terms.nmRows 0 (bytesOf 64 (nmredDesc 1 4 1 1))).toBool = true ∧ (terms.nmRead 0 0x2000 0x2000 16).toBool = true
    ∧ (terms.engPlaceAll 0 [(0x2100, List.replicate 32 0#8, 8), (0x1500, List.replicate 8 0#8, 8)]).toBool = true
    ∧ finishing 3 (.nmredComplete 50) = true ∧ finishing 4 (.nmscanComplete 50) = true := by decide +kernel
theorem test_nmred : leads (nm 3 (nmredDesc 4 4 1 1)) (.nmredComplete 50) (fun t => outAt t 0x2100 8 = words [3, 0x3FB40000]) := by decide +kernel
theorem test_nmscan : leads (nm 4 (nmscanDesc 6 4)) (.nmscanComplete 50) (fun t => outAt t 0x2100 16 = words [0, 0x40400000, 1,
      0x3F800000]
      && outAt t 0x1500 8 = [2#8, 0#8, 0#8, 0#8, 0#8, 0#8, 0#8, 0#8])
    ∧ leads (nm 4 (nmscanDesc 6 1)) (.nmscanComplete 50) (fun t => outAt t 0x1500 8 = [2#8, 0#8, 0#8, 0#8, 6#8, 0#8, 0#8,
          0#8]) := by decide +kernel

/-- A descriptor at 0x2200 that each of MERGE, UNMERGE, NMRED and NMSCAN reads, and ACOPY; its counter full, and its byte bad. -/
def kicking (fs : List (Nat × Nat × Nat)) : State := withS (withMem mapped 0x2200 (bytesOf 64 fs)) [(10, 0x2200), (12, 0x1500)]
def settledNow (s : State) : Bool := ([0, 1, 2, 3].all fun q => ((s.core 0).quad q).fwd = []) && !(s.epochHeld 0) && (s.core 0).cellar = []
  && (s.core 0).l1 = [] && s.homes.flight = []
def filled1 (s : State) : State := s.updWave 0 fun x => x.dcSet 1 63
theorem witness_EngineHandOver : (([mergeDesc, unmergeDesc 7, mergeDesc ++ [(12, 1, 7)], mergeDesc ++ [(12, 1,
      1)]].all fun fs => settledNow (kicking fs)
        && allRun (kicking fs) p7 [[.merge aS, .unmerge aS]] && allRun (filled1 (kicking fs)) p7 [[.merge aS, .unmerge aS]])
      && ([nmredDesc 1 4 1 1, nmredDesc 1 4 1 1 ++ [(3, 1, 0x29)]].all fun fs => settledNow (kicking fs)
        && allRun (kicking fs) p7 [[.nmred aS, .nmscan aS]] && allRun (filled1 (kicking fs)) p7 [[.nmred aS, .nmscan aS]])) = true
    ∧ runs (kicking []) p7 (.maprel (mA { aS with srcC := .zero } 0x19)) = true
          ∧ runs (filled1 (kicking [])) p7 (.maprel (mA { aS with srcC := .zero } 0x19)) = true
    ∧ (match (kicking []).xlate 0 0x2200 64 .load with | .ok _ => true | _ => false) = true
    ∧ runs (withS mapped [(10, 3)]) p7 (.xkick { aZ with srcA := .sca 10 }) = true := by decide +kernel
theorem witness_EngineHandOver_settled : (kicking mergeDesc).settled :=
  ⟨by unfold State.releasable; decide +kernel, by decide +kernel, by decide +kernel, by decide +kernel⟩
/-- A copy of 16 bytes from bank 0 to bank 1 in four elements of 4 bytes, and one refused. -/
def copyDesc (src dst n : Nat) : List (Nat × Nat × Nat) :=
  [(0, 8, globalEnd + src), (8, 8, globalEnd + dst), (16, 2, n), (18, 2, 1), (20, 2, 1), (22, 2, 1), (24, 2, 1), (27, 1, 2), (60, 1, 0x31)]
def copying : State := withS (kicking (copyDesc 0 65536 4)) [(12, 0), (13, 0), (14, 0)]
theorem witness_EngineHandOver_copy : ([copyDesc 0 65536 4, copyDesc 0 65536 4 ++ [(27, 1, 9)]].all fun fs =>
      allRun (kicking fs) p7 [[.acopy { aZ with srcA := .sca 10 }]] && !((kicking fs).modeBusy lone.me.uid 3)) = true
    ∧ runs (filled1 copying) p7 (.acopy { aZ with srcA := .sca 10 }) = true ∧ (match copying.unitOf 0 with
      | some u => (copying.copyTrap u (bytesOf 64 (copyDesc 0 65536 4)) [0, 0, 0, 0, 0]).isNone
          && (copying.copyTrap u (bytesOf 64 (copyDesc 0 65536 4 ++ [(27, 1, 9)])) [0, 0, 0, 0, 0]).isSome
      | none => false) = true := by decide +kernel
theorem test_merge_hand_over : leads (kicking mergeDesc) (.merge aS) (fun t => (t.die 0).merge.map (·.kind) = [0] && t.me.dcGet 1 = 1
      && t.me.sEmpty 8)
    ∧ leads (kicking (mergeDesc ++ [(12, 1, 7)])) (.merge aS) (fun t => trappedBy t 0 0x02 0)
    ∧ leads (kicking (nmredDesc 1 4 1 1)) (.nmred aS) (fun t => t.queues.nmQ.map (·.die) = [84]) := by decide +kernel

/-- The copy as the core's copy unit holds it, before its walk and after it. -/
def aCopy (walked : Bool) (n : Nat) : Copy :=
  { id := 60, core := 0, ctx := 0, uid := lone.me.uid, wid := 0, card := none, desc := bytesOf 64 (copyDesc 0 65536 n), cardDec := none,
    ctr := some 1, scope := 3, iter := [0, 0, 0, 0, 0], names := 3, walked := walked, mark := if walked then some 0 else none }
def copied (walked : Bool) (n : Nat) : State :=
  (mapped.updCore 0 fun c => { c with copies := [aCopy walked n] }).updBank 0 0 fun k => { k with bytes := [(2, 7#8)] }
theorem witness_CopiesAndTransforms_copy : ([copied true 1,
      copied false 1].all fun s => match ((s.core 0).copies.take 8).find? fun c => c.id = 60 with
      | some k => k.core = 0 && k.wr.isEmpty && !k.failed && s.applied 0 (k.mark.getD 0) && k.card.isNone && k.cardDec.isNone && k.role = 0 && !k.waiting && k.desc ≠ [] && k.iter = [0, 0, 0, 0, 0]
          && cpExt k.desc = [1, 1, 1, 1, 1] && cpConv k.desc = 0 && !(slotDst k.desc) && apertureOf (cpSrc k.desc) = 1
                && apertureOf (cpDst k.desc) = 1
          && s.bankBytes k (cpSrc k.desc) 4 = some [(0, 0), (0, 1), (0, 2), (0, 3)]
                && s.bankBytes k (cpDst k.desc) 4 = some [(1, 0), (1, 1), (1, 2), (1, 3)]
          && answers s (.acopyComplete 0 60)
      | none => false) = true
    ∧ (mapped.unit lone.me.uid).map (fun u => (u.cvs, u.hads)) = some ([], []) ∧ mapped.issuer lone.me.uid 0 = true := by decide +kernel
theorem test_acopy : leads (copied false 1) (.acopyComplete 0 60) (fun t => t.bankByte 0 1 2 = 7)
      ∧ leads (copied true 1) (.acopyComplete 0 60) (fun t => (t.core 0).copies = []) := by
  decide +kernel
/-- A ring of 64 requests at 0x4000 for die 0, with one request; and that request in flight: SHA of four bytes, and one refused. -/
def ringed : State := mapped.updDie 0 fun d => { d with owner := some 0, xctx := [(0, { kick := 1, next := 0, ring := 0x4181 })] }
def xDesc (f : Nat) : List Byte := bytesOf 64 [(0, 1, f), (2, 1, 3), (4, 4, 0x1234), (8, 4, 0), (12, 4, 4), (16, 8, 0x2000), (24, 8,
      0x2100)]
def flown (f : Nat) : State := ringed.updDie 0 fun d =>
      { d with xfly := [⟨0, { cmd 5 (xDesc f) with die := 0, dst := none, ctr := none, engine := 0 }⟩] }
theorem witness_CopiesAndTransforms : (ringed.die 0).owner = some 0 ∧ (ringed.die 0).flying 0 = none ∧ (ringed.die 0).xcards = []
    ∧ ((ringed.die 0).x 0).ring.getLsbD 0 = true ∧ ((ringed.die 0).x 0).next < ((ringed.die 0).x 0).kick
          ∧ answers ringed (.xformRequestStart 0 0) = true
    ∧ ([flown 6, flown 9].all fun s => match (s.die 0).flying 0 with
      | some x => x.cmd.kind = 5 && x.cmd.die = 0 && turn s x.cmd && answers s (.xformRequestComplete 0 0)
      | none => false) = true
    ∧ xformBad (xDesc 6) = false ∧ xfFunc (xDesc 6) = 6 ∧ xDSTB (xDesc 6) = 0 ∧ xformBad (xDesc 9) = true
    ∧ (mapped.engRead 0 0x2000 4 6).toBool = true ∧ ((mapped.engPlaceAll 0 [(0x2100, List.replicate 64 0#8, 4)]).toOption.map
      (mapped.storeFull 0)) = some false
    ∧ (mapped.engPlaces 0 (0x4000 + 84 * 64 * 64) (List.replicate 16 0#8) 16).toBool = true := by decide +kernel

/-! ## Witnesses: events -/

/-- Waves 0 and 2 of quadrant 0 are ready, and wave 0 was chosen last; and the same where wave 0 was passed over at 48 choices. -/
def choosing : State :=
  let s := mapped.updQuad 0 0 fun q => { q with holder := none, last := [(0, 0)] }
  let x := s.wave 0
  (s.setWave 2 { x with idx := 1 }).updUnit x.uid fun u => { u with slots := [0, 2], alive := [0, 2] }
def hungry : State := choosing.updWx 0 fun y => { y with passed := 48 }
/-- The header of a clause of three slots at 0x3000, whose wait mask names dc0; its slots FADD, FADD and EXIT. -/
def clauseAt (h : Nat) : State :=
  let e : Entry := { pc := 0x3000, mask := allLanes }
  (withMem mapped 0x3000 (toBytes 8 h ++ toBytes 8 0x00FFC00800009D80 ++ toBytes 8 0x00FFC00800009D80 ++ toBytes 8 0x00FFDFFBFFFFDC86)).updWave 0 fun x =>
    { x with frontier := [e] }
def isEntry (s : State) : Bool := match s.me.issuing with | some e => !e.fetched && e.slot = 0 && e.code = 0 | none => false
/-- A load of lane 3 on its way to v8 under dc0, the last of two parts of it, and a VTOS that waits for it. -/
def coming (pend : Nat) : State := (counting.updWave 0 fun x => { x with vE := [(8, 8)] }).updWx 0 fun y =>
  { y with returns := [{ id := 70, vals := [⟨true, 8, 3, 0x55⟩], pend := pend, ctr := some 0 }] }
/-- A load of lane 3 that waits at its home; two of its four bytes its core had. -/
def heldLoad : HeldLoad :=
  { id := 71, lane := 3, loc := ⟨0, 0, 0, 0x10200⟩, mxf := 0, pol := 1, have_ := [some 0x11, none, some 0x13, none], out := [⟨true, 8, 3, 0⟩], vps := [0] }
def comingHeld : State := (coming 0).updWx 0 fun y => { y with returns := [{ id := 70, vals := [], pend := 0, ctr := some 0, held := [heldLoad] }] }
def comingVtos : State := (coming 0).updWx 0 fun y => { y with vtos := [⟨8, 3, 20, false⟩] }
theorem witness_FetchAndReturn : ((choosing.core 0).quad 0).holder = none ∧ choosing.ready 0 = true ∧ choosing.ready 2 = true
    ∧ hungry.effPrio 0 ≠ hungry.effPrio 2 ∧ answers hungry (.issueChoice 0) = true ∧ answers choosing (.issueChoice 0) = true
    ∧ ([0x00800002, 0x00000002, 0x00000202, 2 ^ 43 + 2, 1].all fun h => isEntry (clauseAt h) && answers (clauseAt h) .clauseFetch
        && (match (clauseAt h).fetchBytes 0 0x3000 8, (clauseAt h).fetchBytes 0 0x3008 24 with | .ok _ _, .ok _ _ => true | _, _ => false)) = true
    ∧ answers ((clauseAt 0x00800002).updWave 0 fun x => x.dcSet 0 1) .clauseFetch = true
    ∧ (clauseAt 2).me.issuing.isSome = true ∧ ((clauseAt 2).wx 0).resumed = false
    ∧ comingHeld.heldStops 0 heldLoad = false ∧ (comingHeld.heldLoads 0).length = 1 ∧ comingHeld.meet heldLoad.loc 4 = comingHeld
    ∧ comingHeld.locPoisoned heldLoad.loc 0 4 = false ∧ comingHeld.wayOf heldLoad.loc ≠ .none
    ∧ ([coming 0, coming 1, comingVtos, comingHeld].all fun s => answers s (.loadDataReturn 0 70)
          && (s.wx 0).returns.length = 1) = true := by decide +kernel
theorem test_choice : leads choosing (.issueChoice 0) (fun t => t.cur = 2 && (t.wx 0).passed = 1 && (t.wx 2).passed = 0)
    ∧ leads hungry (.issueChoice 0) (fun t => t.cur = 0 && (t.wx 2).passed = 1) := by decide +kernel
theorem test_fetch : leads (clauseAt 2) .clauseFetch (fun t => t.me.issuing.elim false fun e => e.fetched
      && e.todo.map (·.word) = [0x00FFC00800009D80, 0x00FFC00800009D80, 0x00FFDFFBFFFFDC86])
    ∧ leads (clauseAt (2 ^ 43 + 2)) .clauseFetch (fun t => trappedBy t 5 0x05 0)
    ∧ leads ((clauseAt 0x00800002).updWave 0 fun x => x.dcSet 0 1) .clauseFetch (fun t => t.awaited = some (.counters [(0,
          0)])) := by decide +kernel
theorem test_return_held : leads comingHeld (.loadDataReturn 0 70) (fun t => vAt t 8 3 = 0x130011 && t.me.vEmpty 8 = 0 && t.me.dcGet 0 = 2) := by
  decide +kernel
theorem test_return : leads (coming 0) (.loadDataReturn 0 70) (fun t => vAt t 8 3 = 0x55 && t.me.vEmpty 8 = 0 && t.me.dcGet 0 = 2)
    ∧ leads comingVtos (.loadDataReturn 0 70) (fun t => sAt t 20 = 0x55) := by decide +kernel

/-- Traps: with a handler, with none, and in handler mode; a unit that permits abort and one that does not. -/
def noHandler : State := misaligned.updCtx 0 fun c => { c with handler := 0 }
def doubled : State := misaligned.updWx 0 fun y => { y with handler := some { system := false, intr := [], trapped := none } }
def abortable : State := mapped.updUnit lone.me.uid fun u => { u with crec := { u.crec with flags := 3, lid := 40 } }
def parkedAll : State := mapped.updWx 0 fun y => { y with parked := true }
/-- A wave of the unit is halted. -/
def halted : State := abortable.updWx 0 fun y => { y with halt := true }
theorem witness_ExceptionEntry_abort : abortable.halted 0 = false ∧ halted.halted 0 = true
    ∧ ((halted.unit lone.me.uid).map fun u => u.aliveWids) = some [0] ∧ answers halted (.preemptRequest lone.me.uid) = true
    ∧ leads halted (.preemptRequest lone.me.uid) (fun t => (t.unit lone.me.uid).isSome && (t.wx 0).preempt) := by decide +kernel
theorem witness_ExceptionEntry : ([misaligned, noHandler, doubled].all fun s => (s.wave 0).frontier.any Entry.isTrapped
      && answers s (.programTrapTaken 0)) = true
    ∧ misaligned.onlyTraps 0 = true ∧ (misaligned.wx 0).handler = none ∧ (misaligned.ctx (misaligned.ctxOf 0)).handler ≠ 0
    ∧ noHandler.onlyTraps 0 = true ∧ (noHandler.ctx 0).handler = 0 ∧ (doubled.wx 0).handler.isSome = true
    ∧ (mapped.wave 0).live = true ∧ (mapped.wx 0).parked = false ∧ answers mapped (.debuggerHalt 0) = true
          ∧ answers choosing (.debuggerHalt 0) = true
    ∧ ((abortable.unit lone.me.uid).map fun u => u.stat = .resident && u.alive ≠ [] && u.crec.abortOk) = some true
          ∧ answers abortable (.preemptRequest lone.me.uid) = true
    ∧ ((parkedAll.unit lone.me.uid).map fun u => !u.crec.abortOk && u.aliveWids.all fun v => (parkedAll.wx v).parked) = some true
    ∧ answers parkedAll (.preemptRequest lone.me.uid) = true ∧ answers mapped (.preemptRequest lone.me.uid) = true := by decide +kernel
theorem test_preempt : leads abortable (.preemptRequest lone.me.uid) (fun t => (t.unit lone.me.uid).isNone)
      ∧ leads parkedAll (.preemptRequest lone.me.uid)
      (fun t => (t.unit lone.me.uid).map (·.stat) = some .saved)
    ∧ leads mapped (.preemptRequest lone.me.uid) (fun t => (t.wx 0).handler.elim false fun h => h.system && h.save)
          ∧ leads noHandler (.programTrapTaken 0) (fun t => (t.ctx 0).stopped)
    ∧ leads choosing (.debuggerHalt 0) (fun t => (t.wx 0).handler.elim false fun h => h.system) := by decide +kernel

def ctxUp (s : State) : State := s.updCtx 0 fun c => { c with dies := 3, ring := 0x700, ringlog := 4, slice := 1000 }
/-- The state without the wave, and die 0 given to context 0. -/
def device : State := (ctxUp mapped).updDie 0 fun d => { d with owner := some 0, sliceEnd := 5000 }
def later (s : State) (t : Nat) : State := { s with time := t }
def growing : State := (small.updQuad 0 0 fun q => { q with grows := [0] }).updWx 0 fun y => { y with growWant := 8, wait := some .grow }
def mirroring : State := small.updUnit lone.me.uid fun u => { u with crec := { u.crec with flags := 4 } }
def sleeping : State := lone.updWx 0 fun y => { y with wait := some (.time 50) }
/-- The wave waits for chip 9, whose one port is recovering. -/
def toPort (st : Nat) (s : State) : State := s.updHubs fun h =>
  { h with bar0 := Tbl.set h.bar0 0x2010 (BitVec.ofNat 64 (2 ^ 19)), ports := [(3, { state := st, peer := 9 })] }
def reaching : State := (toPort 3 lone).updWx 0 fun y => { y with
  wait := some (.counters [(0, 0)]), returns := [{ id := 70, vals := [], pend := 0, ctr := some 0, held := [{ heldLoad with loc := ⟨1, 9, 0, 0x100⟩ }] }] }
def suspended : State := reaching.updWx 0 fun y => { y with suspended := some 0 }
def doneWave : State := pair.updWave 0 fun x => { x with frontier := [] }
def rounding : State := after named (.bmac (bmacOp 0x21))
theorem witness_WaveEvents : growing.quadUsed 0 0 + (growing.wx 0).growWant ≤ 1024 ∧ answers growing (.reggrowGrant 0) = true
    ∧ ((mirroring.unitOf 0).map (·.crec.mirrorOk)) = some true ∧ mirroring.quadUsed 0 0 ≤ 512
          ∧ answers mirroring (.mirrorCopyDone 0 7) = true
    ∧ answers (later sleeping 50) (.sleepExpiry 0) = true ∧ (later lone 1000000000).watched 0 = true
    ∧ ((lone.wave 0).frontier.any fun e => !e.isTrapped && e.mask ≠ 0) = true ∧ answers (later lone 1000000000) (.watchdogExpiry 0) = true
    ∧ reaching.peerWait 0 = true ∧ (reaching.wx 0).suspended = none ∧ answers reaching (.peerSuspendExpiry 0) = true
    ∧ answers (later suspended 2000000000) (.peerSuspendExpiry 0) = true ∧ (toPort 2 suspended).peerWait 0 = false
    ∧ answers (toPort 2 suspended) (.peerSuspendExpiry 0) = true
    ∧ doneWave.waveDone 0 = true ∧ ((doneWave.unitOf 0).map (·.cvs)) = some [] ∧ answers doneWave (.waveComplete 0) = true
    ∧ (match rounding.unitOf 0 with
      | some u => (match (u.cv 1).rounds.find? fun r => r.issued with
        | some r => r.ops.length = 1 && r.ops.all (fun o => o.wid = 0) && !(rounding.banksBusy lone.me.uid (r.banks ||| r.chunks) r.id)
            && answers rounding (.roundComplete lone.me.uid 1)
        | none => false)
      | none => false) = true := by decide +kernel
theorem test_wave_events : leads growing (.reggrowGrant 0) (fun t => (t.wave 0).valloc = 248)
      ∧ leads (later sleeping 50) (.sleepExpiry 0) (fun t => (t.wx 0).wait.isNone)
    ∧ leads (later lone 1000000000) (.watchdogExpiry 0) (fun t => trappedBy t 0 0x13 0)
          ∧ leads doneWave (.waveComplete 0) (fun t => !(t.wave 0).live)
    ∧ leads (later suspended 2000000000) (.peerSuspendExpiry 0) (fun t => (t.wx 0).suspended.isNone && (t.wx 0).lastIssue = 2000000000)
    ∧ leads rounding (.roundComplete lone.me.uid 1) (fun t => (t.wave 0).dcGet 2 = 0) := by decide +kernel

/-- A unit of no waves; one that has released; a launch of two units. -/
def ended : State := { ctxUp (working.updUnit lone.me.uid fun u =>
      { u with alive := [], crec := { u.crec with join := 0x300, lid := 40 } }) with waves := [] }
def completing : State := ended.updUnit lone.me.uid fun u => { u with stat := .completing, mark := 0 }
/-- A decrement of the join record at 0x300, or of the card at 0x400, has left its core. -/
def flying (req : Req) (b : List (Nat × Nat × Nat)) : State :=
  let e : CellarEntry := { id := 90, t := 0, core := 0, uid := 9, ctx := 0, lid := 0, dep := 0, req := req }
  (b.foldl (fun s f => withMem s f.1 (toBytes f.2.1 f.2.2)) ((device.updDie 0 fun d => { d with slots := (working.die 0).slots }).updQueues fun q =>
    { q with launches := [(40, aLaunch)], cards := [{ aCard with stat := .held, lid := 0 }] })).updHomes fun h => { h with flight := [e] }
def joining (n kind : Nat) : State := flying (.join 0x300 0) [(0x300, 4, n), (0x304, 2, kind), (0x308, 8, 0x340), (0x340, 8, 0x1000),
      (0x35C, 2, 3)]
def preds (n : Nat) : State := flying (.preds 0x400 0 0) [(0x404, 2, n)]
/-- A record at the head of core 1's queue. -/
def popping : State := (device.updQueues fun q => { q with launches := [(40, aLaunch)] }).updCore 1 fun c =>
  { c with uq := [{ code := 0x1000, frame := 0x8000, join := 0, unit := 1, slot := 3, flags := 0, ctx := 0, lid := 40, prio := 0 }] }
theorem witness_UnitEvents : ((ended.unit lone.me.uid).map fun u => u.alive = [] && u.stat = .resident && ended.unitCmdsDone lone.me.uid
      && (ended.core u.core).room 1
      && !(ended.epochHeld 0) && (ended.core u.core).l1 = [] && u.crec.join ≠ 0) = some true
            ∧ answers ended (.unitComplete lone.me.uid) = true
    ∧ completing.applied 0 0 = true ∧ (completing.launch 40).isSome = true ∧ answers completing (.unitComplete lone.me.uid) = true
    ∧ ([joining 0 2, joining 2 2, joining 1 2, joining 1 1].all fun s => (match s.inFlight 90 with | some e => !(s.earlier e) && e.held.isNone | none => false)
        && (s.readVa 0 0x300 16 .atomic).toBool && (s.readVa 0 0x340 32 .load).toBool && answers s (.joinDecrement 90)) = true
    ∧ ([joining 0 2, preds 1].all fun s => !(s.vaHeld 0 0x300 16 .atomic) && !(s.vaHeld 0 0x400 8 .atomic)) = true
    ∧ popping.launchCancelled 40 = false ∧ ((joining 1 1).runningSlot 0 3).isSome = true ∧ (joining 1 1).launchCancelled 40 = false ∧ (joining 1 1).recWaits 0 0 0 = false
    ∧ ([preds 0, preds 2, preds 1].all fun s => (match s.inFlight 90 with | some e => !(s.earlier e) && !(s.listBefore e) && e.held.isNone | none => false)
        && (s.readVa 0 0x400 8 .atomic).toBool && answers s (.predsDecrement 90)) = true
    ∧ ((preds 1).card 0 0x400).map (fun c => c.stat = .held && !((preds 1).cardCancelled c)
          && !((preds 1).cardWaits 0 c.prio ((preds 1).postTo c false (some 0)))) = some true
    ∧ popping.savedFor 1 = none ∧ (popping.popFrom 1).map (·.1) = some 1 ∧ popping.able 1 aLaunch = true
          ∧ answers popping (.unitPopStart 1) = true
    ∧ ((popping.updCore 1 fun x => { x with uq := x.uq.drop 1 }).loadDict 1 aLaunch).toBool = true := by decide +kernel
theorem test_unit_events : leads (joining 1 2) (.joinDecrement 90) (fun t => t.queues.subs.map (·.addr) = [0x340])
    ∧ leads (joining 2 2) (.joinDecrement 90) (fun t => leAt (readMem t 0x300 4) 0 4 = 1)
          ∧ leads (preds 1) (.predsDecrement 90) (fun t => (t.card 0 0x400).map (·.stat) = some .posted)
    ∧ leads (preds 2) (.predsDecrement 90) (fun t => leAt (readMem t 0x404 2) 0 2 = 1)
    ∧ leads completing (.unitComplete lone.me.uid) (fun t => (t.unit lone.me.uid).isNone
          && (t.launch 40).map (·.left) = some 1) := by decide +kernel
/-- A wave that starts holds its frame, arguments, unit and index in s0 to s5, and stands at its code (R29). -/
theorem test_start : leads popping (.unitPopStart 1) (fun t => (t.wave 96).live && ((t.wave 96).sGet 0).toNat = 0x8000
      && ((t.wave 96).sGet 4).toNat = 1
    && (t.wave 96).frontier.map (·.pc) = [0x1000] && (t.wave 96).valloc = 8) := by decide +kernel

/-- A card of a kind at 0x500: a launch of two units of one wave, or a command with its fields; and its record. -/
def cardBytes (kind preds : Nat) (more : List (Nat × Nat × Nat)) : List Byte := bytesOf 64 ([(0, 1, kind), (4, 2, preds), (48, 2, 5), (50,
      2, 6), (52, 4, 7)]
  ++ (if kind = 1 then [(3, 1, 1), (6, 2, 1), (8, 8, 0x1000), (24, 4, 2), (28, 2, 8), (30, 2, 16)] else [(8, 8, 0x2200)]) ++ more)
def rec5 (kind : Nat) (stat : CStat) : Card := { aCard with addr := 0x500, kind := kind, stat := stat, lid := 0 }
def withCard (kind preds : Nat) (more : List (Nat × Nat × Nat)) : State := withMem device 0x500 (cardBytes kind preds more)
def rung (host : List Host.Cell) : State := device.updHomes fun h => { h with host := host }
def submitted (kind preds : Nat) (more : List (Nat × Nat × Nat)) : State :=
  (withCard kind preds more).updQueues fun q => { q with subs := [{ ctx := 0, addr := 0x500, die := 0, src := 0 }] }
def place5 : QCard := { ctx := 0, addr := 0x500, prio := 0, lid := 0, c0 := 0, c1 := 0 }
def posted (kind : Nat) (more : List (Nat × Nat × Nat)) : State :=
  ((withCard kind 0 more).updQueues fun q => { q with cards := [rec5 kind .posted] }).updCtx 0 fun c => { c with pq := [place5] }
theorem witness_CardEvents_ring : device.ringStalls 0 = false ∧ ([submitted 1 0 []].all fun s => s.ctxs.all fun p => p.2.tail.isNone) = true
    ∧ device.hubs.sched.takeover = none ∧ (device.ctx 0).on = true ∧ (device.ctx 0).stopped = false
      ∧ (device.ctx 0).head = 0
    ∧ ([rung [], rung [(0x708, 1#8)]].all fun s => answers s (.doorbellWrite 0 1) && answers s (.doorbellWrite 0 16)) = true
    ∧ ([submitted 1 0 [], submitted 1 2 [], submitted 0 0 []].all fun s => answers s .cardRegister
          && (s.readVa 0 0x500 64 .load).toBool) = true
    ∧ device.checkCard 0 (cardBytes 1 0 []) 0 (some 0) = 0 ∧ device.checkCard 0 (cardBytes 0 0 []) 0 (some 0) = 1
    ∧ device.counterRoom (cardOf 0 0x500 (cardBytes 1 0 []) 0 0) 0 = true ∧ (device.ctx 0).cancels = []
          ∧ (submitted 1 0 []).cardWaits 0 0 none = false
    ∧ ([1, 2, 5, 7].all fun k => !((posted k []).takeWaits 0 (rec5 k .posted) (cardBytes k 0 []) place5)) = true
    ∧ ([posted 1 [], posted 2 [], posted 5 [], posted 6 [(8, 8, 0x800), (24, 2, 0xFFFF)], posted 7 [(8, 8,
          0)]].all fun s => answers s (.packageQueueTake 0)
        && (s.readVa 0 0x500 64 .load).toBool) = true := by decide +kernel
theorem test_ring : leads (rung []) (.doorbellWrite 0 1) (fun t => (t.ctx 0).head = 0
      && t.hubs.errQ.map (fun r => byteAt r.bytes 40) = [0x23])
    ∧ leads (rung [(0x708, 1#8)]) (.doorbellWrite 0 1) (fun t => (t.ctx 0).head = 1)
          ∧ leads (submitted 1 0 []) .cardRegister (fun t => (t.card 0 0x500).map (·.stat) = some .posted)
    ∧ leads (submitted 1 2 []) .cardRegister (fun t => (t.card 0 0x500).map (·.stat) = some .held)
    ∧ leads (posted 1 []) (.packageQueueTake 0) (fun t => ([0, 1].map fun d => (t.die d).cardQ.map fun x => (x.c0, x.c1)) = [[(0, 1)],
          [(1, 2)]]) := by decide +kernel

/-- A share of the launch on die 0, the launch's home; a command card there; a share that has a slot; a card that has ended with two
successors; a signal ready; COOP launches. -/
def sharing : State := (device.updQueues fun q =>
      { q with launches := [(40, { aLaunch with slot := none, running := false })], cards := [aCard] }).updDie 0 fun d =>
  { d with cardQ := [{ ctx := 0, addr := 0x400, prio := 0, lid := 40, c0 := 0, c1 := 2 }] }
def commanding (kind : Nat) (more : List (Nat × Nat × Nat)) : State := (posted kind more).updDie 0 fun d => { d with cardQ := [place5] }
def placing : State := (device.updQueues fun q => { q with launches := [(40, aLaunch)], cards := [aCard] }).updDie 0 fun d =>
  { d with slots := [(3, { lid := 40, ctx := 0, prio := 0, next := 1, last := 2, left := 1, home := true })] }
def finished : State := device.updQueues fun q => { q with cards := [{ rec5 1 .done with succs := [0x400, 0x440], final := 4, lid := 41 }] }
def signalling : State := (later device 640).updHubs (fun h => { h with bar0 := Tbl.set h.bar0 0x88 0x1000, msixTab := [(130, { mask := false })] }) |>.updQueues fun q =>
  { q with cards := [rec5 6 .running], signals := [{ ctx := 0, card := 0x500, addr := 0x800, val := 77, vec := 130, t := 0 }] }
def coop : Launch := { aLaunch with flags := 8, slot := none, running := false, shares := 2 }
def admitting : State := device.updQueues fun q => { q with launches := [(40, coop)], cards := [aCard], coopQ := [40] }
def starting : State := (admitting.updDie 1 fun d => { d with owner := some 0 }).updQueues fun q => { q with coop := some 40, coopQ := [] }
/-- The launch as it starts: reserved, and its units on the cores reserved for them. -/
def coopOf (s : State) : Launch := { ((s.coopReserve coop).launch 40).getD coop with grid := [32, 33, 34, 35], gridBars := [] }
def cooped (s : State) : Option (Except State State) :=
  let us := ((s.coopReserve coop).setLaunch 40 (coopOf s)).coopTaken (coopOf s)
  us.1.coopAll (coopOf s) us.2
/-- Every core of the two dies but two is retired, and those two stand on one die. -/
def scarce : State := (List.range 32).foldl (fun s k => if k < 1 then s else s.updCore k fun c => { c with retired := true }) starting
theorem witness_CardEvents_start : sharing.headBefore 0 0 = false ∧ ([commanding 2 [], commanding 5 []].all fun s => !(s.headBefore 0 0)) = true
    ∧ (aLaunch.slot.isSome || aLaunch.running) = true ∧ (sharing.die 0).headOf 0 ≠ none ∧ (sharing.die 0).freeSlot = some 0
      ∧ answers sharing (.shareStart 0 0) = true
    ∧ ([commanding 2 [], commanding 3 [], commanding 4 [(17, 1, 84)], commanding 5 []].all fun s => ((s.die 0).headOf 0).isSome
          && answers s (.cardCommandIssue 0 0)) = true
    ∧ (device.die 0).owner = some 0 ∧ (device.die 0).change = none
    ∧ ([commanding 2 [], commanding 3 [], commanding 4 [(17, 1, 84)], commanding 5 []].all fun s => s.issues (s.targetDie (rec5 5 .posted)) 0) = true
    ∧ placing.launchCancelled 40 = false ∧ placing.coopBlocks 0 0 = false ∧ placing.bestCore (coresOf 0) aLaunch ≠ none
          ∧ answers placing (.clusterPlace 0 3) = true
    ∧ (placing.loadDict ((placing.bestCore (coresOf 0) aLaunch).getD 0) aLaunch).toBool = true
          ∧ (placing.units.all fun p => p.2.stat ≠ .saved) = true
    ∧ finished.lidQuiet 41 = true ∧ answers finished (.cardComplete 0 0x500) = true
    ∧ answers admitting .coopAdmit = true ∧ answers starting .coopStart = true ∧ admitting.queues.coop = none
    ∧ (match cooped starting with | some (.ok _) => true | _ => false) = true ∧ starting.launch 40 = some coop
    ∧ (starting.coopReserve coop).coopReady (coopOf starting) = true ∧ starting.launchCancelled 40 = false
    ∧ (scarce.coopReserve coop).coopReady (coopOf scarce) = false ∧ answers scarce .coopStart = true
    ∧ signalling.queues.signals.all (fun g => signalling.signalReady g) = true ∧ signalling.granted 0x800 8 = true
          ∧ Mem.wf signalling.homes.host = true
    ∧ (signalling.card 0 0x500).isSome = true ∧ answers signalling .hostSignalPerform = true := by decide +kernel
theorem test_cards : leads sharing (.shareStart 0 0) (fun t => (t.launch 40).map (·.slot) = some (some 0) && (t.die 0).cardQ = [])
    ∧ leads placing (.clusterPlace 0 3) (fun t => (Tbl.find (t.die 0).slots 3).map (·.next) = some 2 && t.units.length = 2)
    ∧ leads finished (.cardComplete 0 0x500) (fun t => (t.card 0 0x500).isNone && t.homes.flight.length = 2)
    ∧ leads signalling .hostSignalPerform (fun t => Mem.readN t.homes.host 0x800 8 = toBytes 8 77 && t.hubs.msix = [130])
    ∧ leads starting .coopStart (fun t => t.units.length = 3 && t.queues.coop.isNone)
    ∧ leads admitting .coopAdmit (fun t => t.queues.coop = some 40)
          ∧ leads (commanding 5 []) (.cardCommandIssue 0 0) (fun t => (t.die 0).merge.map (·.kind) = [0]) := by
  decide +kernel
/-- A die's queue of 32 cards has no room on chip; a spill area of 2^18 bytes has 128 KiB for entries (R63). -/
theorem test_spill : headFull 32 QCard.prio (List.replicate 32 place5) 0 = true
      ∧ headFull 32 QCard.prio (List.replicate 31 place5) 0 = false
    ∧ (let s := device.updCtx 0 fun c => { c with spilllog := 18 }
       s.spillRoom 0 131072 = true ∧ s.spillRoom 0 131073 = false) := by decide +kernel

/-! ## Witnesses: die owners, homes -/

/-- A die whose owner's slice has passed; one that no context owns; one that changes hands. -/
def waited (s : State) : State := s.updDie 0 fun d =>
      { d with cardQ := [{ ctx := 0, addr := 0x400, prio := 0, lid := 40, c0 := 0, c1 := 1 }] }
def unowned : State := waited (device.updDie 0 fun d => { d with owner := none })
def handed (o : Option Nat) : State := { waited device with units := [], waves := [] }.updDie 0 fun d =>
      { d with owner := o, change := some (some 0) }
theorem witness_DieOwners : unowned.ownerDue 0 = true ∧ answers unowned (.timeSliceExpiry 0) = true
    ∧ (later (waited device) 5000).ownerDue 0 = false ∧ answers (later (waited device) 5000) (.timeSliceExpiry 0) = true
    ∧ ([handed none, handed (some 0)].all fun s => answers s (.ownerChange 0)) = true
    ∧ (handed (some 0)).dieCmdsDone 0 0 = true ∧ (handed (some 0)).epochHeld 0 = false ∧ (handed (some 0)).units = []
          ∧ ((coresOf 0).all fun k => ((handed (some 0)).core k).l1 = []) = true := by
  decide +kernel
theorem test_owners : leads unowned (.timeSliceExpiry 0) (fun t => (t.die 0).change = some (some 0))
    ∧ leads (later (waited device) 5000) (.timeSliceExpiry 0) (fun t => (t.die 0).sliceEnd = 1005000)
    ∧ leads (handed none) (.ownerChange 0) (fun t => (t.die 0).owner = some 0 && (t.die 0).change.isNone
          && (t.die 0).sliceEnd = 1000000) := by decide +kernel

/-- A request in core 0's cellar, and one in flight, whose time has come. -/
def toHome (l : Loc) (n : Nat) : Req := .write l ((List.range n).map fun i => BitVec.ofNat 8 (i + 1)) (List.replicate n true)
def local_ : Loc := ⟨0, 0, 0, 0x10300⟩
def farHost : Loc := ⟨2, 0, 0, 0x900⟩
def entry (r : Req) : CellarEntry := { id := 90, t := 0, core := 0, uid := lone.me.uid, ctx := 0, lid := 40, dep := 0, req := r }
def asked (fl : Nat) (r : Req) : State := ((later mapped 640).updQueues fun q =>
      { q with launches := [(40, { aLaunch with flags := fl })], cards := [aCard] }).updCore 0
  fun c => { c with cellar := [entry r] }
def gone (r : Req) : State := (working.updHomes fun h => { h with flight := [entry r] }).updWx 0 fun y =>
  { y with returns := [{ id := 5, vals := [], pend := 1, ctr := some 1, lanes := 1 }] }
def swap : AtomReq := { wid := 0, ret := 5, reg := some 8, lane := 0, n := 4, op := 0, cas := false, cmp := 0, b := 9, scope := 2 }
def theCont : Req := .cont (bytesOf 32 [(0, 8, 0x1000), (8, 8, 0x8000), (24, 4, 1), (28, 2, 3)])
theorem witness_HomeEvents_leave : ([asked 0 (toHome local_ 4), asked 0 (toHome farHost 4), asked 4 (toHome farHost 4)].all fun s =>
      (s.core 0).cellar.find? (fun e => e.id = 90) = (s.core 0).cellar[0]? && !(s.core 0).frozen && (s.die 0).clk.relock.isNone
        && s.homes.flight = [] && !(s.fifoFull (s.destOf ((s.core 0).cellar.headD (entry (.join 0 0))).req 0xFF))
        && !(s.wayChanges local_) && !(s.wayChanges farHost)
        && decide (s.storePages < storeRoom) && answers s (.cellarEntryLeave 0 90)) = true ∧ cardStage 0 = false
              ∧ cardStage 4 = true := by decide +kernel
theorem witness_HomeEvents_apply : ([gone (toHome local_ 4), gone (.spawn 0x200 none), gone theCont].all fun s =>
      (s.inFlight 90).isSome && (s.homes.flight.all fun e => !(s.earlier e)) && answers s (.writeApplyAtHome 90)) = true
    ∧ (gone (toHome local_ 4)).homeWaits local_ 4 = false ∧ (gone theCont).runningSlot 0 3 = some aLaunch
          ∧ (gone theCont).launchCancelled 40 = false ∧ (gone theCont).recWaits 0 0 0 = false
    ∧ (gone (.atomic local_ swap)).homeWaits local_ 4 = false ∧ (gone (.atomic local_ swap)).locPoisoned local_ 0 4 = false
    ∧ (gone (.atomic local_ swap)).waits (entry (.atomic local_ swap)) swap = true
          ∧ answers (gone (.atomic local_ swap)) (.atomicAtHome 90) = true
    ∧ (gone (.atomic local_ { swap with cas := true })).waits (entry (.atomic local_ swap)) swap = true
    ∧ ([(2, 0), (2, 1), (3, 2), (4, 1)].all fun p => let l : Loc := ⟨0, 0, p.1, 0x10300⟩
        let s := gone (.alop l p.2 [5#32, 6#32])
        !(s.homeWaits l 8) && s.memOk && s.homes.snaps = [] && s.homes.l2 = []
              && answers s (.aliasStoreApply 90)) = true := by decide +kernel
theorem witness_HomeEvents_quiet : (gone (toHome local_ 4)).quiet local_ ∧ (gone (.atomic local_ swap)).quiet local_ := by
  constructor <;> (refine ⟨?_, ?_, ?_, ?_, ?_, ?_, ?_, ?_⟩ <;> decide +kernel)
theorem test_homes : leads (gone (toHome local_ 4)) (.writeApplyAtHome 90) (fun t => readMem t 0x300 5 = [1#8, 2#8, 3#8, 4#8, 0#8])
    ∧ leads (gone (.atomic local_ swap)) (.atomicAtHome 90) (fun t => readMem t 0x300 4 = [9#8, 0#8, 0#8, 0#8])
    ∧ leads (gone (.alop ⟨0, 0, 2, 0x10300⟩ 1 [0x3F800000])) (.aliasStoreApply 90) (fun t =>
          Mem.readN t.homes.dram 0x10300 4 = toBytes 4 0x3F800000)
    ∧ leads (asked 4 (toHome farHost 4)) (.cellarEntryLeave 0 90) (fun t => t.homes.staged.map (·.1) = [40]) := by decide +kernel

/-- A flit in quarantine; a launch whose staged writes leave; a release frame; a commit; the serial token. -/
def quarantined : State := (later mapped 640).updHomes fun h =>
      { h with egress := [{ t := 0, hub := 0, loc := farHost, bytes := [7#8, 8#8] }] }
def flushing : State := (device.updQueues fun q =>
      { q with launches := [(40, { aLaunch with flush := true, running := false })], cards := [aCard] }).updHomes fun h =>
  { h with staged := [(40, entry (toHome farHost 4))] }
def framed (v : Nat) : State := device.updHubs fun h => { h with frames := [(1, [(0, v)])] }
def applying : State := (gone (.apply { id := 3, wid := 0, lines := [0x206], cells := [(0x10300, 5#8), (0x10301, 6#8)], serial := some 4 })).updCtx 0 fun c =>
  { c with token := some 4 }
def passing : State := mapped.updCtx 0 fun c => { c with fifo := [3] }
def serial : State := passing.updWave 0 fun x => { x with frontier := x.frontier.map fun e => { e with stat := .serial } }
theorem witness_HomeEvents_others : quarantined.wayHeld farHost = false ∧ quarantined.wayOf farHost ≠ .none ∧ quarantined.memOk = true
    ∧ answers quarantined .egressQuarantineRelease = true ∧ (flushing.queues.launches.find? (fun p => p.2.flush)).isSome = true
    ∧ (flushing.launch 40).isSome = true ∧ flushing.launchCancelled 40 = false ∧ (flushing.card 0 0x400).isSome = true
          ∧ answers flushing .stagedEgressFlush = true
    ∧ ([framed 1, framed 32767, framed 32768].all fun s => answers s .releaseFrameReceive) = true
    ∧ (applying.homes.flight.all fun e => !(applying.earlier e)) = true ∧ applying.homes.snaps = [] ∧ (applying.ctx 0).token = some 4
    ∧ applying.homes.l2.length + 1 < 65536 ∧ ([0x10300, 0x10301].all fun a => a < hbmEnd && a / 128 = 0x206) = true
    ∧ applying.homeStops ⟨0, 0, 0, 0x206 * 128⟩ = false ∧ quarantined.wayStops farHost = false
    ∧ answers applying (.txApplyComplete 0) = true ∧ (passing.ctx 0).token = none ∧ answers passing (.serialTokenPass 0) = true
    ∧ (serial.wave 0).frontier.any (fun e => inMask e.mask 3 && e.stat = .serial) = true := by decide +kernel
theorem witness_applying_quiet : applying.quiet ⟨0, 0, 0, 0⟩ := by refine ⟨?_, ?_, ?_, ?_, ?_, ?_, ?_, ?_⟩ <;> decide +kernel
theorem test_homes_others : leads quarantined .egressQuarantineRelease (fun t => Mem.readN t.homes.host 0x900 2 = [7#8, 8#8])
    ∧ leads flushing .stagedEgressFlush (fun t => t.homes.staged = [] && t.homes.flight.length = 1)
    ∧ leads (framed 32767) .releaseFrameReceive (fun t => Tbl.get 0 (t.die 1).inbox 0 = 32767)
          ∧ leads (framed 32768) .releaseFrameReceive (fun t => Tbl.get 0 (t.die 1).inbox 0 = 0)
    ∧ leads applying (.txApplyComplete 0) (fun t => readMem t 0x300 2 = [5#8, 6#8] && (t.ctx 0).token.isNone)
    ∧ leads serial (.serialTokenPass 0) (fun t => (t.ctx 0).token = some 3
          && t.me.frontier.any fun e => e.stat = .ready) := by decide +kernel

/-! ## Witnesses: upkeep of memory, strikes and replays -/

/-- A walk for page 0 by core 0, and one for a page beyond the table. -/
def walking (page : Nat) : State := device.updDie 0 fun d =>
      { d with walks := [{ id := 9, asid := 0, page := page, core := 0, level := 3, table := 0x2000 }] }
/-- Page 0 may migrate, and chip 9 has counted its frame beyond the bound. -/
def wanted : State := { mapped with homes := { mapped.homes with dram := Mem.writeN mapped.homes.dram 0x8000 (toBytes 8 0x400000000002001F) } }.updHubs fun h =>
  { h with mig := { counts := [(1, 9, 5000)] } }
/-- One compressed frame whose unit 0 is dirty and whole in the L2, with a pool of a number of chunks; the same unit pinned. -/
def poolRegs (n : Nat) (h : Hubs) : Hubs :=
  { h with bar0 := [(0x20, 1), (0x28, 0x40000), (0x30, 0x50000), (0x38, BitVec.ofNat 64 n)].foldl (fun b p => Tbl.set b p.1 p.2) h.bar0 }
def pooled (n : Nat) : State := (device.updHubs (poolRegs n)).updHomes fun h =>
  { h with l2 := [0, 1].map fun n => (frameBase / 128 + n, (List.range 128).map fun i => (i, (7#8, true))) }
def pinned : State := (pooled 64).updHubs fun h => { h with comp := { h.comp with pinned := [(0, 5)] } }
def stalled : State := (later (gone (toHome local_ 4)) 10000000).updHubs fun h => { h with comp := { h.comp with stalled := [(90, 0)] } }
def copying1 : State := (gone (toHome local_ 4)).updHomes fun h => { h with snaps := [{ lid := 40, page := 1, copy := none }] }
theorem witness_MemoryUpkeep_walk : (walking 0).walkHeld 0 3 0x2000 = false ∧ (walking (2 ^ 30)).walkHeld (2 ^ 30) 3 0x2000 = false ∧ ([walking 0, walking (2 ^ 30)].all fun s => answers s (.pageWalkComplete 0 9)) = true
    ∧ leads (walking 0) (.pageWalkComplete 0 9) (fun t => (t.die 0).tlb.map (·.page) = [0] && (t.die 0).walks = [])
    ∧ leads (walking (2 ^ 30)) (.pageWalkComplete 0 9) (fun t => (t.die 0).neg.map (·.cause) = [1]) := by decide +kernel
theorem witness_MemoryUpkeep_move : (wanted.ctx 0).on = true ∧ wanted.entryOf 0 3 (wanted.ctx 0).ptroot = some 0x8000 ∧ wanted.memOk = true
    ∧ wanted.reg 0x0058 = 0 ∧ wanted.reg 0x0048 = 0 ∧ wanted.reg 0x0010 = 0 ∧ leafReserved 0 0x400000000002001F = false
          ∧ leafMigr 0x400000000002001F = true
    ∧ leafTgt 0x400000000002001F = 0 ∧ leafPa 0x400000000002001F / 65536 = 1
          ∧ BitVec.ofNat 64 (ofBytes (wanted.homeBytes 0x8000 8)) = 0x400000000002001F#64
    ∧ Tbl.get 0 wanted.hubs.mig.moves 0 = 0 ∧ wanted.homes.locks = [] ∧ 4096 < wanted.migCount 1 9 ∧ wanted.migCount 1 0 < wanted.migCount 1 9
    ∧ answers wanted (.migrationMove 0 0 9 false) = true
          ∧ (later wanted 4000000).hubs.mig.window < (later wanted 4000000).time / (later wanted 4000000).migWindow
    ∧ answers (later wanted 4000000) .migrationWindowEnd = true := by decide +kernel
theorem witness_MemoryUpkeep_compress : (pooled 64).inFrames frameBase = true ∧ (pooled 64).inL2 frameBase = some true
    ∧ ((pooled 64).takeChunks (compressUnit ((pooled 64).homeBytes frameBase 256)).2.1).isSome = true
    ∧ (pooled 0).takeChunks (compressUnit ((pooled 0).homeBytes frameBase 256)).2.1 = none
          ∧ (pooled 0).pinsFull (homeSlice frameBase) = false
    ∧ ([pooled 64, pooled 0].all fun s => answers s (.compressWriteback 0 0)) = true
    ∧ pinned.reg 0x0038 / 64 < pinned.freeChunks ∧ answers pinned .poolRefillUnpin = true
    ∧ (stalled.inFlight 90).isSome = true ∧ (stalled.ctx 0).stopped = false
          ∧ answers stalled .compressStallExpiry = true := by decide +kernel
theorem witness_MemoryUpkeep_pages : copying1.homes.snaps.map (·.copy) = [none]
      ∧ (copying1.homes.flight.any fun e => e.req.loc = some local_) = true
    ∧ local_.ra / 65536 = 1 ∧ ([1, 2].all fun n => answers device (.patrolScrubRead 0x818 n false)) = true := by decide +kernel
theorem test_upkeep : leads wanted (.migrationMove 0 0 9 false) (fun t => Tbl.get 0 t.hubs.mig.moves 0 = 1)
    ∧ leads (later wanted 4000000) .migrationWindowEnd (fun t => t.hubs.mig.counts = [] && t.hubs.mig.window = 1)
    ∧ leads (pooled 64) (.compressWriteback 0 0) (fun t => t.inL2 frameBase ≠ some true)
          ∧ leads stalled .compressStallExpiry (fun t => (t.ctx 0).stopped)
    ∧ leads device (.patrolScrubRead 0x818 2 false) (fun t => t.homes.poison = [0x818]) := by decide +kernel

/-- Cores, slices and hubs that a strike meets, a core in scrubbing, an IDEMP unit, and launches that wait for their replay. -/
def scrubbing : State := working.updCore 0 fun c => { c with scrub := some 20000, frozen := true }
def slicing (d : Bool) : State := (device.updDie 0 fun x => { x with scrubs := [(0, (50000, 0, 1, 2))] }).updHomes fun h =>
      { h with l2 := [(0, [(0, (7#8, d))])] }
def idempotent : State := working.updUnit lone.me.uid fun u => { u with crec := { u.crec with lid := 40, flags := 1 } }
/-- A record of every IDEMP unit of the launch is away: its snapshot page is copied back, and its card posted. -/
def replaying (card : Bool) : State := (device.updQueues fun q =>
    { q with launches := [(40, { aLaunch with replaying := some 0, running := false, flags := 1 })], cards := if card then [aCard] else [] }).updHomes fun h =>
  { h with snaps := [{ lid := 40, page := 1, copy := some ([1#8, 2#8], []) }] }
theorem witness_StrikesAndReplay : ([working, slicing true].all fun s => s.queues.launches.all fun p => p.2.id = p.1) = true
    ∧ ([working, idempotent].all fun s => answers s (.strikeReportCore 0 1 2)) = true ∧ ((scrubbing.core 0).scrub.isSome) = true
    ∧ ([true, false].all fun ok => answers scrubbing (.coreScrubEnd 0 ok)) = true ∧ answers device (.strikeReportSlice 0 0 1 2) = true
    ∧ homeSlice 0 / 2 = 0 ∧ lineQuadrant 0 = 0
    ∧ ([true, false].all fun d => answers (slicing d) (.sliceScrubEnd 0 0 []) && answers (slicing d) (.sliceScrubEnd 0 0 [0])) = true
    ∧ ([true, false].all fun c => answers device (.strikeReportRouter 0 0 1 2 c)) = true ∧ device.hubs.fatal = none
          ∧ device.hubs.sched.standby = true
    ∧ ([(8, 0, 0), (8, 1, 0), (6, 1, 0), (9, 0,
          0)].all fun p => answers device (.strikeReportHub p.2.1 p.1 p.2.2 1 2)) = true := by decide +kernel
theorem witness_StrikesAndReplay_units : ((idempotent.unit lone.me.uid).map fun u => u.core = 0 && u.stat = .resident
      && u.crec.idemp) = some true
    ∧ cardCoop aLaunch.flags = false ∧ (idempotent.core 0).chkTimes = []
          ∧ answers idempotent (.pipeCheckMismatch 0 lone.me.uid 0 0 0 0) = true
    ∧ ([true, false].all fun c => (replaying c).replayReady 40 && answers (replaying c) .launchReplay) = true
          ∧ (replaying true).cardCancelled aCard = false := by decide +kernel
theorem test_strikes : leads working (.strikeReportCore 0 1 2) (fun t => (t.core 0).frozen && (t.core 0).scrub = some 20000
      && (t.unit lone.me.uid).isNone)
    ∧ leads scrubbing (.coreScrubEnd 0 false) (fun t => (t.core 0).retired && !(t.core 0).frozen)
    ∧ leads (slicing true) (.sliceScrubEnd 0 0 [0]) (fun t => t.homes.poison = [0])
          ∧ leads (slicing false) (.sliceScrubEnd 0 0 [0]) (fun t => t.inL2 0 = none)
    ∧ leads idempotent (.pipeCheckMismatch 0 lone.me.uid 0 0 0 0) (fun t => (t.unit lone.me.uid).isNone
          && ((coresOf 0).any fun k => (t.core k).uq ≠ []))
    ∧ leads (replaying false) .launchReplay (fun t => readMem t 0 2 = [1#8, 2#8] && (t.launch 40).map (·.replays) = some 1)
    ∧ leads (replaying true) .launchReplay (fun t => (t.card 0 0x400).map (·.stat) = some .posted) := by decide +kernel

/-! ## Witnesses: resets, clocks and links, the host and the mailbox -/

def failing : State := later (device.updHubs fun h => { h with fatal := some 10000000 }) 10000000
def hot : State := later (device.updDie 0 fun d => { d with clk := { d.clk with hotSince := some 0 } }) 100000000
def quietly (standby : Bool) : State := later (device.updHubs fun h => { h with sched := { h.sched with standby := standby } }) 100000000
def taking : State := device.updHubs fun h => { h with sched := { h.sched with takeover := some 0 } }
def restarting : State := device.updHubs fun h => { h with sched := { h.sched with restarting := [(1, 0, 5000000)] } }
/-- The same with an image in the boot flash. -/
def imaged : State := failing.updHubs fun h => { h with boot := some { body := [1#8], sig := [2#8], svn := 0 } }
theorem witness_ResetsAndTakeover : imaged.hubs.fatal = some imaged.time ∧ imaged.hubs.boot.isSome = true ∧ device.hubs.fatal = none ∧ ([1, 15].all fun c => answers device (.deviceFatal c 0)) = true
    ∧ answers device (.ucieUnrecoverable 3) = true ∧ (hot.die 0).clk.hotSince = some 0 ∧ answers hot (.thermalOverstayExpiry 0) = true
    ∧ failing.hubs.fatal = some failing.time ∧ answers failing .fatalGraceExpiry = true ∧ answers device .timerFailover = true
    ∧ device.hubs.sched.takeover = none ∧ answers device .heartbeatWrite = true
    ∧ ([true, false].all fun b => (quietly b).hubs.sched.heartbeat + 100000000 ≤ (quietly b).time && (quietly b).hubs.sched.standby = b
        && answers (quietly b) .heartbeatTimeout) = true
    ∧ taking.hubs.sched.takeover = some 0 ∧ answers taking .schedulerTakeover = true ∧ restarting.hubs.sched.hub = 0
          ∧ answers restarting .cpCoreRestart = true := by
  decide +kernel
theorem test_resets : leads device (.deviceFatal 1 0) (fun t => t.hubs.fatal = some 10000000 && t.reg 0x0008 = 3)
      ∧ leads failing .fatalGraceExpiry (fun t => t.units = [] && t.time = 0)
    ∧ leads hot (.thermalOverstayExpiry 0) (fun t => t.hubs.fatal = some 110000000)
          ∧ leads (quietly true) .heartbeatTimeout (fun t => t.hubs.sched.takeover = some 100000000)
    ∧ leads (quietly false) .heartbeatTimeout (fun t => t.hubs.fatal.isSome)
          ∧ leads taking .schedulerTakeover (fun t => t.hubs.sched.hub = 1 && t.hubs.sched.takeover.isNone) := by
  decide +kernel

/-- A die in a relock from point 2 to point 1; the same with a point held. -/
def relocking (held : Option Nat) : State := later (device.updDie 0 fun d =>
      { d with clk := { d.clk with op := 1, relock := some (1500, 2, 700), held := held } }) 1500
def linked (st n : Nat) : State := later (device.updHubs fun h =>
      { h with ports := [(3, { state := st, peer := 9, rxSeq := 4, resends := n })] }) 2000000000
/-- A flit that passes its CRC, and one that does not. -/
def goodFlit : List Byte := let b := List.replicate 252 1#8; b ++ toBytes 4 (crc32c b)
def badFlit : List Byte := List.replicate 256 1#8
/-- Port 3 leads to chip 9; there a commit holds the line of a peer's request. -/
def peering : State := (device).updHubs fun h => { h with ports := (linked 2 0).hubs.ports }
def barred : State := peering.updHomes fun h => { h with locks := [⟨0x10300 / 128, 7, 0, false⟩] }
theorem witness_ClocksAndLinks_flits : leAt goodFlit 252 4 = crc32c (goodFlit.take 252) ∧ leAt badFlit 252 4 ≠ crc32c (badFlit.take 252)
    ∧ goodFlit.length = 256 ∧ ((linked 2 0).port 3).fec = [] ∧ ((linked 2 3).port 3).resends = 3
    ∧ ([true, false].all fun f => answers (linked 2 0) (.linkFlitReceive 3 4 ⟨f, goodFlit⟩)
        && answers (linked 2 0) (.linkFlitReceive 3 5 ⟨f, goodFlit⟩)
        && answers (linked 2 0) (.linkFlitReceive 3 4 ⟨f, badFlit⟩) && answers (linked 2 3) (.linkFlitReceive 3 4 ⟨f, badFlit⟩)) = true := by
  decide +kernel
theorem witness_ClocksAndLinks : (device.die 0).clk.relock = none ∧ answers device (.stepRequest 0 1) = true
      ∧ answers (relocking none) (.stepRequest 0 4) = true
    ∧ answers device (.thermalLimitReached 0) = true ∧ ([none, some 0, some 1].all fun h => answers (relocking h) (.relockEnd 0)) = true
    ∧ device.hubs.limit.length = 4 ∧ ([0, 3].all fun r => answers device (.limitRefusal r 0)) = true
    ∧ ([.linkFlowStop 15 3, .linkFlowGo 0 0] : List Instr).all (answers device) = true
    ∧ ([0, 1].all fun st => ((linked st 0).port 3).state = st && answers (linked st 0) (.linkTrainingComplete 3 1023 true)) = true
    ∧ ([.linkRetrainComplete 3, .linkRetrainTimeout 3] : List Instr).all (answers (linked 3 0)) = true
    ∧ peering.homeWaits local_ 2 = false ∧ barred.homeWaits local_ 2 = true ∧ peering.hubs.mig.fwd = []
    ∧ ([peering, barred].all fun s => s.portFrom 9 0x10300 = some 3 && s.peerCount 3 = 0 && !s.inRecovery && s.hubs.fatal.isNone
        && answers s (.peerRequestArrive 9 0x10300 1 [1#8, 2#8])) = true := by decide +kernel
theorem witness_device_quiet : device.quiet local_ ∧ peering.quiet local_ ∧ barred.quiet local_ := by
  refine ⟨?_, ?_, ?_⟩ <;> (refine ⟨?_, ?_, ?_, ?_, ?_, ?_, ?_, ?_⟩ <;> decide +kernel)
/-- "123456789" has the CRC-32C 0xE3069283, the check value of that code. -/
theorem test_crc32c : crc32c ((List.range 9).map fun i => BitVec.ofNat 8 (49 + i)) = 0xE3069283 := by decide +kernel
theorem test_links : leads (linked 2 0) (.linkFlitReceive 3 4 ⟨false, goodFlit⟩) (fun t => (t.port 3).rxSeq = 5)
      ∧ leads (linked 2 3) (.linkFlitReceive 3 4 ⟨false, badFlit⟩) (fun t => (t.port 3).state = 3)
    ∧ leads (linked 3 0) (.linkRetrainTimeout 3) (fun t => (t.port 3).state = 0)
          ∧ leads peering (.peerRequestArrive 9 0x10300 1 [1#8, 2#8]) (fun t => readMem t 0x300 3 = [1#8, 2#8, 0#8])
          ∧ leads barred (.peerRequestArrive 9 0x10300 1 [1#8, 2#8]) (fun t => readMem t 0x300 3 = [0#8, 0#8, 0#8] && t.hubs.peerQ.length = 1)
    ∧ leads (relocking none) (.relockEnd 0) (fun t => (t.die 0).clk.relock.isNone
          && (t.die 0).clk.scycle 1500 = 525 + 1350) := by decide +kernel

/-- No context is on; a mailbox that is free, or that holds a command; a record queued for a log. -/
def unset : State := { device with ctxs := [] }
def ready_ (op : Nat) : State := device.updHubs fun h => { h with bar0 := Tbl.set (Tbl.set h.bar0 0x8 1) 0x1000 (BitVec.ofNat 64 op) }
def mail (op : Nat) (args : List (Nat × Nat × Nat)) (s : State) : State :=
  s.updHubs fun h => { h with mbox := { busy := true, op := op, args := bytesOf 64 ((0, 1, op) :: args) } }
def poisoned_ : State := device.updHomes fun h => { h with poison := [0x818] }
def errQueued (full : Bool) : State := (device.updHubs fun h =>
    { h with errQ := [{ ctx := none, bytes := bytesOf 64 [(0, 1, 5), (1, 1, 2)] }], seqs := if full then [(64, 4095)] else [] })
def faultQueued (full : Bool) : State := (device.updHubs fun h =>
    { h with faultQ := [{ ctx := 0, bytes := bytesOf 32 [(11, 1, 1)] }], seqs := if full then [(128, 2046)] else [] }).updCtx 0 fun c =>
          { c with spill := 0x100000 }
theorem witness_HostAccesses : device.homeWaits local_ 4 = false ∧ device.hubs.fatal = none
    ∧ ([true, false].all fun w => answers device (.bar2Access w 0x10300 [1#8, 2#8, 3#8, 4#8])) = true ∧ poisoned_.poisoned 0x10300 4 = true
    ∧ device.poisoned 0x10300 4 = false ∧ unset.anyOn = false ∧ device.anyOn = true
    ∧ ([0x0, 0x8, 0x18, 0x58, 0x80, 0xF8, 0x1000, 0x1038].all fun off => answers unset (.bar0RegisterWrite off 0x12345)
          && answers device (.bar0RegisterWrite off 0x12345)) = true
    ∧ ([0, 1, 6, 7].all fun op => (ready_ op).reg 0x8 % 16 = 1 && answers (ready_ op) (.bar0RegisterWrite 0x1040 1)) = true
    ∧ (mail 1 [] (ready_ 1)).hubs.mbox.busy = true ∧ answers (mail 1 [] (ready_ 1)) (.bar0RegisterWrite 0x1040 1) = true
    ∧ ([0, 1].all fun v => answers device (.mbstatWrite v)) = true
          ∧ ([0, 0x11, 0x61, 0x71, 0x15, 0x10011].all fun v => answers device (.injctlWrite v)) = true := by
  decide +kernel
theorem witness_Logs : ([true, false].all fun f => let s := errQueued f
      let g := s.errLog none
      let read := leAt (s.homeBytes (g.base + 4) 4) 0 4
      decide (g.base + 64 + 64 * g.slots ≤ hbmEnd) && decide (read < 2 * g.slots)
            && decide (g.span (s.rdKept g) read ≤ g.span (s.rdKept g) (s.wrIdx g))
        && (decide (g.span read (s.wrIdx g) = g.slots) == f) && answers s .errorRecordPost) = true
    ∧ ([true, false].all fun f => let s := faultQueued f
      let g := s.faultLog 0
      let read := leAt (s.homeBytes (g.base + 4) 4) 0 4
      decide (g.base + 64 + 32 * g.slots ≤ hbmEnd) && decide (read < 2 * g.slots)
            && decide (g.span (s.rdKept g) read ≤ g.span (s.rdKept g) (s.wrIdx g))
        && (decide (g.slots ≤ g.span read (s.wrIdx g)) == f) && s.hubs.faultQ.all (fun f => f.bytes.length = 32
              && (byteAt f.bytes 11) % 64 = 1)
        && answers s .faultRecordPost) = true := by decide +kernel
theorem test_host : leads device (.bar2Access true 0x10300 [1#8, 2#8]) (fun t => readMem t 0x300 2 = [1#8, 2#8])
      ∧ leads poisoned_ (.bar2Access false 0x10300 [0#8]) (fun t => t.hubs.errQ.length = 1)
    ∧ leads unset (.bar0RegisterWrite 0x80 0x12345) (fun t => t.reg 0x80 = 0x12000)
          ∧ leads (ready_ 1) (.bar0RegisterWrite 0x1040 1) (fun t => t.hubs.mbox.busy && t.hubs.mbox.op = 1)
    ∧ leads (ready_ 7) (.bar0RegisterWrite 0x1040 1) (fun t => !t.hubs.mbox.busy && t.reg 0x1048 / 256 % 256 = 1)
          ∧ leads device (.injctlWrite 0x31) (fun t => t.reg 0x0F08 = 0x31)
    ∧ leads (errQueued false) .errorRecordPost (fun t => t.hubs.errQ = [] && t.hubs.msixPend = [1] && t.homeBytes 0x8FFFFC0040 2 = [5#8, 2#8]
          && leAt (t.homeBytes 0x8FFFFC0000 4) 0 4 = 1)
    ∧ leads (errQueued true) .errorRecordPost (fun t => t.hubs.errQ = [] && t.hubs.msix = []) := by decide +kernel

/-- CTXON of row 5 of the table at 0x10000, whose ring's logarithm is a given one; the other commands. -/
def granting (rl : Nat) (n : Nat) : State := mail 1 [(8, 2,
      n)] (withMem (device.updHubs fun h => { h with bar0 := Tbl.set h.bar0 0x18 0x10000 }) (64 * 5)
  (bytesOf 64 [(0, 8, 0x2000), (8, 2, 3), (16, 1, 1), (32, 8, 0x1000), (40, 1, rl), (48, 8, 0x9000), (56, 8, 0x100000)]))
def idle : State := ctxUp { mapped with units := [], waves := [] }
def faulty : State := after faulting (.sst mL)
def flash (fs : List (Nat × Nat × Nat)) (f : Flash → Flash) (st : Nat) : State := (mail 4 fs device).updHubs fun h =>
      { h with flash := f h.flash, mbox := { h.mbox with stage := st } }
def cci (fs : List (Nat × Nat × Nat)) (f : Flash → Flash) (st : Nat) : State :=
  (mail 5 [(8, 8, 0x10400)] (withMem device 0x400 (bytesOf 64 fs))).updHubs fun h =>
        { h with flash := f h.flash, mbox := { h.mbox with stage := st } }
theorem witness_MailboxOperations_contexts : ([granting 6 64, granting 6 0, granting 5 5, granting 6 5].all fun s => s.mboxRuns 1
      && answers s .ctxon) = true
    ∧ ((granting 6 0).ctx 0).on = true ∧ ((granting 6 5).ctx 5).on = false
          ∧ badField ((granting 6 5).homeBytes ((granting 6 5).reg 0x18 + 320) 64) = none
    ∧ badField ((granting 5 5).homeBytes ((granting 5 5).reg 0x18 + 320) 64) = some 40
    ∧ ([0, 1].all fun n => (mail 2 [(8, 2, n)] idle).mboxRuns 2 && answers (mail 2 [(8, 2, n)] idle) .ctxoff) = true
    ∧ (((mail 2 [] idle).cancelJobs 0).endFaultWaits 0).ctxQuiet 0 = true ∧ (mail 3 [] faulty).mboxRuns 3 = true
          ∧ (mail 3 [] faulty).homes.flight = []
    ∧ ((mail 3 [] faulty).cores.all fun p => p.2.cellar = []) = true ∧ (mail 3 [] faulty).hubs.mbox.stage = 0
    ∧ (faulty.me.frontier.any fun e => e.stat = .fault) = true ∧ (faulty.ctxWaves 0).contains 0 = true
          ∧ answers (mail 3 [] faulty) .tlbinv = true := by decide +kernel
/-- The translations of every address of ASID 0 are gone; nothing that used one is left, or a store of page 0 has yet to be applied. -/
def clearing (busy : Bool) : State :=
  let s := ((mail 3 [] faulty).updHubs fun h => { h with mbox := { h.mbox with stage := 2, n := 200 } })
  if busy then s.updHomes fun h => { h with flight := [{ entry (toHome local_ 4) with vps := [0] }] } else s
theorem witness_MailboxOperations_tlbinv : ([true, false].all fun b => (clearing b).mboxRuns 3
      && (clearing b).unperformed 0 ((clearing b).arg 16 8) 0 200 == b && answers (clearing b) .tlbinv) = true
    ∧ (clearing false).arg 8 2 = 0 ∧ (clearing false).arg 24 8 = 0 ∧ (clearing false).hubs.mbox.stage = 2 := by decide +kernel
/-- An image of one segment of four bytes. It is signed with the key that is the neutral point of the curve, whose signatures of every
message are the neutral point and zero (RFC 8032). -/
def imageBytes : List Byte :=
  let key : List Byte := 1#8 :: List.replicate 31 0#8
  let h := cciMagic ++ (bytesOf 136 [(8, 2, 1), (80, 8, 516), (92, 4, 1), (104, 8, 136), (112, 8, 208), (122, 2, 72), (128, 8, 512)]).drop 8
    ++ sha512 [1#8, 2#8, 3#8, 4#8] ++ List.replicate 8 0#8
  h ++ sha512 h ++ key ++ key ++ List.replicate 32 0#8
/-- CCILOAD with the trusted key at 0x600, the image's place at 0x800 and the bitmap at 0x700. -/
def loading (f : Flash → Flash) (key : Nat) : State :=
  withMem (cci [(16, 8, 0x10800), (24, 8, 0x10700), (32, 8, 0x10600), (40, 2, 1)] f 1) 0x600 [BitVec.ofNat 8 key]
theorem witness_MailboxOperations_cci : cciCheck imageBytes ((loading id 1).cciKeys (loading id 1).cciDesc) = none
    ∧ cciCheck imageBytes ((loading id 2).cciKeys (loading id 2).cciDesc) = some 4
    ∧ ([1, 2].all fun k => let s := loading (fun f => { f with cci := 2 }) k
        s.hubs.flash.cci = 2 && ([true, false].all fun ok => answers s (.cciSegmentLoad 0 ok imageBytes))) = true := by decide +kernel
theorem witness_MailboxOperations_segments : let s := loading (fun f => { f with cci := 3, out := [0], head := imageBytes }) 1
    s.mboxRuns 5 = true ∧ s.homes.l2.length + 32784 < 65536 ∧ segLen imageBytes 0 = 4 ∧ sha512 [1#8, 2#8, 3#8, 4#8] = segDigest imageBytes 0
      ∧ leads s (.cciSegmentLoad 0 true [1#8, 2#8, 3#8, 4#8]) (fun t => readMem t (0x800 + 512) 4 = [1#8, 2#8, 3#8, 4#8] && readMem t 0x700 1 = [1#8])
      ∧ leads s (.cciSegmentLoad 0 true [1#8, 2#8, 3#8, 5#8]) (fun t => readMem t 0x700 1 = [0#8] && t.hubs.flash.failed = [0]) := by
  decide +kernel
theorem witness_MailboxOperations_flash : ([flash [(8, 8, 0x10500), (16, 2, 0)] id 0, flash [(8, 8, 0x10500), (16, 2, 1)] id 0,
        flash [] (fun f => { f with count := 1, issued := 1, bad := 1 }) 1].all fun s => s.mboxRuns 4 && answers s .flashxfer) = true
    ∧ ([0, 7].all fun st => answers (flash [] (fun f =>
          { f with count := 1, issued := 1, out := [0], list := 0x10500 }) 1) (.flashEntryComplete 0 st [1#8])) = true
    ∧ ([(cci [] id 0, 5), (cci [(32, 8, 0x10600), (40, 2, 1)] id 0, 5), (cci [] (fun f => { f with cci := 2 }) 1,
          5)].all fun p => p.1.mboxRuns p.2 && answers p.1 .cciload) = true
    ∧ ([false, true].all fun ok => answers (cci [(40, 2, 1)] (fun f => { f with cci := 1 }) 1) (.cciSegmentLoad 0 ok [])) = true
    ∧ (let s := cci [(16, 8, 0x10800), (24, 8, 0x10700), (40, 2, 1)] (fun f => { f with cci := 2, out := [0] }) 1
       s.cciDesc.length = 64 ∧ 0x10800 + leAt s.hubs.flash.head 128 8 < hbmEnd ∧ leAt s.cciDesc 24 8 < 0x10800)
    ∧ ([hbmEnd - 191, hbmEnd - 192].all fun a => (mail 6 [(8, 8, a)] device).mboxRuns 6) = true
          ∧ answers (mail 6 [(8, 8, hbmEnd - 191)] device) .attest = true := by decide +kernel
theorem test_mailbox : leads (granting 6 5) .ctxon (fun t => (t.ctx 5).on && (t.ctx 5).asid = 3 && (t.ctx 5).ring = 0x1000
      && t.hubs.msixPend = [0])
    ∧ leads (granting 5 5) .ctxon (fun t => t.reg 0x1048 = 40 * 2 ^ 32 + 0x200) ∧ leads (mail 2 [] idle) .ctxoff (fun t => !(t.ctx 0).on)
    ∧ leads (mail 3 [] faulty) .tlbinv (fun t => (t.core 0).tlb = [] && !(t.me.frontier.any fun e => e.stat = .fault))
    ∧ leads (mail 6 [(8, 8, hbmEnd - 191)] device) .attest (fun t => t.reg 0x1048 = 0x200) := by decide +kernel

/-! ## Witnesses: frames, the step, encodings, invariants -/

theorem next_of {s : State} {i : Instr} (h : answers s i = true) : ∃ t, exec i s = .next t := by
  unfold answers at h
  split at h
  · exact ⟨_, ‹_›⟩
  · cases h
/-- The state of the bank forms with no translation held. -/
def plain : State := inBank.updCore 0 fun c => { c with tlb := [] }
theorem plain_bad (b : Nat) : ((plain.core (coreOf plain.cur)).bank b).bad = [] := by
  have h : (plain.core (coreOf plain.cur)).banks = [(0, { mode := .storage }), (1, { mode := .storage }), (2,
        { mode := .compute })] := by decide +kernel
  simp only [CoreSt.bank, h, Tbl.get, Tbl.find]
  repeat (first | rfl | split)
theorem plain_xlate (va n : Nat) (k : AccKind) : plain.xlate plain.cur va n k = .walk := by
  have h1 : (plain.core (coreOf plain.cur)).tlb = [] := by decide +kernel
  have h2 : (plain.die (dieOfCore (coreOf plain.cur))).neg = [] := by decide +kernel
  have h3 : (plain.die (dieOfCore (coreOf plain.cur))).tlb = [] := by decide +kernel
  simp [State.xlate, State.knows, h1, h2, h3]
theorem witness_Frames : plain.sound ∧ plain.calm ∧ (plain.wx plain.cur).returns = [] ∧ (plain.core (coreOf plain.cur)).l1 = [] :=
  ⟨⟨⟨by decide +kernel, by decide +kernel⟩, by decide +kernel, by decide +kernel, by decide +kernel, plain_bad, by decide +kernel,
    fun va n k p h => by simp [plain_xlate] at h, by decide +kernel⟩, ⟨by decide +kernel, by decide +kernel⟩, by decide +kernel, by decide +kernel⟩
theorem witness_Frames_next : (∃ t, exec (.ld mV) plain = .next t) ∧ (∃ t, exec (.st mV) plain = .next t)
      ∧ (∃ t, exec (.vadd aV) plain = .next t)
    ∧ (registerOnly (.vadd aV)).isSome = true :=
  ⟨next_of (by decide +kernel), next_of (by decide +kernel), next_of (by decide +kernel), by decide⟩
theorem witness_StepRuns_relock : (relocking none).relockDue = some 0 ∧ (match step (relocking none) with | .next t => (t.die 0).clk.relock.isNone | _ => false) = true
    ∧ lone.relockDue = none := by decide +kernel
theorem witness_StepRuns : (lone.wave 0).issuing.any (fun e => e.fetched && e.todo = [⟨0, 0, 0, false⟩]) = true
      ∧ lone.agenda = [⟨lone.time, .pick 0⟩]
    ∧ lone.holds 0 = true ∧ lone.mayIssue 0 = true ∧ lone.hubs.fatal = none ∧ lone.packedWait 0 = none := by decide +kernel
theorem witness_DecodeEncode : (Instr.fadd aV).wf = true ∧ (encode (.fadd aV)).isSome = true ∧ (Instr.ld mV).wf = true
      ∧ (encode (.ld mV)).isSome = true := by decide
theorem witness_MemoryKept : State.reset.memOk = true ∧ lone.memOk = true ∧ ∃ t, step lone = .next t :=
  ⟨by decide +kernel, by decide +kernel, by
    have h : (match step lone with | .next _ => true | _ => false) = true := by decide +kernel
    split at h
    · exact ⟨_, ‹_›⟩
    · cases h⟩

end Sys2Proof.Tests
end

section
/-! Scalar bit operations and scalar floating point (R249, R251 to R253, R256, R257): what a scalar result reads back as, the value
of each operation on whole sources, and from these the statements. -/

namespace Sys2Proof.Machine

/-! ## Results of scalar instructions -/

/-- A scalar destination reads back the result of a TYPE that the instruction puts there. -/
theorem Wave.holdsT_putST {x y : Wave} {ty n : Nat} {o : Operand} {v : Dword} (ho : (uDstS o n).legal = true)
    (h : y.alike (x.putST ty o v)) : y.holdsT ty o 0 v := by
  intro hz
  rcases Use.dstS_legal ho with ⟨k, rfl⟩ | rfl
  · rw [Wave.alike_srcT h, Wave.srcT_putST]
  · exact absurd rfl hz

/-- A scalar destination reads back the word that the instruction puts there. -/
theorem Wave.holdsWord_putS {x y : Wave} {n : Nat} {o : Operand} {v : Word} (ho : (uDstS o n).legal = true)
    (h : y.alike (x.putS o v)) : y.holdsWord o 0 v := by
  intro hz
  rcases Use.dstS_legal ho with ⟨k, rfl⟩ | rfl
  · rw [Wave.alike_src h]; simp [Wave.src, Wave.putS]
  · exact absurd rfl hz

section
variable {s : State} {f : FmtA} {g : Sig} {i : Instr} {n : Nat} {post : State → Prop}

/-- Where an instruction of the `scalarWide` form performs, its destination holds the operation on its sources. -/
theorem scalarWide_gives {op : Dword → Dword → Dword → Dword} (hi : exec i s = scalarWide f g op s)
    (hd : uDstS f.dst n ∈ g.uses)
    (hp : s.performs (byQ f.guard f.neg) g = true → ∀ t : State, t.me.holdsT f.type f.dst 0
      (op (s.me.srcT f.type f.srcA 0) (s.me.srcT f.type f.srcB 0) (s.me.srcT f.type f.srcC 0)) → post t) :
    s.gives (byQ f.guard f.neg) g i post := by
  intro h
  obtain ⟨t, ht, hme, -⟩ := scalarOp_performs (f := fun x => x.putST f.type f.dst
    (op (x.srcT f.type f.srcA 0) (x.srcT f.type f.srcB 0) (x.srcT f.type f.srcC 0))) h
  exact ⟨t, hi.trans ht, hp h t (Wave.holdsT_putST ((State.performs_legal h).2 _ hd) hme)⟩

/-- Where a scalar instruction that puts one word performs, its destination holds that word. -/
theorem scalarWord_gives {v : Wave → Word} (hi : exec i s = scalarOp f.guard f.neg g (fun x => x.putS f.dst (v x)) s)
    (hd : uDstS f.dst n ∈ g.uses)
    (hp : s.performs (byQ f.guard f.neg) g = true → ∀ t : State, t.me.holdsWord f.dst 0 (v s.me) → post t) :
    s.gives (byQ f.guard f.neg) g i post := by
  intro h
  obtain ⟨t, ht, hme, -⟩ := scalarOp_performs (f := fun x => x.putS f.dst (v x)) h
  exact ⟨t, hi.trans ht, hp h t (Wave.holdsWord_putS ((State.performs_legal h).2 _ hd) hme)⟩

end

theorem sigSInt_dst (f : FmtA) (types : List Nat) (sat : Bool) (k : Nat) :
    uDstS f.dst (regsOf f.type) ∈ (sigSInt f types sat k).uses := List.mem_cons_self
theorem sigSCount_dst (f : FmtA) : uDstS f.dst 1 ∈ (sigSCount f).uses := List.mem_cons_self
theorem sigSFlt_dst (f : FmtA) (k : Nat) : uDstS f.dst 1 ∈ (sigSFlt f k).uses := List.mem_cons_self
theorem sigSfcvt_dst (f : FmtA) : uDstS f.dst 1 ∈ (sigSfcvt f).uses := List.mem_cons_self

/-! ## TYPEs of one element -/

theorem type_mem_of_badMod {f : FmtA} {types : List Nat} {round sat : Bool} (h : badMod f types round sat = false) :
    f.type ∈ types := by
  simp only [badMod, Bool.or_eq_false_iff, Bool.not_eq_false'] at h
  simpa using h.1.1.1

/-- A TYPE of one element fills the registers of its operand. -/
theorem elemW_of_tyPlain {ty : Nat} (h : ty ∈ tyPlain) : elemW ty = if wide ty then 64 else 32 := by
  simp only [tyPlain, List.mem_cons, List.not_mem_nil, or_false] at h
  rcases h with rfl | rfl | rfl | rfl <;> rfl

theorem elemN_of_tyPlain {ty : Nat} (h : ty ∈ tyPlain) : elemN ty = 1 := by
  simp only [tyPlain, List.mem_cons, List.not_mem_nil, or_false] at h
  rcases h with rfl | rfl | rfl | rfl <;> rfl

theorem elemW_le (ty : Nat) : elemW ty ≤ 64 := by
  unfold elemW; split_ifs <;> omega

theorem Wave.srcT_lt {ty : Nat} (h : ty ∈ tyPlain) (x : Wave) (o : Operand) (l : Nat) :
    (x.srcT ty o l).toNat < 2 ^ elemW ty := by
  rw [elemW_of_tyPlain h]
  unfold Wave.srcT
  split
  · exact BitVec.isLt _
  · rw [BitVec.toNat_setWidth_of_le (by omega)]
    exact BitVec.isLt _

/-- A destination looks at the bits of the TYPE's width only. -/
theorem Wave.holdsT_of_mod_eq {x : Wave} {ty l : Nat} {o : Operand} {u v : Dword} (h : ty ∈ tyPlain)
    (e : u.toNat % 2 ^ elemW ty = v.toNat % 2 ^ elemW ty) (hu : x.holdsT ty o l u) : x.holdsT ty o l v := by
  intro hz
  rw [hu hz]
  rw [elemW_of_tyPlain h] at e
  split
  · rename_i hw
    rw [if_pos hw, Nat.mod_eq_of_lt u.isLt, Nat.mod_eq_of_lt v.isLt] at e
    exact BitVec.eq_of_toNat_eq e
  · rename_i hw
    rw [if_neg hw] at e
    congr 1
    exact BitVec.eq_of_toNat_eq (by simpa [loHalf] using e)

/-- The low bits of an integer are the same however it becomes a double word. -/
theorem ofNat_wrapN_mod {w : Nat} (h : w ≤ 64) (z : Int) :
    (BitVec.ofNat 64 (wrapN w z)).toNat % 2 ^ w = (BitVec.ofInt 64 z).toNat % 2 ^ w := by
  have hlt : wrapN w z < 2 ^ 64 := lt_of_lt_of_le (wrapN_lt w z) (Nat.pow_le_pow_right (by omega) h)
  have hd : (2 ^ w : Int) ∣ 2 ^ 64 := pow_dvd_pow 2 h
  have hp : (0 : Int) < 2 ^ 64 := by positivity
  rw [BitVec.toNat_ofNat, Nat.mod_eq_of_lt hlt, Nat.mod_eq_of_lt (wrapN_lt w z), BitVec.toNat_ofInt, wrapN]
  zify
  rw [Int.toNat_of_nonneg (Int.emod_nonneg _ (by positivity)), Int.toNat_of_nonneg (Int.emod_nonneg _ (by positivity)),
    Int.emod_emod_of_dvd _ hd]

/-- Sign extension is the balanced remainder. -/
theorem sext_eq_bmod (w x : Nat) : sext w x = (x : Int).bmod (2 ^ w) := by
  rcases Nat.eq_zero_or_pos w with rfl | hw
  · simp [sext]
  · rw [← sext_wrapN hw]
    have h : wrapN w x = x % 2 ^ w := by unfold wrapN; norm_cast
    rw [h, sext, sext, Nat.mod_mod]

/-! ## Shifts (R251) -/

/-- A shift at a TYPE of one element shifts the whole source by the whole amount. -/
theorem shiftI_of_tyPlain {ty : Nat} (h : ty ∈ tyPlain) (k : ShK) {a b : Dword} (ha : a.toNat < 2 ^ elemW ty)
    (hb : b.toNat < 2 ^ elemW ty) :
    shiftI k ty a b = BitVec.ofNat 64 (k.apply (elemW ty) a.toNat b.toNat % 2 ^ elemW ty) := by
  simp [shiftI, elemN_of_tyPlain h, packBits, bitsOf, Nat.mod_eq_of_lt ha, Nat.mod_eq_of_lt hb]

section
variable {ty : Nat} {a b : Dword} (h : ty ∈ tyPlain) (ha : a.toNat < 2 ^ elemW ty) (hb : b.toNat < 2 ^ elemW ty)
include h ha hb

theorem shiftI_left : shiftI .left ty a b =
    if elemW ty ≤ b.toNat then 0 else BitVec.ofNat 64 (a.toNat * 2 ^ b.toNat % 2 ^ elemW ty) := by
  rw [shiftI_of_tyPlain h _ ha hb, ShK.apply, shlN]
  split
  · simp
  · rw [Nat.mod_mod]

theorem shiftI_right : shiftI .right ty a b =
    if elemW ty ≤ b.toNat then 0 else BitVec.ofNat 64 (a.toNat / 2 ^ b.toNat) := by
  rw [shiftI_of_tyPlain h _ ha hb, ShK.apply, shrN]
  split
  · simp
  · rw [Nat.mod_eq_of_lt ha, Nat.mod_eq_of_lt (lt_of_le_of_lt (Nat.div_le_self _ _) ha)]

theorem shiftI_arith : shiftI .arith ty a b = BitVec.ofNat 64
    (wrapN (elemW ty) ((a.toNat : Int).bmod (2 ^ elemW ty) / 2 ^ min b.toNat (elemW ty - 1))) := by
  rw [shiftI_of_tyPlain h _ ha hb, ShK.apply, sraN, sext_eq_bmod, Nat.mod_eq_of_lt (wrapN_lt _ _)]

end

/-! ## Bit fields (R252) -/

theorem fieldOW_eq (w : Nat) (d : Dword) : fieldOW w d =
    (min (d.toNat % 256) w, min (d.toNat / 256 % 256) (w - min (d.toNat % 256) w)) := by
  simp [fieldOW, fieldN, bitsOf, Nat.shiftRight_eq_div_pow]

/-- An extracted field, extended as the TYPE says, in the bits of the TYPE's width. -/
theorem bfe_mod {ty : Nat} {a d : Dword} {o n : Nat} (hf : fieldOW (elemW ty) d = (o, n)) :
    (bfe ty a d).toNat % 2 ^ elemW ty =
      (if isSigned ty then BitVec.ofInt 64 (((a.toNat / 2 ^ o % 2 ^ n : Nat) : Int).bmod (2 ^ n))
        else BitVec.ofNat 64 (a.toNat / 2 ^ o % 2 ^ n)).toNat % 2 ^ elemW ty := by
  simp only [bfe, hf, bitsOf, Nat.shiftRight_eq_div_pow]
  rcases Nat.eq_zero_or_pos n with rfl | hn
  · simp [Nat.mod_one]
  · rw [if_neg hn.ne']
    split
    · rw [ofNat_wrapN_mod (elemW_le ty), sext_eq_bmod]
    · rfl

/-- Bits `o` to `o + n - 1` of `c` replaced by the low `n` bits of `x`. -/
def insertBits (c x o n : Nat) : Nat := c - bitsOf c o n * 2 ^ o + x % 2 ^ n * 2 ^ o

/-- The three parts of a number in which a field has been replaced: below it, the field, and above it. -/
theorem insertBits_parts (c x o n : Nat) : insertBits c x o n =
    c % 2 ^ o + 2 ^ o * (x % 2 ^ n + 2 ^ n * (c / 2 ^ (o + n))) := by
  have h1 : c = c % 2 ^ o + 2 ^ o * (c / 2 ^ o) := (Nat.mod_add_div _ _).symm
  have h2 : c / 2 ^ o = c / 2 ^ o % 2 ^ n + 2 ^ n * (c / 2 ^ (o + n)) := by
    rw [Nat.pow_add, ← Nat.div_div_eq_div_mul, Nat.mod_add_div]
  rw [insertBits, bitsOf, Nat.shiftRight_eq_div_pow, Nat.mul_comm _ (2 ^ o), Nat.mul_comm _ (2 ^ o)]
  rw [Nat.mul_add]
  have h3 : 2 ^ o * (c / 2 ^ o) = 2 ^ o * (c / 2 ^ o % 2 ^ n) + 2 ^ o * (2 ^ n * (c / 2 ^ (o + n))) := by
    rw [← Nat.mul_add, ← h2]
  omega

theorem insertBits_below (c x o n : Nat) : insertBits c x o n % 2 ^ o = c % 2 ^ o := by
  rw [insertBits_parts, Nat.add_mul_mod_self_left, Nat.mod_mod]

theorem insertBits_div (c x o n : Nat) : insertBits c x o n / 2 ^ o = x % 2 ^ n + 2 ^ n * (c / 2 ^ (o + n)) := by
  rw [insertBits_parts, Nat.add_mul_div_left _ _ (Nat.two_pow_pos o), Nat.div_eq_of_lt (Nat.mod_lt _ (Nat.two_pow_pos o)),
    Nat.zero_add]

theorem insertBits_field (c x o n : Nat) : insertBits c x o n / 2 ^ o % 2 ^ n = x % 2 ^ n := by
  rw [insertBits_div, Nat.add_mul_mod_self_left, Nat.mod_mod]

theorem insertBits_above (c x o n : Nat) : insertBits c x o n / 2 ^ (o + n) = c / 2 ^ (o + n) := by
  rw [Nat.pow_add, ← Nat.div_div_eq_div_mul, insertBits_div, Nat.add_mul_div_left _ _ (Nat.two_pow_pos n),
    Nat.div_eq_of_lt (Nat.mod_lt _ (Nat.two_pow_pos n)), Nat.zero_add, Nat.pow_add]

/-- A field within `w` bits is replaced within them. -/
theorem insertBits_lt {c o n w : Nat} (x : Nat) (hc : c < 2 ^ w) (hw : o + n ≤ w) : insertBits c x o n < 2 ^ w := by
  obtain ⟨k, rfl⟩ : ∃ k, w = o + n + k := ⟨w - (o + n), by omega⟩
  rw [Nat.pow_add 2 (o + n), Nat.mul_comm, ← Nat.div_lt_iff_lt_mul (Nat.two_pow_pos _)] at hc ⊢
  rwa [insertBits_above]

theorem fieldOW_le {w o n : Nat} {d : Dword} (hf : fieldOW w d = (o, n)) : o + n ≤ w := by
  rw [fieldOW_eq] at hf
  obtain ⟨rfl, rfl⟩ := Prod.mk.inj hf
  omega

theorem bfi_toNat {ty : Nat} {a d c : Dword} {o n : Nat} (hf : fieldOW (elemW ty) d = (o, n)) (hc : c.toNat < 2 ^ elemW ty) :
    (bfi ty a d c).toNat = insertBits c.toNat a.toNat o n := by
  have hlt : insertBits c.toNat a.toNat o n < 2 ^ 64 :=
    lt_of_lt_of_le (insertBits_lt _ hc (fieldOW_le hf)) (Nat.pow_le_pow_right (by omega) (elemW_le ty))
  simp only [bfi, hf, Nat.mod_eq_of_lt hc, BitVec.toNat_ofNat]
  exact Nat.mod_eq_of_lt hlt

/-! ## Counts (R253) -/

theorem popN_eq (n x : Nat) : popN n x = ((List.range n).filter fun i => x.testBit i).length := by
  induction n generalizing x with
  | zero => rfl
  | succ n ih =>
    have h : (fun i => x.testBit i) ∘ Nat.succ = fun i => (x / 2).testBit i := by
      funext i; simp [Nat.testBit_succ]
    rw [popN, ih, List.range_succ_eq_map, List.filter_cons, List.filter_map, h, Nat.testBit_zero]
    by_cases e : x % 2 = 1
    · simp [e, Nat.add_comm]
    · simp [show x % 2 = 0 by omega]

theorem bitLenN_eq {n x : Nat} (h : x < 2 ^ n) : bitLenN n x = if x = 0 then 0 else Nat.log2 x + 1 := by
  induction n generalizing x with
  | zero => simp_all [bitLenN]
  | succ n ih =>
    rw [bitLenN]
    split
    · rfl
    · rw [ih (by omega), Nat.log2_def x]
      by_cases h2 : 2 ≤ x
      · rw [if_neg (by omega), if_pos h2]; omega
      · rw [if_pos (by omega), if_neg h2]

theorem popc_eq {ty : Nat} {a : Dword} (h : a.toNat < 2 ^ elemW ty) :
    popc ty a = BitVec.ofNat 32 (((List.range (elemW ty)).filter fun i => a.getLsbD i).length) := by
  rw [popc, Nat.mod_eq_of_lt h, popN_eq]; rfl

theorem clz_eq {ty : Nat} {a : Dword} (h : a.toNat < 2 ^ elemW ty) :
    clz ty a = BitVec.ofNat 32 (if a.toNat = 0 then elemW ty else elemW ty - 1 - Nat.log2 a.toNat) := by
  simp only [clz, Nat.mod_eq_of_lt h, bitLenN_eq h]
  congr 1
  split <;> omega

/-! ## Bit operations of an instruction that performs -/

section
variable {s : State} {f : FmtA}

theorem State.performs_sigSInt_type {types : List Nat} {sat : Bool} {k : Nat} {guard : Wave → LaneMask}
    (h : s.performs guard (sigSInt f types sat k) = true) : f.type ∈ types :=
  type_mem_of_badMod (State.performs_legal h).1

theorem State.performs_sigSCount_type {guard : Wave → LaneMask} (h : s.performs guard (sigSCount f) = true) :
    f.type ∈ tyPlain :=
  type_mem_of_badMod (State.performs_legal h).1

end

/-- Settles O2: the common form of a scalar result, and the value of each operation on whole sources. -/
theorem scalarBits : Obligations.ScalarBits := by
  intro f s w a b c x k o n field runs gets
  have lt (hty : f.type ∈ tyPlain) (p : Operand) : (s.me.srcT f.type p 0).toNat < 2 ^ elemW f.type :=
    Wave.srcT_lt hty s.me p 0
  have ow : fieldOW (elemW f.type) b = (o, n) := fieldOW_eq _ _
  have bitwise {i : Instr} (op : Dword → Dword → Dword → Dword)
      (hi : exec i s = scalarWide f (sigSInt f tyAll false 2) op s) :
      runs (sigSInt f tyAll false 2) i (gets (op a b c)) :=
    scalarWide_gives hi (sigSInt_dst ..) fun _ _ ht => ht
  refine ⟨bitwise (fun a b _ => a &&& b) rfl, bitwise (fun a b _ => a ||| b) rfl, bitwise (fun a b _ => a ^^^ b) rfl,
    bitwise (fun a b _ => a &&& ~~~ b) rfl, ?sshl, ?sshr, ?ssra, ?sbfe, ?sbfi, ?spopc, ?sclz⟩
  case sshl =>
    refine scalarWide_gives (op := fun a b _ => shiftI .left f.type a b) rfl (sigSInt_dst ..) fun h t ht => ?_
    have hty := State.performs_sigSInt_type h
    rwa [shiftI_left hty (lt hty _) (lt hty _)] at ht
  case sshr =>
    refine scalarWide_gives (op := fun a b _ => shiftI .right f.type a b) rfl (sigSInt_dst ..) fun h t ht => ?_
    have hty := State.performs_sigSInt_type h
    rwa [shiftI_right hty (lt hty _) (lt hty _)] at ht
  case ssra =>
    refine scalarWide_gives (op := fun a b _ => shiftI .arith f.type a b) rfl (sigSInt_dst ..) fun h t ht => ?_
    have hty := State.performs_sigSInt_type h
    rw [shiftI_arith hty (lt hty _) (lt hty _)] at ht
    exact Wave.holdsT_of_mod_eq hty (ofNat_wrapN_mod (elemW_le _) _) ht
  case sbfe =>
    refine scalarWide_gives (op := fun a b _ => bfe f.type a b) rfl (sigSInt_dst ..) fun h t ht => ?_
    exact Wave.holdsT_of_mod_eq (State.performs_sigSInt_type h) (bfe_mod ow) ht
  case sbfi =>
    refine scalarWide_gives (op := fun a b c => bfi f.type a b c) rfl (sigSInt_dst ..) fun h t ht => ⟨_, ht, ?_⟩
    rw [bfi_toNat ow (lt (State.performs_sigSInt_type h) _)]
    exact ⟨insertBits_below .., insertBits_field .., insertBits_above ..⟩
  case spopc =>
    refine scalarWord_gives (v := fun x => popc f.type (x.srcT f.type f.srcA 0)) rfl (sigSCount_dst f) fun h t ht => ?_
    rwa [popc_eq (lt (State.performs_sigSCount_type h) _)] at ht
  case sclz =>
    refine scalarWord_gives (v := fun x => clz f.type (x.srcT f.type f.srcA 0)) rfl (sigSCount_dst f) fun h t ht => ?_
    rwa [clz_eq (lt (State.performs_sigSCount_type h) _)] at ht

/-! ## Scalar floating point (R256, R257) -/

theorem ofNat_wrapN_word (z : Int) : BitVec.ofNat 32 (wrapN 32 z) = BitVec.ofInt 32 z := by
  apply BitVec.eq_of_toNat_eq
  rw [BitVec.toNat_ofNat, Nat.mod_eq_of_lt (wrapN_lt 32 z), BitVec.toNat_ofInt]; rfl

theorem sfcvt_i32 (mode x : Nat) :
    BitVec.ofNat 32 (sfcvt 0 mode x) = BitVec.ofInt 32 (f32Ty.toInt mode (-2147483648) 2147483647 x) := ofNat_wrapN_word _

theorem sfcvt_n32 (mode x : Nat) :
    BitVec.ofNat 32 (sfcvt 1 mode x) = BitVec.ofInt 32 (f32Ty.toInt mode 0 4294967295 x) := ofNat_wrapN_word _

theorem sfcvt_of_i32 (mode : Nat) (v : Word) :
    sfcvt 2 mode v.toNat = f32Ty.round mode (v.toInt < 0) v.toInt.natAbs 0 := by
  rw [sfcvt, FTy.ofInt, sext_eq_bmod, BitVec.toInt_eq_toNat_bmod]

theorem sfcvt_of_n32 (mode x : Nat) : sfcvt 3 mode x = f32Ty.round mode false x 0 := by
  rw [sfcvt, FTy.ofInt, decide_eq_false (by omega), Int.natAbs_natCast]

theorem FmtA.type_lt (f : FmtA) : f.type < 8 := Nat.mod_lt _ (by omega)

/-- Settles O5: the common form of a scalar result, and one row of Table 12.3 for each code of SFCVT. -/
theorem scalarFloat : Obligations.ScalarFloat := by
  intro f s r v gets runs a32 aInt
  refine ⟨?sfadd, ?sfmul, ?sffma, ?sfcvt⟩
  case sfadd => exact scalarWord_gives rfl (sigSFlt_dst f 2) fun _ _ ht => ht
  case sfmul => exact scalarWord_gives rfl (sigSFlt_dst f 2) fun _ _ ht => ht
  case sffma => exact scalarWord_gives rfl (sigSFlt_dst f 3) fun _ _ ht => ht
  case sfcvt =>
    refine scalarWord_gives rfl (sigSfcvt_dst f) fun _ t ht => ?_
    have hty := FmtA.type_lt f
    interval_cases f.type
    · rw [sfcvt_i32] at ht; exact ht
    · rw [sfcvt_n32] at ht; exact ht
    · rw [sfcvt_of_i32] at ht; exact ht
    · rw [sfcvt_of_n32] at ht; exact ht
    -- codes 4 to 7 convert by value, as `convF` says
    all_goals exact ht

end Sys2Proof.Machine
end

section
/-! Vector bit operations and vector floating point (R282, R284, R285, R295 to R297, R306): what a lane of a vector result reads
back as, the elements of packed results, and from these the statements. -/

namespace Sys2Proof.Machine

/-! ## Results of vector instructions -/

/-- A lane of a vector destination reads back the result of a TYPE that the instruction puts there. -/
theorem Wave.holdsT_putVT {x y : Wave} {ty n l : Nat} {o : Operand} {m : LaneMask} {v : Nat → Dword}
    (ho : (uDstV o n).legal = true) (h : y.alike (x.putVT ty o m v)) (hl : l < 32) (hm : inMask m l = true) :
    y.holdsT ty o l (v l) := by
  intro hz
  rcases Use.dstV_legal ho with ⟨k, rfl⟩ | rfl
  · rw [Wave.alike_srcT h, Wave.srcT_putVT _ _ _ _ _ _ hl hm]
  · exact absurd rfl hz

/-- A lane of a vector destination reads back the word that the instruction puts there. -/
theorem Wave.holdsWord_putV {x y : Wave} {n l : Nat} {o : Operand} {m : LaneMask} {v : Nat → Word}
    (ho : (uDstV o n).legal = true) (h : y.alike (x.putV o m v)) (hl : l < 32) (hm : inMask m l = true) :
    y.holdsWord o l (v l) := by
  intro hz
  rcases Use.dstV_legal ho with ⟨k, rfl⟩ | rfl
  · rw [Wave.alike_src h]; simp [Wave.src, Wave.putV, Wave.vGet_vSet _ _ _ _ _ _ hl, hm]
  · exact absurd rfl hz

/-- `post` holds of every ACTIVE lane. -/
def State.inLanes (s : State) (f : FmtA) (post : Nat → State → Prop) (t : State) : Prop :=
  ∀ l, l < 32 → inMask (s.active (byP f.guard f.neg)) l = true → post l t

section
variable {s : State} {f : FmtA} {g : Sig} {i : Instr} {n : Nat} {post : Nat → State → Prop}

/-- Where an instruction of the `vectorWide` form performs, each ACTIVE lane of its destination holds the operation on its
sources in that lane. -/
theorem vectorWide_gives {op : Dword → Dword → Dword → Dword} (hi : exec i s = vectorWide f g op s)
    (hd : uDstV f.dst n ∈ g.uses)
    (hp : s.performs (byP f.guard f.neg) g = true → ∀ (t : State) (l : Nat), t.me.holdsT f.type f.dst l
      (op (s.me.srcT f.type f.srcA l) (s.me.srcT f.type f.srcB l) (s.me.srcT f.type f.srcC l)) → post l t) :
    s.gives (byP f.guard f.neg) g i (s.inLanes f post) := by
  intro h
  obtain ⟨t, ht, hme, -⟩ := vectorOp_performs (f := fun x m => x.putVT f.type f.dst m fun l =>
    op (x.srcT f.type f.srcA l) (x.srcT f.type f.srcB l) (x.srcT f.type f.srcC l)) h
  exact ⟨t, hi.trans ht, fun l hl hm => hp h t l (Wave.holdsT_putVT ((State.performs_legal h).2 _ hd) hme hl hm)⟩

/-- Where a vector instruction that puts one word in a lane performs, each ACTIVE lane of its destination holds that word. -/
theorem vectorWord_gives {v : Wave → Nat → Word}
    (hi : exec i s = vectorOp f.guard f.neg g (fun x m => x.putV f.dst m (v x)) s) (hd : uDstV f.dst n ∈ g.uses)
    (hp : s.performs (byP f.guard f.neg) g = true → ∀ (t : State) (l : Nat),
      t.me.holdsWord f.dst l (v s.me l) → post l t) :
    s.gives (byP f.guard f.neg) g i (s.inLanes f post) := by
  intro h
  obtain ⟨t, ht, hme, -⟩ := vectorOp_performs (f := fun x m => x.putV f.dst m (v x)) h
  exact ⟨t, hi.trans ht, fun l hl hm => hp h t l (Wave.holdsWord_putV ((State.performs_legal h).2 _ hd) hme hl hm)⟩

theorem State.performs_sigVInt_type {types : List Nat} {sat : Bool} {k : Nat} {guard : Wave → LaneMask}
    (h : s.performs guard (sigVInt f types sat k) = true) : f.type ∈ types :=
  type_mem_of_badMod (State.performs_legal h).1

theorem State.performs_sigVCount_type {guard : Wave → LaneMask} (h : s.performs guard (sigVCount f) = true) :
    f.type ∈ tyPlain :=
  type_mem_of_badMod (State.performs_legal h).1

theorem State.performs_sigFlt_type {types : List Nat} {round : Bool} {k : Nat} {guard : Wave → LaneMask}
    (h : s.performs guard (sigFlt f types round k) = true) : f.type ∈ types :=
  type_mem_of_badMod (State.performs_legal h).1

end

theorem sigVInt_dst (f : FmtA) (types : List Nat) (sat : Bool) (k : Nat) :
    uDstV f.dst (regsOf f.type) ∈ (sigVInt f types sat k).uses := List.mem_cons_self
theorem sigVCount_dst (f : FmtA) : uDstV f.dst 1 ∈ (sigVCount f).uses := List.mem_cons_self
theorem sigFlt_dst (f : FmtA) (types : List Nat) (round : Bool) (k : Nat) :
    uDstV f.dst 1 ∈ (sigFlt f types round k).uses := List.mem_cons_self
theorem sigFmov_dst (f : FmtA) : uDstV f.dst 1 ∈ (sigFmov f).uses := List.mem_cons_self

/-! ## Elements of packed results -/

theorem bitsOf_eq_div_mod (x lo n : Nat) : bitsOf x lo n = x / 2 ^ lo % 2 ^ n := by
  rw [bitsOf, Nat.shiftRight_eq_div_pow]

/-- A field is in the low bits that reach beyond it. -/
theorem bitsOf_mod {lo n v : Nat} (x : Nat) (h : lo + n ≤ v) : bitsOf (x % 2 ^ v) lo n = bitsOf x lo n := by
  apply Nat.eq_of_testBit_eq
  intro i
  simp only [bitsOf, Nat.testBit_mod_two_pow, Nat.testBit_shiftRight]
  by_cases hi : i < n
  · simp [hi, show lo + i < v by omega]
  · simp [hi]

/-- Elements packed into a word wide enough for all of them read back. -/
theorem bitsOf_ofNat_packBits {v w n k : Nat} (g : Nat → Nat) (hv : w * n ≤ v) (hk : k < n) :
    bitsOf (BitVec.ofNat v (packBits w ((List.range n).map g))).toNat (w * k) w = g k % 2 ^ w := by
  have hfit : w * k + w ≤ v := (Nat.mul_le_mul_left w hk).trans hv
  rw [BitVec.toNat_ofNat, bitsOf_mod _ hfit, bitsOf_packBits _ _ _ (by simpa using hk)]
  simp

theorem elemW_mul_le (ty : Nat) : elemW ty * elemN ty ≤ 64 := by
  rw [elemW_mul]; split <;> omega

/-- A destination that holds a double word has its elements. -/
theorem Wave.bitsOf_of_holdsT {x : Wave} {ty l k : Nat} {o : Operand} {v : Dword} (h : x.holdsT ty o l v) (hz : o ≠ .zero)
    (hk : k < elemN ty) :
    bitsOf (x.srcT ty o l).toNat (elemW ty * k) (elemW ty) = bitsOf v.toNat (elemW ty * k) (elemW ty) := by
  rw [h hz]
  split
  · rfl
  · rename_i hw
    have hfit : elemW ty * k + elemW ty ≤ 32 := by
      have := elemW_mul ty
      rw [if_neg hw] at this
      exact (Nat.mul_le_mul_left _ hk).trans this.le
    have hlow : ((loHalf v).setWidth 64).toNat = v.toNat % 2 ^ 32 := by
      simp [loHalf]; omega
    rw [hlow, bitsOf_mod _ hfit]

/-! ## Shifts of elements (R284) -/

/-- Each element of a shifted operand is that element shifted by its own amount. -/
theorem bitsOf_shiftI (kind : ShK) {ty k : Nat} (a b : Dword) (hk : k < elemN ty) :
    bitsOf (shiftI kind ty a b).toNat (elemW ty * k) (elemW ty) =
      kind.apply (elemW ty) (bitsOf a.toNat (elemW ty * k) (elemW ty)) (bitsOf b.toNat (elemW ty * k) (elemW ty))
        % 2 ^ elemW ty :=
  bitsOf_ofNat_packBits _ (elemW_mul_le ty) hk

theorem shlN_mod (w x k : Nat) : shlN w x k % 2 ^ w = if w ≤ k then 0 else x * 2 ^ k % 2 ^ w := by
  unfold shlN; split <;> simp

theorem shrN_mod {w x : Nat} (k : Nat) (h : x < 2 ^ w) : shrN w x k % 2 ^ w = if w ≤ k then 0 else x / 2 ^ k := by
  unfold shrN
  split
  · simp
  · rw [Nat.mod_eq_of_lt h, Nat.mod_eq_of_lt ((Nat.div_le_self _ _).trans_lt h)]

theorem sraN_mod (w x k : Nat) :
    sraN w x k % 2 ^ w = (((x : Int).bmod (2 ^ w) / 2 ^ min k (w - 1)) % 2 ^ w).toNat := by
  rw [sraN, Nat.mod_eq_of_lt (wrapN_lt _ _), sext_eq_bmod, wrapN]

theorem bitsOf_lt (x lo n : Nat) : bitsOf x lo n < 2 ^ n := Nat.mod_lt _ (Nat.two_pow_pos n)

/-- Settles O8: the common form of a vector result; shifts element by element, and the rest as scalar values of the lane. -/
theorem vectorBits : Obligations.VectorBits := by
  intro f s ty w m lanes runs a b c elem o n field bits shifts
  have lt (hty : ty ∈ tyPlain) (p : Operand) (l : Nat) : (s.me.srcT ty p l).toNat < 2 ^ w := Wave.srcT_lt hty s.me p l
  have ow (l : Nat) : fieldOW w (b l) = (o l, n l) := fieldOW_eq _ _
  have bitwise {i : Instr} (op : Dword → Dword → Dword)
      (hi : exec i s = vectorWide f (sigVInt f tyAll false 2) (fun a b _ => op a b) s) :
      runs (sigVInt f tyAll false 2) i (bits op) :=
    vectorWide_gives hi (sigVInt_dst ..) fun _ _ _ ht => ht
  have shifted {i : Instr} (kind : ShK) (op : Nat → Nat → Nat)
      (hi : exec i s = vectorWide f (sigVInt f tyAll false 2) (fun a b _ => shiftI kind ty a b) s)
      (hop : ∀ x k, x < 2 ^ w → kind.apply w x k % 2 ^ w = op x k) :
      runs (sigVInt f tyAll false 2) i (shifts op) := by
    refine vectorWide_gives hi (sigVInt_dst ..) fun _ t l ht hz k hk => ?_
    have hbits := Wave.bitsOf_of_holdsT ht hz hk
    rw [bitsOf_shiftI _ _ _ hk, hop _ _ (bitsOf_lt ..)] at hbits
    simpa only [bitsOf_eq_div_mod] using hbits
  refine ⟨bitwise (· &&& ·) rfl, bitwise (· ||| ·) rfl, bitwise (· ^^^ ·) rfl, bitwise (fun a b => a &&& ~~~ b) rfl,
    shifted .left _ rfl fun x k _ => shlN_mod w x k, shifted .right _ rfl fun _ k hx => shrN_mod k hx,
    shifted .arith _ rfl fun x k _ => sraN_mod w x k, ?vbfe, ?vbfi, ?vpopc, ?vclz⟩
  case vbfe =>
    refine vectorWide_gives (op := fun a b _ => bfe ty a b) rfl (sigVInt_dst ..) fun h t l ht => ?_
    exact Wave.holdsT_of_mod_eq (State.performs_sigVInt_type h) (bfe_mod (ow l)) ht
  case vbfi =>
    refine vectorWide_gives (op := fun a b c => bfi ty a b c) rfl (sigVInt_dst ..) fun h t l ht => ⟨_, ht, ?_⟩
    rw [bfi_toNat (ow l) (lt (State.performs_sigVInt_type h) _ _)]
    exact ⟨insertBits_below .., insertBits_field .., insertBits_above ..⟩
  case vpopc =>
    refine vectorWord_gives (v := fun x l => popc ty (x.srcT ty f.srcA l)) rfl (sigVCount_dst f) fun h t l ht => ?_
    rwa [popc_eq (lt (State.performs_sigVCount_type h) _ _)] at ht
  case vclz =>
    refine vectorWord_gives (v := fun x l => clz ty (x.srcT ty f.srcA l)) rfl (sigVCount_dst f) fun h t l ht => ?_
    rwa [clz_eq (lt (State.performs_sigVCount_type h) _ _)] at ht

/-! ## Elements of floating-point results (R296) -/

theorem fltW_mul_fltN (ty : Nat) : fltW ty * fltN ty = 32 := by
  unfold fltW fltN; split <;> rfl

/-- Each element of a mapped word is the operation on the elements of the sources. -/
theorem bitsOf_mapF {ty k : Nat} (op : FTy → Nat → Nat → Nat → Nat) (a b c : Word) (hk : k < fltN ty) :
    bitsOf (mapF ty op a b c).toNat (fltW ty * k) (fltW ty) =
      op (fltTy ty) (bitsOf a.toNat (fltW ty * k) (fltW ty)) (bitsOf b.toNat (fltW ty * k) (fltW ty))
        (bitsOf c.toNat (fltW ty * k) (fltW ty)) % 2 ^ fltW ty :=
  bitsOf_ofNat_packBits _ (fltW_mul_fltN ty).le hk

/-- Element `k` of a floating-point source in a lane, as bits. -/
def Wave.fltElem (x : Wave) (ty : Nat) (o : Operand) (l k : Nat) : Nat :=
  (x.src (fltCK ty) o l).toNat / 2 ^ (fltW ty * k) % 2 ^ fltW ty

theorem Wave.fltElem_lt (x : Wave) (ty : Nat) (o : Operand) (l k : Nat) : x.fltElem ty o l k < 2 ^ fltW ty :=
  Nat.mod_lt _ (Nat.two_pow_pos _)

/-- Where an instruction of the `vectorFlt` form performs, each element of each ACTIVE lane of its destination holds `v` of the
elements of its sources, where `v` is its operation. -/
theorem vectorFlt_gives {s : State} {f : FmtA} {g : Sig} {i : Instr} {op : FTy → Nat → Nat → Nat → Nat}
    {v : Nat → Nat → Nat → Nat} (hi : exec i s = vectorFlt f g op s) (hd : uDstV f.dst 1 ∈ g.uses)
    (hv : ∀ a b c, a < 2 ^ fltW f.type → op (fltTy f.type) a b c = v a b c) :
    s.gives (byP f.guard f.neg) g i (s.inLanes f fun l t => f.dst ≠ .zero → ∀ k, k < fltN f.type →
      (t.me.src .int f.dst l).toNat / 2 ^ (fltW f.type * k) % 2 ^ fltW f.type =
        v (s.me.fltElem f.type f.srcA l k) (s.me.fltElem f.type f.srcB l k) (s.me.fltElem f.type f.srcC l k)
          % 2 ^ fltW f.type) := by
  refine vectorWord_gives (v := fun x l => mapF f.type op (x.src (fltCK f.type) f.srcA l) (x.src (fltCK f.type) f.srcB l)
    (x.src (fltCK f.type) f.srcC l)) hi hd fun _ t l ht hz k hk => ?_
  rw [ht hz, ← bitsOf_eq_div_mod, bitsOf_mapF op _ _ _ hk]
  simp only [bitsOf_eq_div_mod]
  rw [hv _ _ _ (Nat.mod_lt _ (Nat.two_pow_pos _))]
  rfl

/-! ## Minimum and maximum (R296, R136) -/

theorem FTy.minmax_min (t : FTy) (a b : Nat) : t.minmax false a b =
    if t.isNan a then (if t.isNan b then t.nan else b) else if t.isNan b then a
    else if t.key a < t.key b then a else b := by
  simp [FTy.minmax]

theorem FTy.minmax_max (t : FTy) (a b : Nat) : t.minmax true a b =
    if t.isNan a then (if t.isNan b then t.nan else b) else if t.isNan b then a
    else if t.key a < t.key b then b else a := by
  simp only [FTy.minmax]
  by_cases h : t.key a < t.key b <;> simp [h]

/-! ## Signs (R297) -/

/-- A number of `n + 1` bits is its magnitude and its sign bit. -/
theorem eq_mod_add_signBit {n a : Nat} (h : a < 2 ^ (n + 1)) : a = a % 2 ^ n + if bitOf a n then 2 ^ n else 0 := by
  have hq : a / 2 ^ n < 2 := by rw [Nat.div_lt_iff_lt_mul (Nat.two_pow_pos n)]; omega
  have hbit : bitOf a n = decide (a / 2 ^ n % 2 = 1) := Nat.testBit_eq_decide_div_mod_eq
  have hdiv := Nat.mod_add_div a (2 ^ n)
  interval_cases a / 2 ^ n <;> simp_all

/-- Inverting the sign bit of a number leaves its magnitude. -/
theorem xor_signBit {n a : Nat} (h : a < 2 ^ (n + 1)) :
    a ^^^ 2 ^ n = a % 2 ^ n + if !bitOf a n then 2 ^ n else 0 := by
  have hlt : a ^^^ 2 ^ n < 2 ^ (n + 1) := Nat.xor_lt_two_pow h (Nat.pow_lt_pow_right (by omega) (by omega))
  have hmod : (a ^^^ 2 ^ n) % 2 ^ n = a % 2 ^ n := by rw [Nat.xor_mod_two_pow, Nat.mod_self, Nat.xor_zero]
  have hbit : bitOf (a ^^^ 2 ^ n) n = !bitOf a n := by simp [bitOf]
  rw [eq_mod_add_signBit hlt, hmod, hbit]

/-- An element that is no NaN keeps its magnitude; its sign is cleared, and then inverted, as asked. -/
theorem fmovElem_eq (abs neg : Bool) (t : FTy) {n a : Nat} (hn : t.ew + t.fw = n) (h : a < 2 ^ (n + 1)) :
    fmovElem abs neg t a =
      if t.isNan a then t.nan else a % 2 ^ n + if (bitOf a n && !abs) != neg then 2 ^ n else 0 := by
  have hlt : a % 2 ^ n < 2 ^ (n + 1) := (Nat.mod_le _ _).trans_lt h
  have hbit : bitOf (a % 2 ^ n) n = false := Nat.testBit_lt_two_pow (Nat.mod_lt _ (Nat.two_pow_pos n))
  simp only [fmovElem, hn]
  split
  · rfl
  · cases abs <;> cases neg
    · simpa using eq_mod_add_signBit h
    · simpa using xor_signBit h
    · simp
    · simpa [hbit] using xor_signBit hlt

/-- Below the sign bit of an element stand its exponent and fraction. -/
theorem fltTy_signBit (ty : Nat) : (fltTy ty).ew + (fltTy ty).fw = fltW ty - 1 := by
  rcases ty with _ | _ | ty <;> rfl

theorem fltW_pos (ty : Nat) : 0 < fltW ty := by
  unfold fltW; split <;> omega

/-- Settles O12: the common form of a vector floating-point result, with each operation's value on elements, and FDOT2's word. -/
theorem vectorFloat : Obligations.VectorFloat := by
  intro f s m r ty w e runs val
  have elements {g : Sig} {i : Instr} (op : FTy → Nat → Nat → Nat → Nat) {v : Nat → Nat → Nat → Nat}
      (hi : exec i s = vectorFlt f g op s) (hd : uDstV f.dst 1 ∈ g.uses)
      (hv : ∀ a b c, a < 2 ^ w → op ty a b c = v a b c) : runs g i v :=
    vectorFlt_gives hi hd hv
  refine ⟨elements (fun t a b _ => t.add r a b) rfl (sigFlt_dst ..) fun _ _ _ _ => rfl,
    elements (fun t a b _ => t.sub r a b) rfl (sigFlt_dst ..) fun _ _ _ _ => rfl,
    elements (fun t a b _ => t.mul r a b) rfl (sigFlt_dst ..) fun _ _ _ _ => rfl,
    elements (fun t a b c => t.fma r a b c) rfl (sigFlt_dst ..) fun _ _ _ _ => rfl,
    elements (fun t a b _ => t.minmax false a b) rfl (sigFlt_dst ..) fun a b _ _ => ty.minmax_min a b,
    elements (fun t a b _ => t.minmax true a b) rfl (sigFlt_dst ..) fun a b _ _ => ty.minmax_max a b, ?fmov, ?fdot2⟩
  case fmov =>
    refine elements (fun t a _ _ => fmovElem _ _ t a) rfl (sigFmov_dst f) fun a _ _ ha =>
      fmovElem_eq _ _ ty (fltTy_signBit f.type) ?_
    rwa [Nat.sub_add_cancel (fltW_pos f.type)]
  case fdot2 =>
    refine vectorWord_gives (v := fun x l => BitVec.ofNat 32 (fdot2 ty r (x.src (fltCK f.type) f.srcA l).toNat
      (x.src (fltCK f.type) f.srcB l).toNat (x.src .f32 f.srcC l).toNat)) rfl (sigFlt_dst ..) fun h t l ht => ?_
    have hty : f.type = 1 ∨ f.type = 2 := by simpa using State.performs_sigFlt_type h
    have hw : w = 16 := if_neg (by omega)
    simpa only [fdot2, bitsOf_eq_div_mod, e, hw] using ht

end Sys2Proof.Machine
end
